-- ==== Sys2Proof/Word.lean ====
section
/-! DEFINITION. The word types of the model and their plainest arithmetic (00_scope, Notation). -/

namespace Sys2Proof

/-- A 64-bit word: a scalar register (03, Program state), a register field, a time stamp (R5). -/
abbrev Word := BitVec 64

/-- One byte of memory. -/
abbrev Byte := BitVec 8

/-- A 32-bit lane of a vector register or an accumulator element (03, Program state). -/
abbrev Lane := BitVec 32

end Sys2Proof
end

