-- ==== Sys2Proof/Syntax.lean ====
section
/-! DEFINITION. The commands of the block: one constructor of `Instr` for each row of
spec/opcode_table.json, with the row's operands. The core instructions carry the fields of R63.
Choices of the model here: log entry 11 (DESIGN CHOICE), log entry 30 (DESIGN CHOICE). -/

namespace Sys2Proof

/-- A logical core: cluster 0 to 63 and logical core 0 to 33 of it (R8, R173). -/
structure CoreRef where
  cluster : Nat
  core : Nat
deriving DecidableEq, Repr

/-- PRED and PNEG of an instruction word (R61). -/
structure Pred where
  p : BitVec 3
  neg : Bool
deriving DecidableEq, Repr

/-- The operand fields of classes SALU (`reg`) and SIMM (`imm`) (R63). `rsv` holds bits [34:0]. -/
inductive AluForm where
  | reg (d a b : BitVec 5) (rsv : BitVec 35)
  | imm (d a : BitVec 5) (i : BitVec 40)
deriving DecidableEq, Repr

/-- The operand fields of class CTRL (R63). -/
structure CtrlFields where
  a : BitVec 5
  b : BitVec 5
  live : BitVec 8
  off : BitVec 32
deriving DecidableEq, Repr

/-- The operand fields of class SMEM (R63); `rsv` holds bits [19:0]. -/
structure SmemFields where
  d : BitVec 5
  a : BitVec 5
  off : BitVec 20
  rsv : BitVec 20
deriving DecidableEq, Repr

/-- The operand fields of class VALU (R63); `rsv` holds bits [22:0]. -/
structure ValuFields where
  vd : BitVec 5
  va : BitVec 5
  vb : BitVec 5
  vc : BitVec 5
  fmt : BitVec 4
  rm : BitVec 2
  sat : Bool
  rsv : BitVec 23
deriving DecidableEq, Repr

/-- The operand fields of class VMEM (R63); `rsv` holds bits [14:0]. -/
structure VmemFields where
  v : BitVec 5
  a : BitVec 5
  x : BitVec 5
  off : BitVec 20
  rsv : BitVec 15
deriving DecidableEq, Repr

/-- The operand fields of class VCVT (R63); `rsv` holds bits [18:0]. -/
structure VcvtFields where
  vd : BitVec 5
  va : BitVec 5
  sf : BitVec 4
  df : BitVec 4
  rm : BitVec 2
  ovf : Bool
  shift : BitVec 5
  sd : BitVec 5
  rsv : BitVec 19
deriving DecidableEq, Repr

/-- The operand fields of class MAT (R63); `rsv` holds bits [19:0]. -/
structure MatFields where
  acc : BitVec 2
  da : BitVec 5
  db : BitVec 5
  ks : BitVec 5
  z : Bool
  evt : BitVec 4
  post : Bool
  fmt : BitVec 4
  rm : BitVec 2
  ovf : Bool
  rsv : BitVec 20
deriving DecidableEq, Repr

/-- The operand fields of class STRM (R63); `rsv` holds bits [25:0]. -/
structure StrmFields where
  st : BitVec 4
  a : BitVec 5
  b : BitVec 5
  c : BitVec 5
  evt : BitVec 4
  post : Bool
  rsv : BitVec 26
deriving DecidableEq, Repr

/-- The operand fields of class XFER (R63); `rsv` holds bits [27:0]. -/
structure XferFields where
  d : BitVec 5
  a : BitVec 5
  l : BitVec 5
  evt : BitVec 4
  post : Bool
  eng : BitVec 2
  rsv : BitVec 28
deriving DecidableEq, Repr

/-- The operand fields of class SYNC (R63); `rsv` holds bits [36:32]. -/
structure SyncFields where
  a : BitVec 5
  evt : BitVec 4
  mask : BitVec 4
  imm : BitVec 32
  rsv : BitVec 5
deriving DecidableEq, Repr

/-- The operand fields of class SYS (R63); `rsv` holds bits [27:0]. -/
structure SysFields where
  d : BitVec 5
  a : BitVec 5
  csr : BitVec 12
  rsv : BitVec 28
deriving DecidableEq, Repr

/-- The asynchronous unit whose oldest piece of work completes (R80): the matrix or vector queue, the
transfer queue, or the oldest send, receive or request return of a stream. -/
inductive AsyncUnit where
  | matrix
  | vector
  | transfer
  | send (st : BitVec 4)
  | recv (st : BitVec 4)
  | req (st : BitVec 4)
deriving DecidableEq, Repr

/-- The PCIe function through which an access is made (R290, R294, R296). `sec` is the secondary
physical function of a bifurcated port (R288). -/
inductive HostFn where
  | pf (port : Nat)
  | sec (port : Nat)
  | vf (port k : Nat)
deriving DecidableEq, Repr

/-- The unit whose background-activity window starts (R137, R177, R181, R349). -/
inductive BudgetUnit where
  | dramChannel (chan : Nat)
  | way (yard way : Nat)
  | log (entry : Nat)
  | yard (yard : Nat)
  | gddrChannel (chan : Nat)
  | cxlPort (port : Nat)
  | ryuPort (port : Nat)
  | masthead
deriving DecidableEq, Repr

/-- A port of a router (R147): north, east, south, west, local. -/
inductive Dir where
  | n | e | s | w | l
deriving DecidableEq, Repr

/-- The access whose GDDR7 or far-tier timer expires (R199): row `k` of the request on a lookup
engine, or the migration of a page of the range at `vstart`. -/
inductive AccessRef where
  | row (yard engine k : Nat)
  | migration (ctx vstart page : Nat)
deriving DecidableEq, Repr

/-- What training of a Ryurun port ends with (R210, R211): success with the corrections it made. -/
structure TrainResult where
  ok : Bool
  polarity : BitVec 4
  laneMap : BitVec 8
deriving DecidableEq, Repr

/-- One credit field of a LINK block (R221). -/
structure CreditField where
  lease : BitVec 4
  cls : BitVec 3
  valid : Bool
  blocks : BitVec 16
deriving DecidableEq, Repr

/-- A LINK block as received whole (R221). -/
structure LinkBlock where
  ackSeq : BitVec 12
  ackV : Bool
  nak : Bool
  pmark : Bool
  rsv : BitVec 9
  credits : List CreditField
  crcOk : Bool
deriving DecidableEq, Repr

/-- A block received in one slot (R212, R213): a control block by CTYPE or a data block. -/
structure RxBlock where
  control : Bool
  bytes : List Byte
deriving DecidableEq, Repr

/-- A Ryurun message as its last frame is accepted by the link (R215, R218): the header fields, the
plaintext payload with the 32-byte units of it that are poisoned, and the verdict of the AES-GCM tag check of
R218. -/
structure RyuMsg where
  src : Nat
  dst : Nat
  lease : Nat
  tc : Nat
  enc : Bool
  tagOk : Bool
  poison : List Bool
  tag : Nat
  tepoch : BitVec 8
  keyGen : BitVec 16
  rKeyGen : BitVec 16
  xlen : BitVec 8
  arg : Word
  win : Nat
  payload : List Byte
deriving DecidableEq, Repr

/-- A cleat message (R250) as its last frame is accepted by the link: the port, the header fields with the verdict of the
tag check of R218, and the payload. Port 32 stands for a message of this device to itself. -/
structure CleatMsg where
  port : Nat
  src : Nat
  dst : Nat
  lease : Nat
  enc : Bool
  tagOk : Bool
  keyGen : BitVec 16
  id : Word
  epoch : BitVec 32
  win : Nat
  stateAddr : Word
  stateLen : Word
  mirror : Nat
deriving DecidableEq, Repr

/-- The header of a message of the fabric manager (R215, R259): the port it comes on, its source and destination, and the ARG that
FM_ACK names. -/
structure FmHdr where
  port : Nat
  src : Nat
  dst : Nat
  arg : Word
deriving DecidableEq, Repr

/-- The adjustment that one FM_TIME exchange gives the counter (R260). -/
inductive FmTime where
  | none
  | hold
  | advance
deriving DecidableEq, Repr

/-- The fabric manager's ruling on a cleat (R255). -/
inductive RulingKind where
  | owner | restart | lost
deriving DecidableEq, Repr

structure Ruling where
  id : Word
  kind : RulingKind
  node : Nat
  epoch : BitVec 32
deriving DecidableEq, Repr

/-- An FM_PLACE answer (R259): the node placed for a phase or a mirror of a dispatch. -/
inductive PlaceRole where
  | phase1 | phase2 | mirror
deriving DecidableEq, Repr

structure Placement where
  id : Word
  role : PlaceRole
  node : Nat
deriving DecidableEq, Repr

/-- The state of a peer node in FM_PEER_STATE (R261). -/
inductive PeerState where
  | up | recovering | down
deriving DecidableEq, Repr

/-- A resource whose scrub failed (R282). -/
inductive ScrubRef where
  | cluster (n : Nat)
  | way (i : Nat)
  | lookup (i : Nat)
  | upd (i : Nat)
  | dram (c : Nat)
  | gddr (c : Nat)
  | far (s : Nat)
deriving DecidableEq, Repr

/-- The keys of an opened delivery package (R365). -/
structure KeyPackage where
  dmaKey : BitVec 256
  dmaSender : BitVec 32
  linkKey : BitVec 256
  senderId : BitVec 32
  sampleKey : BitVec 256
  killCode : BitVec 256
deriving DecidableEq, Repr

/-- What a debug access reaches (R382). -/
inductive DebugAccess where
  | boundary
  | mastheadMem (a : Nat) (w : Option Byte)
  | mem (a : Nat) (w : Option Byte)
  | keyStore
deriving DecidableEq, Repr

/-- A reset pin (R389). -/
inductive ResetPin where
  | perst0 | perst1 | trayReset
deriving DecidableEq, Repr

/-- One entry of a self-test result record (R401). -/
structure TestEntry where
  kind : Nat
  index : Nat
  test : Nat
  lasting : Bool
deriving DecidableEq, Repr

/-- Why PWR_GOOD falls (R454). -/
inductive PowerLossCause where
  | belowTurnOff
  | railOut
deriving DecidableEq, Repr

/-- How the replay of a suspect ends (R424): it completes, or it hangs and the block check passes
(`guilty`), passes on its second run (`guiltyRetry`) or fails twice (`blockBad`). -/
inductive ReplayVerdict where
  | completed
  | guilty
  | guiltyRetry
  | blockBad
deriving DecidableEq, Repr

/-- The read from host memory whose 50 ms timeout passes (R412): a command's payload read, a DMA
read, a yard's read of a row or its group header, a yard request's read of its descriptor or of an update's row and state. -/
inductive HostReadRef where
  | command (q n : Nat)
  | dma (cluster eng k : Nat)
  | row (yard engine k : Nat)
  | request (yard id : Nat)
deriving DecidableEq, Repr

/-- What the trim controller measures in an interval (R440 to R443): module input and fixed power in
units of 0.1 W, and for clusters (cluster, power of its cores, its share of its sail's yard engine power), the powers in
units of 0.01 W. -/
structure TrimMeasure where
  input : Nat
  fixed : Nat
  clusters : List (Nat × Nat × Nat)
deriving DecidableEq, Repr

/-- A clock island (R433). -/
inductive Island where
  | core (cluster phys : Nat)
  | router (r : Nat)
  | yard (y : Nat)
  | other (k : Nat)
deriving DecidableEq, Repr

/-- One piece of energy of an attribution interval in nJ (R445): a command's activity, a context's
save or restore, a sail's own, or fixed energy. -/
inductive EnergyItem where
  | command (q n nj : Nat)
  | context (ctx nj : Nat)
  | sail (s nj : Nat)
  | fixed (nj : Nat)
deriving DecidableEq, Repr

/-- The commands of the block: the rows of spec/opcode_table.json. -/
inductive Instr where
  | add (c : CoreRef) (g : Pred) (f : AluForm)
  | sub (c : CoreRef) (g : Pred) (f : AluForm)
  | mul (c : CoreRef) (g : Pred) (f : AluForm)
  | mulhu (c : CoreRef) (g : Pred) (f : AluForm)
  | divu (c : CoreRef) (g : Pred) (f : AluForm)
  | remu (c : CoreRef) (g : Pred) (f : AluForm)
  | and (c : CoreRef) (g : Pred) (f : AluForm)
  | or (c : CoreRef) (g : Pred) (f : AluForm)
  | xor (c : CoreRef) (g : Pred) (f : AluForm)
  | sll (c : CoreRef) (g : Pred) (f : AluForm)
  | srl (c : CoreRef) (g : Pred) (f : AluForm)
  | sra (c : CoreRef) (g : Pred) (f : AluForm)
  | min (c : CoreRef) (g : Pred) (f : AluForm)
  | max (c : CoreRef) (g : Pred) (f : AluForm)
  | minu (c : CoreRef) (g : Pred) (f : AluForm)
  | maxu (c : CoreRef) (g : Pred) (f : AluForm)
  | ceq (c : CoreRef) (g : Pred) (f : AluForm)
  | cne (c : CoreRef) (g : Pred) (f : AluForm)
  | clt (c : CoreRef) (g : Pred) (f : AluForm)
  | cltu (c : CoreRef) (g : Pred) (f : AluForm)
  | cge (c : CoreRef) (g : Pred) (f : AluForm)
  | cgeu (c : CoreRef) (g : Pred) (f : AluForm)
  | pand (c : CoreRef) (g : Pred) (f : AluForm)
  | por (c : CoreRef) (g : Pred) (f : AluForm)
  | pnot (c : CoreRef) (g : Pred) (f : AluForm)
  | li (c : CoreRef) (g : Pred) (f : AluForm)
  | lih (c : CoreRef) (g : Pred) (f : AluForm)
  | nop (c : CoreRef) (g : Pred) (f : CtrlFields)
  | br (c : CoreRef) (g : Pred) (f : CtrlFields)
  | brr (c : CoreRef) (g : Pred) (f : CtrlFields)
  | call (c : CoreRef) (g : Pred) (f : CtrlFields)
  | ret (c : CoreRef) (g : Pred) (f : CtrlFields)
  | loop (c : CoreRef) (g : Pred) (f : CtrlFields)
  | yield (c : CoreRef) (g : Pred) (f : CtrlFields)
  | halt (c : CoreRef) (g : Pred) (f : CtrlFields)
  | ld8u (c : CoreRef) (g : Pred) (f : SmemFields)
  | ld16u (c : CoreRef) (g : Pred) (f : SmemFields)
  | ld32u (c : CoreRef) (g : Pred) (f : SmemFields)
  | ld64 (c : CoreRef) (g : Pred) (f : SmemFields)
  | ld8s (c : CoreRef) (g : Pred) (f : SmemFields)
  | ld16s (c : CoreRef) (g : Pred) (f : SmemFields)
  | ld32s (c : CoreRef) (g : Pred) (f : SmemFields)
  | st8 (c : CoreRef) (g : Pred) (f : SmemFields)
  | st16 (c : CoreRef) (g : Pred) (f : SmemFields)
  | st32 (c : CoreRef) (g : Pred) (f : SmemFields)
  | st64 (c : CoreRef) (g : Pred) (f : SmemFields)
  | vadd (c : CoreRef) (g : Pred) (f : ValuFields)
  | vsub (c : CoreRef) (g : Pred) (f : ValuFields)
  | vmul (c : CoreRef) (g : Pred) (f : ValuFields)
  | vfma (c : CoreRef) (g : Pred) (f : ValuFields)
  | vmin (c : CoreRef) (g : Pred) (f : ValuFields)
  | vmax (c : CoreRef) (g : Pred) (f : ValuFields)
  | vdiv (c : CoreRef) (g : Pred) (f : ValuFields)
  | vrcp (c : CoreRef) (g : Pred) (f : ValuFields)
  | vrsqrt (c : CoreRef) (g : Pred) (f : ValuFields)
  | vexp2 (c : CoreRef) (g : Pred) (f : ValuFields)
  | vlog2 (c : CoreRef) (g : Pred) (f : ValuFields)
  | vand (c : CoreRef) (g : Pred) (f : ValuFields)
  | vor (c : CoreRef) (g : Pred) (f : ValuFields)
  | vxor (c : CoreRef) (g : Pred) (f : ValuFields)
  | vshl (c : CoreRef) (g : Pred) (f : ValuFields)
  | vshr (c : CoreRef) (g : Pred) (f : ValuFields)
  | vbcast (c : CoreRef) (g : Pred) (f : ValuFields)
  | vredsum (c : CoreRef) (g : Pred) (f : ValuFields)
  | vredmax (c : CoreRef) (g : Pred) (f : ValuFields)
  | vmov (c : CoreRef) (g : Pred) (f : ValuFields)
  | vsel (c : CoreRef) (g : Pred) (f : ValuFields)
  | vld (c : CoreRef) (g : Pred) (f : VmemFields)
  | vst (c : CoreRef) (g : Pred) (f : VmemFields)
  | vlds (c : CoreRef) (g : Pred) (f : VmemFields)
  | vsts (c : CoreRef) (g : Pred) (f : VmemFields)
  | vgath (c : CoreRef) (g : Pred) (f : VmemFields)
  | vscat (c : CoreRef) (g : Pred) (f : VmemFields)
  | vcvt (c : CoreRef) (g : Pred) (f : VcvtFields)
  | vmxq (c : CoreRef) (g : Pred) (f : VcvtFields)
  | vseed (c : CoreRef) (g : Pred) (f : VcvtFields)
  | vseedr (c : CoreRef) (g : Pred) (f : VcvtFields)
  | mma (c : CoreRef) (g : Pred) (f : MatFields)
  | mzero (c : CoreRef) (g : Pred) (f : MatFields)
  | mld (c : CoreRef) (g : Pred) (f : MatFields)
  | mst (c : CoreRef) (g : Pred) (f : MatFields)
  | send (c : CoreRef) (g : Pred) (f : StrmFields)
  | recv (c : CoreRef) (g : Pred) (f : StrmFields)
  | req (c : CoreRef) (g : Pred) (f : StrmFields)
  | sstat (c : CoreRef) (g : Pred) (f : StrmFields)
  | cbmov (c : CoreRef) (g : Pred) (f : XferFields)
  | dmasub (c : CoreRef) (g : Pred) (f : XferFields)
  | fence (c : CoreRef) (g : Pred) (f : SyncFields)
  | waite (c : CoreRef) (g : Pred) (f : SyncFields)
  | sete (c : CoreRef) (g : Pred) (f : SyncFields)
  | adde (c : CoreRef) (g : Pred) (f : SyncFields)
  | semacq (c : CoreRef) (g : Pred) (f : SyncFields)
  | semtry (c : CoreRef) (g : Pred) (f : SyncFields)
  | semrel (c : CoreRef) (g : Pred) (f : SyncFields)
  | csrr (c : CoreRef) (g : Pred) (f : SysFields)
  | csrw (c : CoreRef) (g : Pred) (f : SysFields)
  | flagr (c : CoreRef) (g : Pred) (f : SysFields)
  | flagc (c : CoreRef) (g : Pred) (f : SysFields)
  | time (c : CoreRef) (g : Pred) (f : SysFields)
  | post (c : CoreRef) (u : AsyncUnit)
  | waitingInstruction (c : CoreRef)
  | yieldOverdue (c : CoreRef)
  | preemptAtYieldPoint (c : CoreRef)
  | contextSaveComplete (c : CoreRef)
  | pool (yard : Nat) (engine : Nat)
  | gather (yard : Nat) (engine : Nat)
  | decode (yard : Nat) (engine : Nat)
  | cgBegin (yard : Nat) (req : Nat)
  | update (yard : Nat) (req : Nat)
  | cgCommit (yard : Nat) (req : Nat)
  | cgAbort (yard : Nat) (req : Nat)
  | tblsync (yard : Nat) (req : Nat)
  | yseed (yard : Nat) (req : Nat)
  | cgBeginQuotaGrant (yard : Nat) (sail : Nat)
  | engineTakesRequest (yard : Nat) (sail : Nat)
  | rowFetchComplete (yard : Nat) (engine : Nat) (k : Nat)
  | fetchPortRead (yard : Nat) (engine : Nat) (k : Nat)
  | cgAction (handle : Nat) (idx : Nat)
  | intentLogDurable (handle : Nat) (idx : Nat)
  | commitPoint (handle : Nat)
  | cgApply (handle : Nat) (yard : Nat)
  | groupRetire (handle : Nat)
  | lockReleasedResume (yard : Nat) (row : Nat)
  | holdTimerExpiry (handle : Nat)
  | backgroundWindow (r : BudgetUnit)
  | yrdSailPeakRead (fn : HostFn) (yard : Nat) (sail : Nat)
  | meshSlot (router : Nat)
  | meshRtrClr (fn : HostFn) (v : Word)
  | dieLinkLoss (router : Nat) (dir : Dir)
  | rangeMap (q : Nat) (n : Nat)
  | rangeUnmap (q : Nat) (n : Nat)
  | rangeModify (q : Nat) (n : Nat)
  | rangeSync (q : Nat) (n : Nat)
  | rangeDrainEnd (ctx : Nat)
  | migrationComplete (ctx : Nat) (vstart : Nat) (page : Nat)
  | accessTimerExpiry (a : AccessRef)
  | prodRead (yard : Nat) (slot : Nat)
  | portTraining (port : Nat) (t : TrainResult)
  | linkLoss (port : Nat) (retrained : Bool)
  | ident (port : Nat) (node : Nat) (peerPort : Nat) (digest : BitVec 32)
  | link (port : Nat) (b : LinkBlock)
  | ackTimerExpiry (port : Nat)
  | rd (port : Nat) (m : RyuMsg)
  | wr (port : Nat) (m : RyuMsg)
  | lkup (port : Nat) (m : RyuMsg)
  | hint (port : Nat) (m : RyuMsg)
  | resp (port : Nat) (m : RyuMsg)
  | ing (port : Nat) (m : RyuMsg)
  | impOpen (port : Nat) (m : RyuMsg)
  | impAck (port : Nat) (m : RyuMsg)
  | impClose (port : Nat) (m : RyuMsg)
  | remoteTimeout (tag : Nat)
  | consRead (stream : Nat)
  | ph1Start (m : CleatMsg)
  | mirrorPut (m : CleatMsg)
  | mirrorAck (m : CleatMsg)
  | commit (m : CleatMsg)
  | commitAck (m : CleatMsg)
  | offer (m : CleatMsg)
  | accept (m : CleatMsg)
  | ack (m : CleatMsg)
  | decline (m : CleatMsg)
  | stale (m : CleatMsg)
  | retire (m : CleatMsg)
  | cleatTimerExpiry (id : Word)
  | fmAssign (h : FmHdr) (node : Nat) (domain : Nat) (manager : Nat) (time : Option Word)
  | fmRoute (h : FmHdr) (first : Nat) (count : Nat) (mask : BitVec 32) (hops : Nat)
  | fmTime (h : FmHdr) (sent : Word) (adjust : FmTime)
  | fmFreeze (h : FmHdr) (id : Word) (epoch : BitVec 32)
  | fmRuling (h : FmHdr) (r : Ruling)
  | fmPlace (h : FmHdr) (p : Placement)
  | fmPeerState (h : FmHdr) (node : Nat) (st : PeerState) (sails : List Nat)
  | fmAck (h : FmHdr) (arg : Word)
  | ryuClr (fn : HostFn) (v : Word)
  | load (port : Nat)
  | loadEnd (port : Nat)
  | swap (port : Nat)
  | discard (port : Nat)
  | drain
  | scrub (failed : List ScrubRef)
  | cut
  | release
  | quiesceLimitExpiry (q : Nat) (n : Nat)
  | doorbell (fn : HostFn) (q : Nat) (tail : BitVec 32)
  | overrunClear (fn : HostFn) (q : Nat)
  | qbCqHead (fn : HostFn) (q : Nat) (v : BitVec 32)
  | commandFetch (q : Nat)
  | commandStart (q : Nat)
  | completionRecord (q : Nat) (n : Nat)
  | enable (fn : HostFn) (q : Nat)
  | disable (fn : HostFn) (q : Nat)
  | qbFenceSignal (fn : HostFn) (q : Nat) (v : Word)
  | create (fn : HostFn) (sail : Nat) (ctx : Nat)
  | destroy (fn : HostFn) (sail : Nat) (ctx : Nat)
  | reset (fn : HostFn) (sail : Nat) (ctx : Nat)
  | resume (fn : HostFn) (sail : Nat) (ctx : Nat)
  | vfFunctionLevelReset (port : Nat) (vf : Nat)
  | pfFunctionLevelReset (port : Nat)
  | doeDiscovery (fn : HostFn) (index : Nat)
  | nopCommand (q : Nat) (n : Nat)
  | run (q : Nat) (n : Nat)
  | dma (q : Nat) (n : Nat)
  | semInit (q : Nat) (n : Nat)
  | semRelease (q : Nat) (n : Nat)
  | tableSync (q : Nat) (n : Nat)
  | memPrefetch (q : Nat) (n : Nat)
  | memAdvise (q : Nat) (n : Nat)
  | orderSet (q : Nat) (n : Nat)
  | orderClear (q : Nat) (n : Nat)
  | dirtyHarvest (q : Nat) (n : Nat)
  | exportCreate (q : Nat) (n : Nat)
  | exportDestroy (q : Nat) (n : Nat)
  | importOpen (q : Nat) (n : Nat)
  | importClose (q : Nat) (n : Nat)
  | ingOpen (q : Nat) (n : Nat)
  | ingClose (q : Nat) (n : Nat)
  | dispatch (q : Nat) (n : Nat)
  | seqSubmit (q : Nat) (n : Nat)
  | sharedCreate (q : Nat) (n : Nat)
  | sharedRelease (q : Nat) (n : Nat)
  | dmaDescriptorStart (cluster : Nat) (eng : Nat)
  | dmaDescriptorComplete (cluster : Nat) (eng : Nat) (k : Nat) (ctx : Nat)
  | dmaRingRecord (cluster : Nat) (eng : Nat)
  | quantumExpiry (c : CoreRef)
  | holdLimitExpiry (ctx : Nat)
  | batchStepBoundary (sail : Nat)
  | reefWindow (rclass : Nat) (index : Nat)
  | confCounterWindow (sail : Nat)
  | getReport (fn : HostFn) (sail : Nat) (nonce : BitVec 256)
  | getCert (fn : HostFn)
  | keyDeliver (fn : HostFn) (bytes : List Byte) (package : List Byte)
  | keyRevoke (fn : HostFn) (sail : Nat) (killCode : BitVec 256)
  | drainBoundExpiry (sail : Nat)
  | bottomTreeBuild
  | transition (fn : HostFn) (block : Nat)
  | opkeyEnroll (fn : HostFn)
  | opkeyRotate (fn : HostFn) (block : Nat)
  | userRead (fn : HostFn) (block : Nat)
  | userWrite (fn : HostFn) (block : Nat)
  | bypass
  | idcode
  | samplePreload (preload : List Bool)
  | extest
  | dbgChallenge
  | dbgResponse (level : Nat) (sig : List Byte)
  | dbgAccess (a : DebugAccess)
  | dbgReset
  | powerOn
  | perst (port : Nat) (lowNs : Nat) (band : Bool)
  | trayResetN (lowNs : Nat) (band : Bool)
  | resetDeassertion (p : ResetPin) (highNs : Nat)
  | softwareWarm (fn : HostFn) (v : Word)
  | softwareCompute (fn : HostFn) (v : Word)
  | softwareSail (fn : HostFn) (v : Word)
  | blockQuiesce (fn : HostFn) (v : Bool)
  | blockReset (fn : HostFn)
  | blockResetComplete
  | bootBegin (fn : HostFn) (len : Nat)
  | bootData (fn : HostFn) (off : Nat) (data : List Byte)
  | bootEnd (fn : HostFn) (body : List Byte)
  | bootState (fn : HostFn)
  | shutdownGo (fn : HostFn)
  | selfTestComplete (results : List TestEntry) (goldenBad : Bool)
  | backgroundTestComplete (results : List TestEntry) (goldenBad : Bool)
  | thermTrip (sensor : Nat) (temp : Int)
  | powerLoss (cause : PowerLossCause)
  | telltaleWindowClose (kind : Nat) (index : Nat)
  | fwBeat
  | stepBoundExpiry (step : Nat)
  | suspectReplayEnd (ctx : Nat) (v : ReplayVerdict)
  | samplingTimeout
  | channelTrainingLoss (gddr : Bool) (chan : Nat) (retrained : Bool)
  | cxlLinkLoss (port : Nat) (retrained : Bool)
  | hostLinkDown (port : Nat)
  | mastheadFault (memory : Bool)
  | hostReadTimeout (a : HostReadRef)
  | trimInterval (m : TrimMeasure)
  | powerSample (deciWatts : Nat) (centiVolts : Nat)
  | droopFlagSet (isl : Island)
  | droopFlagClear (isl : Island)
  | pointSwitch (cluster : Nat)
  | undervoltage (isl : Island)
  | thermalRead (readings : List (Nat × Int))
  | energyAttribution (items : List EnergyItem)
  | status (pec : Bool)
  | alertCause (pec : Bool)
  | alertCauseClear (pec : Bool) (v : BitVec 16)
  | trayCap (pec : Bool) (w : Option (BitVec 16))
  | inputPower (pec : Bool)
  | inputVoltage (pec : Bool)
  | hottest (pec : Bool)
  | portMode (pec : Bool) (w : Option Byte)
  | shutdown (pec : Bool) (v : Byte)
  | smbusIdent (pec : Bool)
  | inputFault (pec : Bool)
  | inputFaultClear (pec : Bool) (v : BitVec 16)
  | smbusTimeout (pin : Nat)
  | cablePresence (port : Nat) (present : Bool)
  | portTrainAttempt (port : Nat) (t : Option TrainResult)
  | cageShort (port : Nat)
  | inputOvervoltage
  | reversedPolarity
  | sidebandFault (pin : Nat)
  | registerWrite (fn : HostFn) (bar : Nat) (off : Nat) (width : Nat) (v : Word)
  | blockSlot (port : Nat) (rx : Option RxBlock)
  | uncorrectableCodeword (port : Nat) (fec : Bool)
  | cxlViral (port : Nat)
deriving DecidableEq, Repr

end Sys2Proof
end

