-- ==== Sys2Proof/Decode.lean ====
section
/-! DEFINITION. The instruction word of core programs (R61 to R63): its fields, the decoder from words to core instructions,
total and with none for a reserved CLASS or an OP that the class does not list, and the encoder beside it. The command that a
word spells by the bits of spec/opcode_table.json: no row of that table gives any bits (every row's field list is empty).
Choices of the model here: log entry 9 (DESIGN CHOICE), log entry 11 (DESIGN CHOICE). -/

namespace Sys2Proof

/-- The command that the word `w` of `nbits` bits spells by the table's bits: the table gives none. -/
def decodeTableWord (_nbits _w : Nat) : Option Instr := none

/-! ### Fields (R61, R63) -/

/-- An instruction word. -/
abbrev CoreWord := BitVec 64

/-- Bits [hi:lo] of a word, `n` of them. -/
abbrev bitsAt (w : CoreWord) (lo n : Nat) : BitVec n := w.extractLsb' lo n

/-- CLASS, OP, PRED and PNEG (R61). -/
def wordClass (w : CoreWord) : Nat := (bitsAt w 60 4).toNat
def wordOp (w : CoreWord) : Nat := (bitsAt w 54 6).toNat
def wordPred (w : CoreWord) : Pred := { p := bitsAt w 51 3, neg := w.getLsbD 50 }

/-- SALU: D, A, B; bits [34:0] are reserved. -/
def regForm (w : CoreWord) : AluForm := .reg (bitsAt w 45 5) (bitsAt w 40 5) (bitsAt w 35 5) (bitsAt w 0 35)

/-- SIMM: D, A, IMM. -/
def immForm (w : CoreWord) : AluForm := .imm (bitsAt w 45 5) (bitsAt w 40 5) (bitsAt w 0 40)

/-- CTRL. -/
def ctrlFields (w : CoreWord) : CtrlFields :=
  { a := bitsAt w 45 5, b := bitsAt w 40 5, live := bitsAt w 32 8, off := bitsAt w 0 32 }

/-- SMEM. -/
def smemFields (w : CoreWord) : SmemFields :=
  { d := bitsAt w 45 5, a := bitsAt w 40 5, off := bitsAt w 20 20, rsv := bitsAt w 0 20 }

/-- VALU. -/
def valuFields (w : CoreWord) : ValuFields :=
  { vd := bitsAt w 45 5, va := bitsAt w 40 5, vb := bitsAt w 35 5, vc := bitsAt w 30 5, fmt := bitsAt w 26 4, rm := bitsAt w 24 2, sat := w.getLsbD 23, rsv := bitsAt w 0 23 }

/-- VMEM. -/
def vmemFields (w : CoreWord) : VmemFields :=
  { v := bitsAt w 45 5, a := bitsAt w 40 5, x := bitsAt w 35 5, off := bitsAt w 15 20, rsv := bitsAt w 0 15 }

/-- VCVT. -/
def vcvtFields (w : CoreWord) : VcvtFields :=
  { vd := bitsAt w 45 5, va := bitsAt w 40 5, sf := bitsAt w 36 4, df := bitsAt w 32 4, rm := bitsAt w 30 2, ovf := w.getLsbD 29, shift := bitsAt w 24 5, sd := bitsAt w 19 5, rsv := bitsAt w 0 19 }

/-- MAT. -/
def matFields (w : CoreWord) : MatFields :=
  { acc := bitsAt w 48 2, da := bitsAt w 43 5, db := bitsAt w 38 5, ks := bitsAt w 33 5, z := w.getLsbD 32, evt := bitsAt w 28 4, post := w.getLsbD 27, fmt := bitsAt w 23 4, rm := bitsAt w 21 2, ovf := w.getLsbD 20, rsv := bitsAt w 0 20 }

/-- STRM. -/
def strmFields (w : CoreWord) : StrmFields :=
  { st := bitsAt w 46 4, a := bitsAt w 41 5, b := bitsAt w 36 5, c := bitsAt w 31 5, evt := bitsAt w 27 4, post := w.getLsbD 26, rsv := bitsAt w 0 26 }

/-- XFER. -/
def xferFields (w : CoreWord) : XferFields :=
  { d := bitsAt w 45 5, a := bitsAt w 40 5, l := bitsAt w 35 5, evt := bitsAt w 31 4, post := w.getLsbD 30, eng := bitsAt w 28 2, rsv := bitsAt w 0 28 }

/-- SYNC. -/
def syncFields (w : CoreWord) : SyncFields :=
  { a := bitsAt w 45 5, evt := bitsAt w 41 4, mask := bitsAt w 37 4, imm := bitsAt w 0 32, rsv := bitsAt w 32 5 }

/-- SYS. -/
def sysFields (w : CoreWord) : SysFields :=
  { d := bitsAt w 45 5, a := bitsAt w 40 5, csr := bitsAt w 28 12, rsv := bitsAt w 0 28 }

/-! ### Decoding (R62, R65 to R79) -/

/-- The operations of class SALU; none for an OP that it does not list. -/
def saluOp (c : CoreRef) (w : CoreWord) : Option Instr :=
  let g := wordPred w
  let f := regForm w
  match wordOp w with
  | 0x00 => some (.add c g f)
  | 0x01 => some (.sub c g f)
  | 0x02 => some (.mul c g f)
  | 0x03 => some (.mulhu c g f)
  | 0x04 => some (.divu c g f)
  | 0x05 => some (.remu c g f)
  | 0x06 => some (.and c g f)
  | 0x07 => some (.or c g f)
  | 0x08 => some (.xor c g f)
  | 0x09 => some (.sll c g f)
  | 0x0A => some (.srl c g f)
  | 0x0B => some (.sra c g f)
  | 0x0C => some (.min c g f)
  | 0x0D => some (.max c g f)
  | 0x0E => some (.minu c g f)
  | 0x0F => some (.maxu c g f)
  | 0x10 => some (.ceq c g f)
  | 0x11 => some (.cne c g f)
  | 0x12 => some (.clt c g f)
  | 0x13 => some (.cltu c g f)
  | 0x14 => some (.cge c g f)
  | 0x15 => some (.cgeu c g f)
  | 0x16 => some (.pand c g f)
  | 0x17 => some (.por c g f)
  | 0x18 => some (.pnot c g f)
  | 0x20 => some (.li c g f)
  | 0x21 => some (.lih c g f)
  | _ => none

/-- The operations of class SIMM; none for an OP that it does not list. -/
def simmOp (c : CoreRef) (w : CoreWord) : Option Instr :=
  let g := wordPred w
  let f := immForm w
  match wordOp w with
  | 0x00 => some (.add c g f)
  | 0x01 => some (.sub c g f)
  | 0x02 => some (.mul c g f)
  | 0x03 => some (.mulhu c g f)
  | 0x04 => some (.divu c g f)
  | 0x05 => some (.remu c g f)
  | 0x06 => some (.and c g f)
  | 0x07 => some (.or c g f)
  | 0x08 => some (.xor c g f)
  | 0x09 => some (.sll c g f)
  | 0x0A => some (.srl c g f)
  | 0x0B => some (.sra c g f)
  | 0x0C => some (.min c g f)
  | 0x0D => some (.max c g f)
  | 0x0E => some (.minu c g f)
  | 0x0F => some (.maxu c g f)
  | 0x10 => some (.ceq c g f)
  | 0x11 => some (.cne c g f)
  | 0x12 => some (.clt c g f)
  | 0x13 => some (.cltu c g f)
  | 0x14 => some (.cge c g f)
  | 0x15 => some (.cgeu c g f)
  | 0x16 => some (.pand c g f)
  | 0x17 => some (.por c g f)
  | 0x18 => some (.pnot c g f)
  | 0x20 => some (.li c g f)
  | 0x21 => some (.lih c g f)
  | _ => none

/-- The operations of class CTRL; none for an OP that it does not list. -/
def ctrlOp (c : CoreRef) (w : CoreWord) : Option Instr :=
  let g := wordPred w
  let f := ctrlFields w
  match wordOp w with
  | 0x00 => some (.nop c g f)
  | 0x01 => some (.br c g f)
  | 0x02 => some (.brr c g f)
  | 0x03 => some (.call c g f)
  | 0x04 => some (.ret c g f)
  | 0x05 => some (.loop c g f)
  | 0x06 => some (.yield c g f)
  | 0x07 => some (.halt c g f)
  | _ => none

/-- The operations of class SMEM; none for an OP that it does not list. -/
def smemOp (c : CoreRef) (w : CoreWord) : Option Instr :=
  let g := wordPred w
  let f := smemFields w
  match wordOp w with
  | 0x00 => some (.ld8u c g f)
  | 0x01 => some (.ld16u c g f)
  | 0x02 => some (.ld32u c g f)
  | 0x03 => some (.ld64 c g f)
  | 0x04 => some (.ld8s c g f)
  | 0x05 => some (.ld16s c g f)
  | 0x06 => some (.ld32s c g f)
  | 0x08 => some (.st8 c g f)
  | 0x09 => some (.st16 c g f)
  | 0x0A => some (.st32 c g f)
  | 0x0B => some (.st64 c g f)
  | _ => none

/-- The operations of class VALU; none for an OP that it does not list. -/
def valuOp (c : CoreRef) (w : CoreWord) : Option Instr :=
  let g := wordPred w
  let f := valuFields w
  match wordOp w with
  | 0x00 => some (.vadd c g f)
  | 0x01 => some (.vsub c g f)
  | 0x02 => some (.vmul c g f)
  | 0x03 => some (.vfma c g f)
  | 0x04 => some (.vmin c g f)
  | 0x05 => some (.vmax c g f)
  | 0x06 => some (.vdiv c g f)
  | 0x07 => some (.vrcp c g f)
  | 0x08 => some (.vrsqrt c g f)
  | 0x09 => some (.vexp2 c g f)
  | 0x0A => some (.vlog2 c g f)
  | 0x0B => some (.vand c g f)
  | 0x0C => some (.vor c g f)
  | 0x0D => some (.vxor c g f)
  | 0x0E => some (.vshl c g f)
  | 0x0F => some (.vshr c g f)
  | 0x10 => some (.vbcast c g f)
  | 0x12 => some (.vredsum c g f)
  | 0x13 => some (.vredmax c g f)
  | 0x14 => some (.vmov c g f)
  | 0x15 => some (.vsel c g f)
  | _ => none

/-- The operations of class VMEM; none for an OP that it does not list. -/
def vmemOp (c : CoreRef) (w : CoreWord) : Option Instr :=
  let g := wordPred w
  let f := vmemFields w
  match wordOp w with
  | 0x00 => some (.vld c g f)
  | 0x01 => some (.vst c g f)
  | 0x02 => some (.vlds c g f)
  | 0x03 => some (.vsts c g f)
  | 0x04 => some (.vgath c g f)
  | 0x05 => some (.vscat c g f)
  | _ => none

/-- The operations of class VCVT; none for an OP that it does not list. -/
def vcvtOp (c : CoreRef) (w : CoreWord) : Option Instr :=
  let g := wordPred w
  let f := vcvtFields w
  match wordOp w with
  | 0x00 => some (.vcvt c g f)
  | 0x01 => some (.vmxq c g f)
  | 0x02 => some (.vseed c g f)
  | 0x03 => some (.vseedr c g f)
  | _ => none

/-- The operations of class MAT; none for an OP that it does not list. -/
def matOp (c : CoreRef) (w : CoreWord) : Option Instr :=
  let g := wordPred w
  let f := matFields w
  match wordOp w with
  | 0x00 => some (.mma c g f)
  | 0x01 => some (.mzero c g f)
  | 0x02 => some (.mld c g f)
  | 0x03 => some (.mst c g f)
  | _ => none

/-- The operations of class STRM; none for an OP that it does not list. -/
def strmOp (c : CoreRef) (w : CoreWord) : Option Instr :=
  let g := wordPred w
  let f := strmFields w
  match wordOp w with
  | 0x00 => some (.send c g f)
  | 0x01 => some (.recv c g f)
  | 0x02 => some (.req c g f)
  | 0x03 => some (.sstat c g f)
  | _ => none

/-- The operations of class XFER; none for an OP that it does not list. -/
def xferOp (c : CoreRef) (w : CoreWord) : Option Instr :=
  let g := wordPred w
  let f := xferFields w
  match wordOp w with
  | 0x00 => some (.cbmov c g f)
  | 0x01 => some (.dmasub c g f)
  | _ => none

/-- The operations of class SYNC; none for an OP that it does not list. -/
def syncOp (c : CoreRef) (w : CoreWord) : Option Instr :=
  let g := wordPred w
  let f := syncFields w
  match wordOp w with
  | 0x00 => some (.fence c g f)
  | 0x01 => some (.waite c g f)
  | 0x02 => some (.sete c g f)
  | 0x03 => some (.adde c g f)
  | 0x04 => some (.semacq c g f)
  | 0x05 => some (.semtry c g f)
  | 0x06 => some (.semrel c g f)
  | _ => none

/-- The operations of class SYS; none for an OP that it does not list. -/
def sysOp (c : CoreRef) (w : CoreWord) : Option Instr :=
  let g := wordPred w
  let f := sysFields w
  match wordOp w with
  | 0x00 => some (.csrr c g f)
  | 0x01 => some (.csrw c g f)
  | 0x02 => some (.flagr c g f)
  | 0x03 => some (.flagc c g f)
  | 0x04 => some (.time c g f)
  | _ => none

/-- The instruction that core `c` reads from a word; none for a reserved CLASS or an unlisted OP (R62). -/
def decodeWord (c : CoreRef) (w : CoreWord) : Option Instr :=
  match wordClass w with
  | 0x0 => saluOp c w
  | 0x1 => simmOp c w
  | 0x2 => ctrlOp c w
  | 0x3 => smemOp c w
  | 0x4 => valuOp c w
  | 0x5 => vmemOp c w
  | 0x6 => vcvtOp c w
  | 0x7 => matOp c w
  | 0x8 => strmOp c w
  | 0x9 => xferOp c w
  | 0xA => syncOp c w
  | 0xB => sysOp c w
  | _ => none

/-! ### Encoding -/

/-- A word from CLASS, OP, the predicate and the class fields [49:0]. -/
def packWord (cls op : Nat) (g : Pred) (f : BitVec 50) : CoreWord :=
  (BitVec.ofNat 4 cls ++ BitVec.ofNat 6 op ++ g.p ++ BitVec.ofBool g.neg ++ f : BitVec 64)

/-- The class, SALU or SIMM, and the fields of a form. -/
def AluForm.cls : AluForm → Nat
  | .reg _ _ _ _ => 0
  | .imm _ _ _ => 1

def AluForm.bits : AluForm → BitVec 50
  | .reg d a b r => d ++ a ++ b ++ r
  | .imm d a i => d ++ a ++ i

def CtrlFields.bits (f : CtrlFields) : BitVec 50 := f.a ++ f.b ++ f.live ++ f.off
def SmemFields.bits (f : SmemFields) : BitVec 50 := f.d ++ f.a ++ f.off ++ f.rsv
def ValuFields.bits (f : ValuFields) : BitVec 50 := f.vd ++ f.va ++ f.vb ++ f.vc ++ f.fmt ++ f.rm ++ BitVec.ofBool f.sat ++ f.rsv
def VmemFields.bits (f : VmemFields) : BitVec 50 := f.v ++ f.a ++ f.x ++ f.off ++ f.rsv
def VcvtFields.bits (f : VcvtFields) : BitVec 50 := f.vd ++ f.va ++ f.sf ++ f.df ++ f.rm ++ BitVec.ofBool f.ovf ++ f.shift ++ f.sd ++ f.rsv
def MatFields.bits (f : MatFields) : BitVec 50 := f.acc ++ f.da ++ f.db ++ f.ks ++ BitVec.ofBool f.z ++ f.evt ++ BitVec.ofBool f.post ++ f.fmt ++ f.rm ++ BitVec.ofBool f.ovf ++ f.rsv
def StrmFields.bits (f : StrmFields) : BitVec 50 := f.st ++ f.a ++ f.b ++ f.c ++ f.evt ++ BitVec.ofBool f.post ++ f.rsv
def XferFields.bits (f : XferFields) : BitVec 50 := f.d ++ f.a ++ f.l ++ f.evt ++ BitVec.ofBool f.post ++ f.eng ++ f.rsv
def SyncFields.bits (f : SyncFields) : BitVec 50 := f.a ++ f.evt ++ f.mask ++ f.rsv ++ f.imm
def SysFields.bits (f : SysFields) : BitVec 50 := f.d ++ f.a ++ f.csr ++ f.rsv

/-- The word of a core instruction; none for a command that is no core instruction. -/
def encodeWord (i : Instr) : Option CoreWord :=
  match i with
  | .add _ g f => some (packWord f.cls 0x00 g f.bits)
  | .sub _ g f => some (packWord f.cls 0x01 g f.bits)
  | .mul _ g f => some (packWord f.cls 0x02 g f.bits)
  | .mulhu _ g f => some (packWord f.cls 0x03 g f.bits)
  | .divu _ g f => some (packWord f.cls 0x04 g f.bits)
  | .remu _ g f => some (packWord f.cls 0x05 g f.bits)
  | .and _ g f => some (packWord f.cls 0x06 g f.bits)
  | .or _ g f => some (packWord f.cls 0x07 g f.bits)
  | .xor _ g f => some (packWord f.cls 0x08 g f.bits)
  | .sll _ g f => some (packWord f.cls 0x09 g f.bits)
  | .srl _ g f => some (packWord f.cls 0x0A g f.bits)
  | .sra _ g f => some (packWord f.cls 0x0B g f.bits)
  | .min _ g f => some (packWord f.cls 0x0C g f.bits)
  | .max _ g f => some (packWord f.cls 0x0D g f.bits)
  | .minu _ g f => some (packWord f.cls 0x0E g f.bits)
  | .maxu _ g f => some (packWord f.cls 0x0F g f.bits)
  | .ceq _ g f => some (packWord f.cls 0x10 g f.bits)
  | .cne _ g f => some (packWord f.cls 0x11 g f.bits)
  | .clt _ g f => some (packWord f.cls 0x12 g f.bits)
  | .cltu _ g f => some (packWord f.cls 0x13 g f.bits)
  | .cge _ g f => some (packWord f.cls 0x14 g f.bits)
  | .cgeu _ g f => some (packWord f.cls 0x15 g f.bits)
  | .pand _ g f => some (packWord f.cls 0x16 g f.bits)
  | .por _ g f => some (packWord f.cls 0x17 g f.bits)
  | .pnot _ g f => some (packWord f.cls 0x18 g f.bits)
  | .li _ g f => some (packWord f.cls 0x20 g f.bits)
  | .lih _ g f => some (packWord f.cls 0x21 g f.bits)
  | .nop _ g f => some (packWord 0x2 0x00 g f.bits)
  | .br _ g f => some (packWord 0x2 0x01 g f.bits)
  | .brr _ g f => some (packWord 0x2 0x02 g f.bits)
  | .call _ g f => some (packWord 0x2 0x03 g f.bits)
  | .ret _ g f => some (packWord 0x2 0x04 g f.bits)
  | .loop _ g f => some (packWord 0x2 0x05 g f.bits)
  | .yield _ g f => some (packWord 0x2 0x06 g f.bits)
  | .halt _ g f => some (packWord 0x2 0x07 g f.bits)
  | .ld8u _ g f => some (packWord 0x3 0x00 g f.bits)
  | .ld16u _ g f => some (packWord 0x3 0x01 g f.bits)
  | .ld32u _ g f => some (packWord 0x3 0x02 g f.bits)
  | .ld64 _ g f => some (packWord 0x3 0x03 g f.bits)
  | .ld8s _ g f => some (packWord 0x3 0x04 g f.bits)
  | .ld16s _ g f => some (packWord 0x3 0x05 g f.bits)
  | .ld32s _ g f => some (packWord 0x3 0x06 g f.bits)
  | .st8 _ g f => some (packWord 0x3 0x08 g f.bits)
  | .st16 _ g f => some (packWord 0x3 0x09 g f.bits)
  | .st32 _ g f => some (packWord 0x3 0x0A g f.bits)
  | .st64 _ g f => some (packWord 0x3 0x0B g f.bits)
  | .vadd _ g f => some (packWord 0x4 0x00 g f.bits)
  | .vsub _ g f => some (packWord 0x4 0x01 g f.bits)
  | .vmul _ g f => some (packWord 0x4 0x02 g f.bits)
  | .vfma _ g f => some (packWord 0x4 0x03 g f.bits)
  | .vmin _ g f => some (packWord 0x4 0x04 g f.bits)
  | .vmax _ g f => some (packWord 0x4 0x05 g f.bits)
  | .vdiv _ g f => some (packWord 0x4 0x06 g f.bits)
  | .vrcp _ g f => some (packWord 0x4 0x07 g f.bits)
  | .vrsqrt _ g f => some (packWord 0x4 0x08 g f.bits)
  | .vexp2 _ g f => some (packWord 0x4 0x09 g f.bits)
  | .vlog2 _ g f => some (packWord 0x4 0x0A g f.bits)
  | .vand _ g f => some (packWord 0x4 0x0B g f.bits)
  | .vor _ g f => some (packWord 0x4 0x0C g f.bits)
  | .vxor _ g f => some (packWord 0x4 0x0D g f.bits)
  | .vshl _ g f => some (packWord 0x4 0x0E g f.bits)
  | .vshr _ g f => some (packWord 0x4 0x0F g f.bits)
  | .vbcast _ g f => some (packWord 0x4 0x10 g f.bits)
  | .vredsum _ g f => some (packWord 0x4 0x12 g f.bits)
  | .vredmax _ g f => some (packWord 0x4 0x13 g f.bits)
  | .vmov _ g f => some (packWord 0x4 0x14 g f.bits)
  | .vsel _ g f => some (packWord 0x4 0x15 g f.bits)
  | .vld _ g f => some (packWord 0x5 0x00 g f.bits)
  | .vst _ g f => some (packWord 0x5 0x01 g f.bits)
  | .vlds _ g f => some (packWord 0x5 0x02 g f.bits)
  | .vsts _ g f => some (packWord 0x5 0x03 g f.bits)
  | .vgath _ g f => some (packWord 0x5 0x04 g f.bits)
  | .vscat _ g f => some (packWord 0x5 0x05 g f.bits)
  | .vcvt _ g f => some (packWord 0x6 0x00 g f.bits)
  | .vmxq _ g f => some (packWord 0x6 0x01 g f.bits)
  | .vseed _ g f => some (packWord 0x6 0x02 g f.bits)
  | .vseedr _ g f => some (packWord 0x6 0x03 g f.bits)
  | .mma _ g f => some (packWord 0x7 0x00 g f.bits)
  | .mzero _ g f => some (packWord 0x7 0x01 g f.bits)
  | .mld _ g f => some (packWord 0x7 0x02 g f.bits)
  | .mst _ g f => some (packWord 0x7 0x03 g f.bits)
  | .send _ g f => some (packWord 0x8 0x00 g f.bits)
  | .recv _ g f => some (packWord 0x8 0x01 g f.bits)
  | .req _ g f => some (packWord 0x8 0x02 g f.bits)
  | .sstat _ g f => some (packWord 0x8 0x03 g f.bits)
  | .cbmov _ g f => some (packWord 0x9 0x00 g f.bits)
  | .dmasub _ g f => some (packWord 0x9 0x01 g f.bits)
  | .fence _ g f => some (packWord 0xA 0x00 g f.bits)
  | .waite _ g f => some (packWord 0xA 0x01 g f.bits)
  | .sete _ g f => some (packWord 0xA 0x02 g f.bits)
  | .adde _ g f => some (packWord 0xA 0x03 g f.bits)
  | .semacq _ g f => some (packWord 0xA 0x04 g f.bits)
  | .semtry _ g f => some (packWord 0xA 0x05 g f.bits)
  | .semrel _ g f => some (packWord 0xA 0x06 g f.bits)
  | .csrr _ g f => some (packWord 0xB 0x00 g f.bits)
  | .csrw _ g f => some (packWord 0xB 0x01 g f.bits)
  | .flagr _ g f => some (packWord 0xB 0x02 g f.bits)
  | .flagc _ g f => some (packWord 0xB 0x03 g f.bits)
  | .time _ g f => some (packWord 0xB 0x04 g f.bits)
  | _ => none

end Sys2Proof
end

