-- ==== Sys2Proof/Config.lean ====
section
/-! DEFINITION. The free values of the model and the functions that standards outside the spec
define. Each is a constant without a body: no proof can lean on a value of it.
Choices of the model here: log entry 4 (DESIGN CHOICE), log entry 5 (DESIGN CHOICE), log entry 6 (DESIGN
CHOICE), log entry 7 (DESIGN CHOICE), log entry 8 (DESIGN CHOICE), log entry 34 (DESIGN CHOICE), log entry 64
(DESIGN CHOICE), log entry 65 (DESIGN CHOICE), log entry 66 (DESIGN CHOICE). -/

namespace Sys2Proof.Config

/-- What byte `a` reads as after the `epoch`-th loss of the contents of its memory (R385: contents lost; R185: cryptographic
erase; R56, R90, R336: bytes left undefined). Log entry 4. -/
opaque lostByte (epoch a : Nat) : BitVec 8

/-- Byte `a` of the `n`-th run of bytes that the spec leaves open (R243: the payload of a PAD record; R382: pins). Log entry 5. -/
opaque freeByte (n a : Nat) : BitVec 8

/-- SHA-256 of a byte string (FIPS 180-4), as 256 bits. Log entry 7. -/
opaque sha256 (bytes : List (BitVec 8)) : BitVec 256

/-- The HSS signature of the device over a report body with leaf `q` (R361, R367). Log entry 7. -/
opaque hssSign (leaf : Nat) (body : List (BitVec 8)) : List (BitVec 8)

/-- The device's HSS public key and certificate (R361). Log entry 7. -/
opaque deviceCert (unitId : BitVec 256) : List (BitVec 8)

/-- The lease encapsulation key generated for the `n`-th lease (R368). Log entry 7. -/
opaque leaseKey (n : Nat) : List (BitVec 8)

/-- The `n`-th key drawn from the hardware random number generator. Log entry 7. -/
opaque randomKey (n : Nat) : BitVec 256

/-- An error in the granule that holds memory key `key`, by what its code and the retries of R410 make of it. -/
inductive Upset where
  | corrected (key : Nat)
  | retried (key : Nat)
  | lasting (key : Nat)
deriving DecidableEq, Repr

/-- The memory error that the `n`-th nanosecond brings, if any (R55, R174, R178, R186, R410): errors come from outside and the spec has no
command for them. Log entry 64. -/
opaque upset (n : Nat) : Option Upset

/-- The length in ns of the `n`-th retry of a controller or of a link layer (R199), below the worst case of the table. Log entry 64. -/
opaque retryNs (n : Nat) : Nat

/-- The background work in ns that comes up for an activity of a unit in a 10 µs window (R137, R177, R181), by the number of the draw. Log
entry 65. -/
opaque backgroundDemand (n : Nat) : Nat

/-- The ENTRY of the phase programs of a cleat at a device that is not its anchor (R250), which no message carries. Log entry 34. -/
opaque phaseEntry (cleat : BitVec 64) : BitVec 64

/-- The capacities in bytes of the expanders that the `n`-th enumeration finds on a CXL port, in its order (R180). Log entry 66. -/
opaque expanders (n port : Nat) : List Nat

/-- The vendor ID of the function's configuration header (R292), which the spec does not state. Log entry 6. -/
opaque vendorId : BitVec 16

/-- The revision of a yard die (YRD_ID.DIE_REV, per part). Log entry 6. -/
opaque dieRev (yard : Nat) : BitVec 4

/-- The number of entries of a router's boot table in the mask ROM (R149). Log entry 6. -/
opaque bootEntries (router : Nat) : BitVec 12

/-- AES-256-XTS encryption of a granule under the `n`-th memory key and a tweak (R183). Log entry 7. -/
opaque xtsSeal (n : Nat) (tweak : BitVec 128) (pt : List (BitVec 8)) : List (BitVec 8)

/-- AES-256-GCM encryption of one unit under a key, IV and AAD: ciphertext and tag (R323, R375).
Log entry 7. -/
opaque gcmSeal (key : BitVec 256) (iv : BitVec 96) (aad pt : List (BitVec 8)) : List (BitVec 8)

/-- AES-256-GCM decryption of one unit (R323). Log entry 7. -/
opaque gcmOpen (key : BitVec 256) (iv : BitVec 96) (aad ct : List (BitVec 8)) : List (BitVec 8)

/-- The tag of one unit under AES-256-GCM (R365): key, IV, AAD, ciphertext. Log entry 7. -/
opaque gcmTag (key : BitVec 256) (iv : BitVec 96) (aad ct : List (BitVec 8)) : List (BitVec 8)

/-- The shared secret that the decapsulation key of the `n`-th lease gives for an ML-KEM-1024 ciphertext (FIPS 203, R365). Log
entry 7. -/
opaque mlkemDecaps (n : Nat) (ct : List (BitVec 8)) : List (BitVec 8)

/-- The 60-byte HSS public key of Hemenik for firmware, in the mask ROM (R398). Log entry 8. -/
opaque firmKey : List (BitVec 8)

/-- The HSS public key of Hemenik for life-cycle requests (R376). Log entry 8. -/
opaque lifeKey : List (BitVec 8)

/-- The HSS public key of Hemenik for debug responses (R382). Log entry 8. -/
opaque debugKey : List (BitVec 8)

/-- f·V² of a point over that of point 2 in thousandths, with the part's fused voltages (R437). Log entry 6. -/
opaque pointPower (point : Nat) : Nat

/-- The largest per-cluster power of the part at a point in units of 0.01 W (R442). Log entry 6. -/
opaque maxPower (point : Nat) : Nat

/-- The fused voltage of the part at a point in mV (R437). Log entry 6. -/
opaque pointMv (point : Nat) : Nat

end Sys2Proof.Config
end

