-- ==== Sys2Proof/Machine/Tbl.lean ====
section
/-! DEFINITION. Sparse tables: a list of (key, value) pairs with strictly rising keys that lists no
key whose value is the default. Memory and every large array of the block are held in this form, so
equal tables are equal data. -/

namespace Sys2Proof.Machine

/-- A sparse table over natural-number keys. -/
abbrev Tbl (α : Type) := List (Nat × α)

/-- The value listed for key `k`, if any. -/
def Tbl.look {α : Type} : Tbl α → Nat → Option α
  | [], _ => none
  | (a, x) :: t, k => if a = k then some x else Tbl.look t k

/-- The value at key `k`; an unlisted key reads as `d`. -/
def Tbl.get {α : Type} (d : α) (t : Tbl α) (k : Nat) : α := (Tbl.look t k).getD d

/-- Insert a pair before the first larger key. -/
def Tbl.insert {α : Type} : Tbl α → Nat → α → Tbl α
  | [], k, v => [(k, v)]
  | (a, x) :: t, k, v => if k < a then (k, v) :: (a, x) :: t else (a, x) :: Tbl.insert t k v

/-- Drop key `k`. -/
def Tbl.erase {α : Type} (t : Tbl α) (k : Nat) : Tbl α := t.filter (fun p => p.1 != k)

/-- Write `v` at key `k`; writing what an unlisted key reads as drops the entry. -/
def Tbl.set {α : Type} [DecidableEq α] (d : α) (t : Tbl α) (k : Nat) (v : α) : Tbl α :=
  if v = d then t.erase k else (t.erase k).insert k v

/-- Change the value at key `k` by `f`. -/
def Tbl.upd {α : Type} [DecidableEq α] (d : α) (t : Tbl α) (k : Nat) (f : α → α) : Tbl α :=
  t.set d k (f (t.get d k))

/-- The canonical form: keys strictly rising, no entry equal to the default. -/
def Tbl.wf {α : Type} [DecidableEq α] (d : α) : Tbl α → Bool
  | [] => true
  | [(_, x)] => x != d
  | (a, x) :: (b, y) :: t => decide (a < b) && x != d && Tbl.wf d ((b, y) :: t)

end Sys2Proof.Machine
end

