-- ==== Sys2Proof/Machine/SecState.lean ====
section
/-! DEFINITION. The state of keys, identity, life cycle and debug (11), and of reset, start-up and
self-test (12), as plain data.
Choices of the model here: log entry 3 (DESIGN CHOICE), log entry 8 (DESIGN CHOICE). -/

namespace Sys2Proof.Machine

open Sys2Proof

/-- The states of R358. -/
inductive SlotSt where
  | empty | loaded | active | draining
deriving DecidableEq, Repr

/-- The kinds of R357. -/
inductive SlotKind where
  | unused | memory | link
deriving DecidableEq, Repr

/-- A key slot (R356 to R359): SEC_SLOT_STATE and the delivered keys it holds. The memory key never
leaves the key store and is named by its number. `drainAt` is the time the slot entered DRAINING. -/
structure KeySlot where
  st : SlotSt
  kind : SlotKind
  sail : Nat
  conf : Bool
  gen : BitVec 16
  deliveries : BitVec 16
  badKill : BitVec 16
  memKey : Option Nat
  dmaKey : BitVec 256
  dmaSender : BitVec 32
  linkKey : BitVec 256
  senderId : BitVec 32
  sampleKey : BitVec 256
  killCode : BitVec 256
  dmaCount : Word
  linkCount : Word
  sampleCount : Word
  rekeyAt : Option Word
  drainAt : Option Word
deriving DecidableEq, Repr

/-- The life-cycle states of R376. -/
inductive LcState where
  | maker | integrator | fielded | analysis | scrapped
deriving DecidableEq, Repr

/-- A DOE response (R292, R364, R399): the STATUS and the bytes after STATUS. -/
structure DoeResponse where
  status : BitVec 16
  body : List Byte
deriving DecidableEq, Repr

/-- The public keys of Hemenik that the part holds (R376, R382, R398): of firmware, in the mask ROM; of life-cycle requests; of debug
responses. -/
structure RomKeys where
  firm : List Byte
  life : List Byte
  debug : List Byte
deriving DecidableEq, Repr

/-- A GET_REPORT that waits in its mailbox (R363): its function, the sail, none for the device, and NONCE. -/
structure ReportWait where
  fn : HostFn
  sail : Option Nat
  nonce : BitVec 256
deriving DecidableEq, Repr

/-- Keys, attestation, life cycle and debug. `userArea` is the 4 MiB user area of MRAM by byte; `doe`
the last response of each function's mailboxes; `jtag` the last value the debug port shifted out; `confWindow` the number of the last 1 ms window closed for a sail
(R374). -/
structure SecSt where
  unitId : BitVec 256
  slots : Tbl KeySlot
  leaseKeys : Tbl Nat
  nextLease : Nat
  leafNext : BitVec 40
  leafResv : BitVec 40
  leafDisabled : Bool
  treeReady : Bool
  drained : BitVec 32
  slotSel : BitVec 7
  lc : LcState
  lcMark : BitVec 3
  lcOpen : Bool
  lcTo : LcState
  lcCounter : BitVec 32
  opKey : Option (List Byte)
  rootBlocked : Bool
  reqAddr : Vector (BitVec 46) 2
  lcsBusy : Bool
  lcsIgnored : Bool
  lcsStatus : BitVec 16
  userArea : Tbl Byte
  dbgLevel : Nat
  dbgOpen : Bool
  dbgSince : Bool
  challenge : Option (BitVec 256)
  jtag : List Bool
  boundary : List Bool
  mastheadMem : Tbl Byte
  doe : List (HostFn × DoeResponse)
  confWindow : Tbl Nat
  reports : Nat
  reportSecond : Nat
  romKeys : RomKeys
  reportWaits : List ReportWait
deriving DecidableEq, Repr

/-- An empty, unused key slot (Reset column of SEC_SLOT_STATE). -/
def KeySlot.empty : KeySlot :=
  { st := .empty, kind := .unused, sail := 0, conf := false, gen := 0, deliveries := 0, badKill := 0,
    memKey := none, dmaKey := 0, dmaSender := 0, linkKey := 0, senderId := 0, sampleKey := 0,
    killCode := 0, dmaCount := 0, linkCount := 0, sampleCount := 0, rekeyAt := none, drainAt := none }

/-- Keys and identity after power-on. The fused and MRAM values (UNIT_ID, life-cycle state FIELDED,
transition counter, leaf records, no operator key) are of the modelled part: log entry 8. -/
def SecSt.reset : SecSt :=
  { unitId := 0, slots := [], leaseKeys := [], nextLease := 0, leafNext := 0, leafResv := 0,
    leafDisabled := false, treeReady := false, drained := 0, slotSel := 0, lc := .fielded, lcMark := 0,
    lcOpen := false, lcTo := .fielded, lcCounter := 0, opKey := none, rootBlocked := false,
    reqAddr := Vector.replicate 2 0, lcsBusy := false, lcsIgnored := false, lcsStatus := 0,
    userArea := [], dbgLevel := 0, dbgOpen := false, dbgSince := false, challenge := none, jtag := [],
    boundary := [], mastheadMem := [], doe := [], confWindow := [], reports := 0, reportSecond := 0,
    romKeys := { firm := Config.firmKey, life := Config.lifeKey, debug := Config.debugKey }, reportWaits := [] }

/-! ### Reset, start-up and self-test (12) -/

/-- The scopes of R385. -/
inductive Scope where
  | cold | warm | compute | port (p : Nat) | sail (s : Nat)
deriving DecidableEq, Repr

/-- A reset that a pin holds (R390): its scope and the pin. -/
structure ResetSeq where
  scope : Scope
  held : ResetPin
deriving DecidableEq, Repr

/-- A firmware delivery (R399): the owner's port, the announced length, the bytes written. -/
structure BootSt where
  port : Nat
  len : Nat
  img : Tbl Byte
  written : Tbl Bool
deriving DecidableEq, Repr

/-- The self-test result record (R401). -/
structure TestRecord where
  valid : Bool
  form : Bool
  goldenBad : Bool
  overflow : Bool
  seq : BitVec 32
  time : Word
  entries : List TestEntry
  inProgress : Bool
deriving DecidableEq, Repr

/-- The RST and BST blocks with what stands behind them. `quiesced` lists the blocks (kind, index) whose
QUIESCE is set, `blockBusy` the block whose reset runs, `fenceMap` the fences kept in MRAM
(R403) by self-test kind (R401) and index, `fencedSinceLoad` the physical cores fenced since the last
LOAD (rule 0x10 of R273), `pins` the reset pins that are asserted, `sailWaits` the SAIL resets that wait for a release (R286). -/
structure RstSt where
  ready : Bool
  step : Nat
  bgTest : Bool
  shutdown : Bool
  offReady : Bool
  source : BitVec 4
  scope : BitVec 3
  band : Bool
  causeSail : BitVec 6
  causeTime : BitVec 48
  fuseMap : BitVec 32
  badEntry : Bool
  short : BitVec 16
  bandCount : BitVec 16
  sdIgnored : Bool
  blkKind : BitVec 3
  blkIndex : BitVec 12
  quiesced : List (Nat × Nat)
  blockBusy : Option (Nat × Nat)
  blkIgnored : Bool
  seqs : List ResetSeq
  boot : Option BootSt
  fwRun : Bool
  fwVer : BitVec 16
  fwSecVer : BitVec 16
  fwFloor : BitVec 16
  fwDigest : BitVec 256
  testRec : TestRecord
  entrySel : BitVec 8
  fenceMap : List (Nat × Nat)
  fencedSinceLoad : List Nat
  powered : Bool
  pins : List ResetPin
  sailWaits : List Nat
deriving DecidableEq, Repr

/-- No self-test record. -/
def TestRecord.none : TestRecord :=
  { valid := false, form := false, goldenBad := false, overflow := false, seq := 0, time := 0,
    entries := [], inProgress := false }

/-- The RST block at power-on, before its first step: RST_CAUSE names the power-on COLD reset (R393). -/
def RstSt.reset : RstSt :=
  { ready := false, step := 0, bgTest := false, shutdown := false, offReady := false,
    source := 0xF, scope := 1, band := false, causeSail := 0, causeTime := 0, fuseMap := 0,
    badEntry := false, short := 0, bandCount := 0, sdIgnored := false, blkKind := 0, blkIndex := 0,
    quiesced := [], blockBusy := none, blkIgnored := false, seqs := [], boot := none, fwRun := false,
    fwVer := 0, fwSecVer := 0, fwFloor := 0, fwDigest := 0, testRec := TestRecord.none, entrySel := 0,
    fenceMap := [], fencedSinceLoad := [], powered := true, pins := [.perst0, .perst1], sailWaits := [] }

end Sys2Proof.Machine
end

