-- ==== Sys2Proof/Machine/PwrState.lean ====
section
/-! DEFINITION. The state of the error log, the telltales and the recovery ladder (13), of power, clocks
and heat (14), of the sideband and the module's pins (15), and of the host functions (09), as plain
data.
Choices of the model here: log entry 3 (DESIGN CHOICE), log entry 8 (DESIGN CHOICE). -/

namespace Sys2Proof.Machine

open Sys2Proof

/-- An error record (R407), field by field. -/
structure LogRec where
  time : Word
  cls : BitVec 4
  step : BitVec 4
  okind : BitVec 4
  index : BitVec 16
  sail : Option Nat
  conf : Bool
  ctx : Option Nat
  cause : BitVec 8
  addr : Word
  cmdId : BitVec 16
  queue : BitVec 16
  status : BitVec 16
deriving DecidableEq, Repr

/-- A telltale window that has ended and is not judged yet (R415): whether the object was busy at its start and at its end,
whether too few events were counted, whether a wait of R416 spans it, whether the host alone stalls its work (R418). -/
structure TellEnd where
  busy : Bool
  few : Bool
  exempt : Bool
  stalled : Bool
deriving DecidableEq, Repr

/-- A telltale's running state (R415, TTL_STATE): busy at the start of the window, lower-level retries in progress, hangs
declared, the object's own progress events so far, all its events when the window began, whether its work waited under
timers of its own at the last µs (R417), whether it stood in a wait of R416 when the window began, and the window that has
ended and waits to be judged. -/
structure Telltale where
  busyAtStart : Bool
  paused : Bool
  hung : Bool
  progress : Nat
  hangs : BitVec 16
  waited : Bool
  exempt : Bool
  marks : Nat
  closed : Option TellEnd
deriving DecidableEq, Repr

/-- What a recovery step acts on (R420). -/
inductive LadderReach where
  | context (ctx : Nat)
  | block (kind index : Nat)
  | cluster (c : Nat)
  | sail (s : Nat)
  | device
deriving DecidableEq, Repr

/-- A step of the ladder that runs (R420, R422), or ended at `ended` (R421), with its cause (R408). -/
structure LadderStep where
  id : Nat
  code : Nat
  cause : Nat
  reach : LadderReach
  started : Word
  ended : Option Word
deriving DecidableEq, Repr

/-- A suspect replay (R424): the hung block, the suspects not yet cleared or judged, the commands held for replay, the
context under replay, whether its replay has hung, whether a suspect was guilty, the step. -/
structure Replay where
  kind : Nat
  index : Nat
  suspects : List Nat
  held : List (Nat × Nat)
  cur : Option Nat
  hung : Bool
  guilty : Bool
  stepId : Nat
deriving DecidableEq, Repr

/-- The TTL block and what stands behind it. `sampling` is the time at which sampling began that has not ended,
`held` the samples that it could not write so far (R423), `warmStep` a chip WARM step whose start is under way, `corrected` the errors corrected in the current 1 s window by unit, at key
65,536 × object kind + index (R410). -/
structure TtlSt where
  log : Tbl LogRec
  written : BitVec 32
  lost : BitVec 16
  logSel : BitVec 10
  selKind : BitVec 4
  selIndex : BitVec 13
  tells : Tbl Telltale
  steps : List LadderStep
  warmStep : Option LadderStep
  nextStep : Nat
  replays : List Replay
  fwBeat : Word
  fwHung : Bool
  sampleBase : BitVec 46
  samplePort : Bool
  sampleLog2 : BitVec 6
  sampleProd : Word
  sampleCons : Word
  sampleDrop : BitVec 32
  sampling : Option Word
  held : Nat
  corrected : Tbl Nat
  chipFails : Nat
  warmAt : Option Word
deriving DecidableEq, Repr

/-- The last ramp of a cluster's rail (R436): from a level to a level in mV, and when it began. -/
structure RailRamp where
  from_ : Nat
  goal : Nat
  since : Word
deriving DecidableEq, Repr

/-- A cluster's clock (CLK_CLUSTER, CLK_STRETCH, R436): whether its rail is being ramped up for a switch, its last ramp, and
when the last of its droop flags cleared. -/
structure ClkCluster where
  point : BitVec 3
  gate : BitVec 5
  target : BitVec 3
  held : Bool
  ramping : Bool
  ramp : Option RailRamp
  clearAt : Option Word
  stretch : Word
deriving DecidableEq, Repr

/-- A learned phase (R442): the RUN's ENTRY, E in units of 0.01 W in its parts for the cores and for the yard engines, how
often it was measured. -/
structure Phase where
  entry : Nat
  core : Nat
  yard : Nat
  seen : Nat
deriving DecidableEq, Repr

/-- TRM_SAIL_STATE with the phase table, in order of use. -/
structure TrimSail where
  share : BitVec 16
  demand : BitVec 16
  point : BitVec 3
  gate : BitVec 5
  ygate : BitVec 5
  phases : List Phase
  dflt : Phase
deriving DecidableEq, Repr

/-- TRM_THERM of a sensor, in units of 0.01 °C; `hot` from its throttle limit until 3 °C below it (R449). -/
structure Therm where
  temp : Int
  max : Int
  throttle : Bool
  hot : Bool
deriving DecidableEq, Repr

/-- The CLK, PWR and TRM blocks, the power stage and the sideband (14, 15): among them the energy below 1 mJ, the gates of
yard engines at key 64 × yard + sail, the droop flags with their times, the throttling steps of masts and yards (R449),
whether a CAP_UNMET lasts (R441), the ENTRY + 1 that each cluster ran at the start of the interval (R442), when the last
interval and the last sample were. -/
structure PwrSt where
  capHost : BitVec 11
  capTray : BitVec 11
  effective : Nat
  thermCut : Nat
  mean : BitVec 16
  peak : BitVec 16
  fixed : BitVec 16
  energy : Word
  capLimited : Bool
  capUnmet : Bool
  fastClamp : Bool
  thermThrottle : Bool
  undervolt : Bool
  reversed : Bool
  overvolt : Bool
  brownout : Bool
  sbShort : Bool
  sbPin : BitVec 4
  fabShort : BitVec 32
  supplyOff : BitVec 32
  clkSel : BitVec 6
  clusters : Tbl ClkCluster
  ygates : Tbl Nat
  droop : List (Island × Word)
  energySub : Nat
  clamped : Bool
  holdOne : Bool
  mastCut : Tbl Nat
  yardCut : Tbl Nat
  phaseAt : Tbl Nat
  trimAt : Option Word
  sampleAt : Option Word
  stopped : List Island
  sailSel : BitVec 6
  sails : Tbl TrimSail
  thermSel : BitVec 8
  therm : Tbl Therm
  samples : List Nat
  windowSum : Nat
  windowCount : Nat
  inputVolt : Nat
  alertCause : BitVec 16
  alertOff : Bool
  alertFw : Bool
  powerCycle : Bool
  fatal : Bool
  thermTrip : Bool
  pwrGood : Bool
  portMode : BitVec 8
  portModeNow : BitVec 8
  smbusOut : List Byte
  smbusAck : Bool
deriving DecidableEq, Repr

/-- A host port: whether its link is up, its trained width and rate (HIF_PORT, 09). -/
structure HifPort where
  linkUp : Bool
  width : BitVec 5
  speed : BitVec 3
deriving DecidableEq, Repr

/-- One MSI-X message: function and vector. -/
structure Msix where
  fn : HostFn
  vector : Nat
deriving DecidableEq, Repr

/-- The host interface: ports, SAIL_VIEW_SEL of each function and sail (R297), messages sent. -/
structure HifSt where
  ports : Vector HifPort 2
  viewSel : List ((HostFn × Nat) × BitVec 64)
  msix : List Msix
deriving DecidableEq, Repr

def Telltale.idle : Telltale :=
  { busyAtStart := false, paused := false, hung := false, progress := 0, hangs := 0, waited := false,
    exempt := false, marks := 0, closed := none }

/-- Reset column of the TTL block. -/
def TtlSt.reset : TtlSt :=
  { log := [], written := 0, lost := 0, logSel := 0, selKind := 0, selIndex := 0, tells := [], steps := [], warmStep := none,
    nextStep := 0, replays := [], fwBeat := 0, fwHung := false, sampleBase := 0, samplePort := false,
    sampleLog2 := 20, sampleProd := 0, sampleCons := 0, sampleDrop := 0, sampling := none, held := 0, corrected := [],
    chipFails := 0, warmAt := none }

/-- Reset column of CLK_CLUSTER. -/
def ClkCluster.reset : ClkCluster :=
  { point := 2, gate := 16, target := 2, held := false, ramping := false, ramp := none, clearAt := none, stretch := 0 }

/-- Reset column of TRM_SAIL_STATE; no phase is learned. -/
def TrimSail.reset : TrimSail :=
  { share := 0, demand := 0, point := 2, gate := 16, ygate := 16, phases := [],
    dflt := { entry := 0, core := 0, yard := 0, seen := 0 } }

def Therm.zero : Therm := { temp := 0, max := 0, throttle := false, hot := false }

/-- Reset column of PWR, CLK and TRM; power is good, no input fault is stored. -/
def PwrSt.reset : PwrSt :=
  { capHost := 1800, capTray := 1800, effective := 1800, thermCut := 0, mean := 0, peak := 0, fixed := 0,
    energy := 0, capLimited := false, capUnmet := false, fastClamp := false, thermThrottle := false,
    undervolt := false, reversed := false, overvolt := false, brownout := false, sbShort := false,
    sbPin := 0, fabShort := 0, supplyOff := 0, clkSel := 0, clusters := [], ygates := [], droop := [], energySub := 0, clamped := false, holdOne := false,
    mastCut := [], yardCut := [], phaseAt := [], trimAt := none, sampleAt := none, stopped := [],
    sailSel := 0, sails := [], thermSel := 0, therm := [], samples := [], windowSum := 0,
    windowCount := 0, inputVolt := 0, alertCause := 0, alertOff := false, alertFw := false, powerCycle := false,
    fatal := false, thermTrip := false, pwrGood := true, portMode := 0,
    portModeNow := 0, smbusOut := [], smbusAck := false }

/-- The host ports before their links are trained. -/
def HifSt.reset : HifSt :=
  { ports := Vector.replicate 2 { linkUp := false, width := 0, speed := 0 }, viewSel := [], msix := [] }

end Sys2Proof.Machine
end

