-- ==== Sys2Proof/Machine/CoreState.lean ====
section
/-! DEFINITION. The state of a core and of the program copy that is resident on it (03, Program
state), as plain data.
Choices of the model here: log entry 59 (DESIGN CHOICE). -/

namespace Sys2Proof.Machine

open Sys2Proof

/-- The statuses of R313. -/
inductive Status where
  | done | doneReplayed | doneFallback
  | abortDestroy | abortContextReset | abortNotReplayable | abortKeyRevoked
  | faultTranslation | faultFreedRange | faultPermission | faultPoison
  | remoteTimeout | remoteUnreachable | stateLost
  | txnConflict | semRevoked | fenceSaturated | malformed
deriving DecidableEq, Repr

/-- The causes of a core fault (R92); `fetch` carries the status its fetch failed with. -/
inductive CoreCause where
  | illegalInstruction | misaligned | spadRange | cbRange | descriptor | streamUnbound
  | yieldOverdue | fetch (st : Status) | poison | semRange | semHolds | semRevoked
deriving DecidableEq, Repr

/-- The type tag of an accumulator (03, Program state). -/
inductive AccTag where
  | fp32 | int32
deriving DecidableEq, Repr

/-- An accumulator: its tag and its 32 × 32 elements, element (m, n) at key 32 m + n. -/
structure Acc where
  tag : AccTag
  el : Tbl Lane
deriving DecidableEq, Repr

/-- One entry of the loop stack (R66): first and last instruction of the body, passes left. -/
structure LoopFrame where
  first : BitVec 56
  last : BitVec 56
  count : Word
deriving DecidableEq, Repr

/-- The operations of class VALU (R69). -/
inductive VOp where
  | add | sub | mul | fma | min | max | div | rcp | rsqrt | exp2 | log2
  | and | or | xor | shl | shr | bcast | redsum | redmax | mov | sel
deriving DecidableEq, Repr

/-- The operations of class VMEM (R71). -/
inductive VmOp where
  | vld | vst | vlds | vsts | vgath | vscat
deriving DecidableEq, Repr

/-- Work in the vector queue, with the scalar operands read at issue. -/
inductive VecWork where
  | alu (op : VOp) (f : ValuFields) (sa : Word)
  | mem (op : VmOp) (f : VmemFields) (base x : Word)
  | cvt (f : VcvtFields)
  | mxq (f : VcvtFields)
  | seed (f : VcvtFields)
  | seedr (f : VcvtFields)
deriving DecidableEq, Repr

/-- Work in the matrix queue, with the scalar operands read at issue (R73). -/
inductive MatWork where
  | mma (f : MatFields) (da db k : Word)
  | mzero (f : MatFields)
  | mld (f : MatFields) (a : Word)
  | mst (f : MatFields) (da db : Word)
deriving DecidableEq, Repr

/-- Work in the stream queue (R51, R79, R85): a send with the bytes already handed to the interface, a receive that is
not yet posted, a request under its tag, a read of a stream's error record. -/
inductive StrmWork where
  | send (f : StrmFields) (a : Word) (len sent : Nat)
  | recv (f : StrmFields) (a : Word) (len : Nat)
  | req (f : StrmFields) (tag : Nat) (a : Word) (len : Nat)
  | sstat (f : StrmFields)
deriving DecidableEq, Repr

/-- A posted receive buffer (R79, R85) with the bytes already filled. -/
structure RecvBuf where
  f : StrmFields
  a : Word
  len : Nat
  filled : Nat
deriving DecidableEq, Repr

/-- Work in the transfer queue (R79). -/
inductive XferWork where
  | cbmov (f : XferFields) (d a l : Word)
  | dmasub (f : XferFields) (a : Word)
deriving DecidableEq, Repr

/-- A piece of queued work with the address of its instruction (R93). -/
structure Queued (α : Type) where
  work : α
  pc : BitVec 56
deriving DecidableEq, Repr

/-- Where an outstanding request of a core stands (R86, R135): in the core's stream queue, in its frames on the mesh, in an
entry of a yard, at another endpoint. -/
inductive ReqAt where
  | queue
  | mesh
  | yard (y id : Nat)
  | endpoint
deriving DecidableEq, Repr

/-- An outstanding request of a core (R86): its tag, its number in the core's order of issue, stream, destination, post, and
its return once that has reached the core (a status, and the return bytes for DONE) with the 32-byte units of it that are poisoned,
and where it stands. -/
structure ReqOut where
  tag : Nat
  seq : Nat
  st : BitVec 4
  dst : BitVec 32
  evt : BitVec 4
  post : Bool
  ret : Option (Status × List Byte)
  marks : List Bool
  at_ : ReqAt
deriving DecidableEq, Repr

/-- The first error status recorded on a stream (R94). -/
structure StrmErr where
  st : BitVec 4
  status : Status
deriving DecidableEq, Repr

/-- What a waiting or stalled instruction waits for (R52, R87). -/
inductive WaitFor where
  | vectorQueue | matrixQueue | streamQueue | transferQueue
  | fence (mask : BitVec 4) | event (e : BitVec 4) (target : BitVec 32)
  | tag (st : BitVec 4) | engine (eng : BitVec 2) | sem (sem units : Nat)
  | haltFence | granted | page
deriving DecidableEq, Repr

/-- A waiting instruction (R87): it has had no effect and is executed again on resumption. -/
structure Waiting where
  why : WaitFor
  i : Instr
deriving DecidableEq, Repr

/-- The copy of a program on a core: the program state of 03 and the state of its units. -/
structure Prog where
  ctx : Nat
  q : Nat
  n : Nat
  lcore : Nat
  ncore : Nat
  pc : BitVec 56
  s : Vector Word 32
  p : BitVec 8
  v : Vector (BitVec 2048) 32
  acc : Vector Acc 4
  e : Vector (BitVec 32) 16
  loops : List LoopFrame
  gens : Vector Lane 64
  live : BitVec 8
  cycle : Word
  yieldCount : Nat
  vecQ : List (Queued VecWork)
  matQ : List (Queued MatWork)
  strmQ : List (Queued StrmWork)
  recvs : List RecvBuf
  xferQ : List (Queued XferWork)
  reqs : List ReqOut
  errs : List StrmErr
  waiting : Option Waiting
  stopped : Bool
  atYield : Bool
deriving DecidableEq, Repr

/-- A line of an instruction cache (R97): the context, the virtual address of its first byte, its 256 bytes. -/
structure ICacheLine where
  ctx : Nat
  va : Nat
  bytes : List Byte
deriving DecidableEq, Repr

/-- A logical core of the device: the resident program copy, the pending pre-emption request with its
time, whether a save runs, when the program was placed, telltale progress, its value when the program was placed, the number of its next
request, the lines that its instruction cache may hold, and the part of a core cycle that has passed, in 3,000ths. -/
structure CoreSlot where
  prog : Option Prog
  preempt : Option Word
  saving : Bool
  placed : Word
  progress : Nat
  since : Nat
  nextReq : Nat
  icache : List ICacheLine
  phase : Nat
deriving DecidableEq, Repr

/-- A core with nothing on it. -/
def CoreSlot.empty : CoreSlot :=
  { prog := none, preempt := none, saving := false, placed := 0, progress := 0, since := 0, nextReq := 0, icache := [], phase := 0 }

/-- A program copy saved in a slot of its sail's save area (R336). -/
structure Saved where
  lc : Nat
  slot : Nat
  readyAt : Word
  prog : Prog
deriving DecidableEq, Repr

end Sys2Proof.Machine
end

