-- ==== Sys2Proof/Machine/RigState.lean ====
section
/-! DEFINITION. A rig in parsed form (08, R264 to R269), the RIG block and the mesh (05), as plain
data.
Choices of the model here: log entry 2 (DESIGN CHOICE), log entry 3 (DESIGN CHOICE), log entry 63 (DESIGN
CHOICE). -/

namespace Sys2Proof.Machine

open Sys2Proof

/-- A sail descriptor (R267). -/
structure SailDesc where
  role : Nat
  conf : Bool
  memKey : Nat
  linkKey : Nat
  leaseRef : BitVec 32
  ctxFirst : Nat
  ctxCount : Nat
  qFirst : Nat
  qCount : Nat
  semFirst : Nat
  semCount : Nat
  seqFirst : Nat
  seqCount : Nat
  vf0 : Nat
  vf1 : Nat
  cgQuota : Nat
  cgHold : Nat
  devTags : Nat
  cleats : Nat
  exports : Nat
  imports : Nat
  ingest : Nat
  migYard : Nat
  migEn : Bool
  cxl0 : Nat
  cxl1 : Nat
  trimWeight : Nat
  saveBase : Nat
  saveLen : Nat
deriving DecidableEq, Repr

/-- A core map entry (R268): the physical core of each logical core, and the spares (255 for bad). -/
structure CoreMap where
  phys : List Nat
  spare0 : Nat
  spare1 : Nat
  owner : BitVec 8
deriving DecidableEq, Repr

/-- An intent log (R266, LOGS). -/
structure LogEntry where
  addr : Nat
  sail : Nat
  yard : Nat
  log2 : Nat
deriving DecidableEq, Repr

/-- A stream of the rig (R266, STREAMS). -/
structure StreamDef where
  srcRouter : Nat
  srcTag : Nat
  dstRouter : Nat
  dstTag : Nat
  sail : Nat
  request : Bool
  quota : Nat
  dmax : Nat
  gap : Nat
deriving DecidableEq, Repr

/-- A LINKS entry (R269): slot map, sails of leases 0 to 14, expected peer, credits at 3 × lease + class. -/
structure LinkDef where
  slots : List Nat
  leases : List Nat
  peerNode : Nat
  peerPort : Nat
  credits : List Nat
deriving DecidableEq, Repr

/-- A REEF entry (R344). -/
structure ReefDef where
  rclass : Nat
  index : Nat
  sail : Nat
  tclass : Nat
  rate : Nat
  latency : Nat
  share : Nat
deriving DecidableEq, Repr

/-- A TELLTALE entry (R414): window in µs. -/
structure TelltaleDef where
  kind : Nat
  index : Nat
  window : Nat
  threshold : Nat
deriving DecidableEq, Repr

/-- A BUDGET entry (R349). -/
structure BudgetDef where
  code : Nat
  unit : Nat
  ns : Nat
deriving DecidableEq, Repr

/-- A rig (R264 to R269). `owner` holds the owner bytes by offset in the OWNERS section, `quotas` the
16-bit quotas at key 64 × unit + sail, `dir` the section types in directory order, `fetch` the fetch-port slot maps at key 64 × yard + slot. -/
structure Rig where
  serial : Nat
  base : Nat
  period : Nat
  target : BitVec 256
  created : Word
  digest : BitVec 256
  dir : List Nat
  sails : Tbl SailDesc
  cores : Tbl CoreMap
  owner : Tbl (BitVec 8)
  quotas : Tbl Nat
  fetch : Tbl Nat
  remoteEntries : Tbl Nat
  logs : List LogEntry
  sched : Tbl (List (BitVec 64))
  streams : List StreamDef
  links : Tbl LinkDef
  reef : List ReefDef
  telltale : List TelltaleDef
  budget : List BudgetDef
deriving DecidableEq, Repr

/-- RIG_STATUS.SHADOW. -/
inductive ShadowSt where
  | empty | loading | valid | rejected
deriving DecidableEq, Repr

/-- RIG_STATUS.PHASE. -/
inductive RigPhase where
  | idle | quiesce | drain | scrub | cut | release
deriving DecidableEq, Repr

/-- A class of R276. -/
inductive SailClass where
  | continuing | changed | removed | added
deriving DecidableEq, Repr

/-- RIG_ERROR. -/
structure RigError where
  rule : BitVec 8
  sec : BitVec 8
  entry : BitVec 32
deriving DecidableEq, Repr

/-- The RIG block (08, Registers). `loading` is the physical function whose LOAD runs; `classes` the
classification of the running swap (R277, step 2), `waits` a SWAP that waits in step 2 for the background test (R404), `former` the rig that the
units apply until their routers have switched (R278). -/
structure RigSt where
  active : Option Rig
  former : Option Rig
  shadow : Option Rig
  shadowSt : ShadowSt
  phase : RigPhase
  ignored : Bool
  done : Bool
  loadAddr : Vector Word 2
  loadLen : Vector (BitVec 27) 2
  loading : Option Nat
  error : RigError
  shadowSerial : Nat
  highSerial : Nat
  quiesce : BitVec 32
  tSwap : Word
  tCut : Word
  tRelease : Word
  classes : List (Nat × SailClass)
  waits : Bool
deriving DecidableEq, Repr

/-- Reset column of the RIG block. -/
def RigSt.reset : RigSt :=
  { active := none, former := none, shadow := none, shadowSt := .empty, phase := .idle, ignored := false, done := false,
    loadAddr := Vector.replicate 2 0, loadLen := Vector.replicate 2 0, loading := none,
    error := ⟨0, 0, 0⟩, shadowSerial := 0, highSerial := 0, quiesce := 5000, tSwap := 0, tCut := 0,
    tRelease := 0, classes := [], waits := false }

/-! ### The mesh -/

/-- A frame (R144): header fields, the CRC as sent, and the payload. Beyond what R144 lays out, the model notes the source
(4096 × router + tag) and the slot in which its interface supplied the frame (R145: the same number at every router), and on the frames of a request or a return the number
of the request and the status, for which the spec gives no place in a frame. -/
structure Frame where
  sail : BitVec 6
  srcTag : BitVec 12
  first : Bool
  last : Bool
  poison : Bool
  half : Bool
  crc : BitVec 16
  payload : List (BitVec 8)
  src : Nat := 0
  born : Nat := 0
  note : Option (Nat × Status) := none
deriving DecidableEq, Repr

/-- The kinds of R143; `bad` is a reserved kind or a token with a parity error. -/
inductive TokKind where
  | null
  | frame (f : Frame)
  | skip (n : Nat)
  | bad
deriving DecidableEq, Repr

/-- A token with its SWAP bit (R143). -/
structure Token where
  kind : TokKind
  swap : Bool
deriving DecidableEq, Repr

/-- The counters of a router (MESH_RTR_TIME, MESH_RTR_ERR). -/
structure RtrCounters where
  maxSlot : BitVec 16
  stretch : BitVec 32
  crc : BitVec 16
  discard : BitVec 16
deriving DecidableEq, Repr

/-- A request that an endpoint of the mesh holds, in the order of its stream (R155): the stream's sail, the core, its tag, the number of the
request, its record while the endpoint cannot issue it yet, and its return once that is ready: status, bytes, the 32-byte units of them that are
poisoned. -/
structure EpReq where
  sail : Nat
  lc : Nat
  tag : Nat
  seq : Nat
  held : Option (List (BitVec 8))
  ret : Option (Status × List (BitVec 8) × List Bool)
deriving DecidableEq, Repr

/-- A frame on its way from OUT_L to its unit (R161): the slot in which it is delivered, OUT_TAG, the frame. -/
structure Ejected where
  due : Nat
  tag : Nat
  f : Frame
deriving DecidableEq, Repr

/-- The mesh. `banks` holds the tables at key 2 × router + bank; `shadowOk` the routers with a validated
shadow bank; `links` the tokens in flight towards input `8 × router + direction`, an absent key standing
for the δ NULL tokens of the start (R145); `skips` the slots that a SKIP sent on output `8 × router + direction` still covers
(R146). At key 4096 × router + tag: `iface` the frames queued at the local interface (R151), `pend` those that the unit waits to
queue, `partial_` one more than the sail of a
message that the last frame sent did not end (R153), `eps` the requests that the endpoint holds (R155),
`rx` the frames delivered and not yet taken by the unit, `credit` the bytes that a send stream may still send, `grant` the bytes
granted to a receive stream's source and not yet received (R85). `eject` holds by router the frames between OUT_L and
their unit; `swapNext` asks the masthead's next token to carry SWAP. -/
structure MeshSt where
  running : Bool
  boot : Bool
  period : Nat
  banks : Tbl (List (BitVec 64))
  active : Tbl Nat
  shadowOk : Tbl Bool
  slot : Tbl Nat
  links : Tbl (List Token)
  skips : Tbl Nat
  iface : Tbl (List Frame)
  pend : Tbl (List Frame)
  partial_ : Tbl Nat
  eps : Tbl (List EpReq)
  rx : Tbl (List Frame)
  credit : Tbl Nat
  grant : Tbl Nat
  eject : Tbl (List Ejected)
  cnt : Tbl RtrCounters
  switched : Tbl Bool
  injected : Bool
  complete : Bool
  swapNext : Bool
  rtrSel : Nat
deriving DecidableEq, Repr

def RtrCounters.zero : RtrCounters := { maxSlot := 0, stretch := 0, crc := 0, discard := 0 }

/-- Reset column of the MESH block: the boot schedule runs, no table is held (R149). -/
def MeshSt.reset : MeshSt :=
  { running := true, boot := true, period := 64, banks := [], active := [], shadowOk := [], slot := [],
    links := [], skips := [], iface := [], pend := [], partial_ := [], eps := [], rx := [], credit := [], grant := [], eject := [], cnt := [], switched := [], injected := false,
    complete := false, swapNext := false, rtrSel := 0 }

end Sys2Proof.Machine
end

