-- ==== Sys2Proof/Machine/RyuState.lean ====
section
/-! DEFINITION. The state of the Ryurun fabric (07), as plain data.
Choices of the model here: log entry 3 (DESIGN CHOICE), log entry 24 (DESIGN CHOICE). -/

namespace Sys2Proof.Machine

open Sys2Proof

/-- A message this device sends (R215, R230): the operation code with the header fields that the
operation sets, the port it leaves on (R224), and the 32-byte units of its payload that are poisoned. -/
structure OutMsg where
  port : Nat
  dst : Nat
  lease : Nat
  tc : Nat
  op : Nat
  tag : Nat
  tepoch : BitVec 8
  keyGen : BitVec 16
  rKeyGen : BitVec 16
  xlen : BitVec 8
  arg : Word
  win : Nat
  enc : Bool
  poison : List Bool
  payload : List Byte
deriving DecidableEq, Repr

/-- What a frame belongs to, where something watches its way: a request under a tag (R237), a cleat message (R253), an FM_TIME message,
whose first block is stamped (R260). -/
inductive FrameFor where
  | plain
  | req (tag : Nat)
  | cleat (id : Word)
  | time
deriving DecidableEq, Repr

/-- A frame of a port's transmit side: what it belongs to, its lease and class, its blocks, its link sequence number once it
has been sent, how often it has been resent and when it was last sent (R222). -/
structure TxFrame where
  for_ : FrameFor
  lease : Nat
  cls : Nat
  blocks : List (List Byte)
  seq : BitVec 12
  resends : Nat
  sentAt : Word
deriving DecidableEq, Repr

/-- A frame that a port is sending block by block: the blocks left. -/
structure TxCur where
  lease : Nat
  left : List (List Byte)
deriving DecidableEq, Repr

/-- A frame that a lease's receive slots have begun: its sequence number, the number of blocks it has with its
header, the blocks taken. -/
structure RxPart where
  lease : Nat
  seq : BitVec 12
  len : Nat
  blocks : List (List Byte)
deriving DecidableEq, Repr

/-- Credit of a lease and class that a frame spent and that has not come back (R220, R222): the key 8 × lease + class, the SEQ, the
blocks. -/
structure Spent where
  key : Nat
  seq : BitVec 12
  n : Nat
deriving DecidableEq, Repr

/-- A message of which frames have come (R215): what they hold so far. -/
structure RxAsm where
  op : Nat
  msg : RyuMsg
deriving DecidableEq, Repr

/-- A lookup that waits in its port for a yard entry (R232), with the credit that its last frame holds (R220). -/
structure WaitLkup where
  msg : RyuMsg
  owe : Option (Nat × Nat)
deriving DecidableEq, Repr

/-- A Ryurun port: its registers (RYU_PORT_STATUS, RYU_PORT_ERR, RYU_PORT_FEC), its link layer
(R214, R220 to R222) and its cable (R452); `count` is the receive sequence that
its last LINK block reported, `lastTx` the block it last sent, its TYPE first; `identDue` asks for an IDENT block
(R210), `asm` holds the messages that are not whole, `waiting` the lookups that wait for a yard entry. -/
structure RyuPort where
  trained : Bool
  up : Bool
  fenced : Bool
  peerMismatch : Bool
  schedMismatch : Bool
  polarity : BitVec 4
  laneMap : BitVec 8
  peerNode : Nat
  peerPort : Nat
  peerDigest : BitVec 32
  uncorr : BitVec 16
  crc : BitVec 16
  replays : BitVec 16
  retrains : BitVec 8
  corrected : Word
  lastLoss : Option Word
  txSlot : Nat
  rxSlot : Nat
  txSeq : BitVec 12
  rxSeq : BitVec 12
  nakDue : Bool
  sendQ : List TxFrame
  unacked : List TxFrame
  cur : List TxCur
  part : List RxPart
  credit : Tbl Nat
  owed : Tbl Nat
  lastTx : List Byte
  count : Word
  cable : Bool
  lastTry : Option Word
  identDue : Bool
  spent : List Spent
  asm : List RxAsm
  waiting : List WaitLkup
deriving DecidableEq, Repr

/-- What a remote operation was issued for (R228): a core's REQ, a DMA descriptor, a lookup of a yard, a
migration, an import command, the copying of an offered state or of a state to its mirror, a harvest. -/
inductive RemFrom where
  | core (lc tag : Nat)
  | dma (cluster eng id piece : Nat)
  | yard (yard req : Nat)
  | migration (ctx vstart page piece : Nat)
  | importCmd (q n : Nat)
  | cleat (id : Word) (piece : Nat)
  | mirror (id : Word) (piece : Nat)
  | harvest (q n : Nat)
deriving DecidableEq, Repr

/-- The kinds of operation that take a tag (R234). -/
inductive RemKind where
  | rd | wr | lkup | impOpen | impClose
deriving DecidableEq, Repr

/-- A remote operation in flight (R234 to R238): its timer has started once its first frame has left, and stands while a frame of it is
replayed. -/
structure RemOp where
  kind : RemKind
  sail : Nat
  ctx : Nat
  port : Nat
  node : Nat
  win : Nat
  imp : Nat
  epoch : Word
  started : Option Word
  paused : Option Word
  timeout : Nat
  addr : Nat
  len : Nat
  expect : Nat
  from_ : RemFrom
deriving DecidableEq, Repr

/-- A fabric tag (R234, R235): its epoch and the operation that holds it. -/
structure TagSt where
  epoch : BitVec 8
  op : Option RemOp
deriving DecidableEq, Repr

/-- An export (R225), with the context whose command created it. -/
structure Export where
  base : Nat
  pages : Nat
  read : Bool
  write : Bool
  lkup : Bool
  state : Bool
  keyslot : Nat
  sail : Nat
  ctx : Nat
  table : Nat
  yard : Nat
  quota : Nat
  refs : Nat
  closing : Bool
  creator : Nat
  allow : List Nat
deriving DecidableEq, Repr

/-- An import (R226, R237); `ready` once IMP_ACK has been taken. -/
structure Import where
  sail : Nat
  ctx : Nat
  node : Nat
  win : Nat
  gbase : Nat
  pages : Nat
  read : Bool
  write : Bool
  lkup : Bool
  state : Bool
  ogen : BitVec 16
  hops : Nat
  timeout : Nat
  ready : Bool
  inUse : Nat
  closing : Bool
deriving DecidableEq, Repr

/-- An ingest stream (R242 to R245) with its pending loss. -/
structure Ingest where
  sail : Nat
  ctx : Nat
  log2 : Nat
  plain : Bool
  source : Nat
  buf : Nat
  prodVa : Nat
  consVa : Nat
  seq : BitVec 32
  prod : Word
  cons : Word
  consAt : Word
  lostFrames : BitVec 32
  lostEvents : BitVec 32
  lossSeq : BitVec 32
  lossTime : Word
  lossCause : BitVec 16
deriving DecidableEq, Repr

/-- The states of R249; `copying` is a receiver that copies an offered state and has not accepted (R252). -/
inductive CleatSt where
  | copying | open_ | committing | held | offered | accepted | refused | mirror | track
deriving DecidableEq, Repr

/-- A cleat record (R248) with the time its timer started (R253). `next` is the phase-2 node that the anchor's
command names, `entry` its ENTRY; `mirrorOk` says that the mirror holds the state, `committed` that the anchor has sequenced COMMIT,
`acked` that acceptance is acknowledged at the releaser; `job` is the phase program that runs; `paused` stands while a frame of the
record's message is replayed; `src` is the address that an offered state is copied from; `asked` and `got` count the pieces of 4,096
bytes asked for and arrived. -/
structure Cleat where
  id : Word
  epoch : BitVec 32
  st : CleatSt
  anchor : Bool
  mirrored : Bool
  mirrorLost : Bool
  replayed : Bool
  sail : Nat
  peer : Nat
  next : Nat
  mirrorNode : Nat
  owner : Nat
  win : Nat
  addr : Word
  len : Word
  q : Nat
  n : Nat
  at_ : Word
  timer : Option Word
  paused : Option Word
  mirrorOk : Bool
  committed : Bool
  acked : Bool
  entry : Option Word
  job : Option Nat
  src : Word
  asked : Nat
  got : Nat
deriving DecidableEq, Repr

/-- A route (R224). -/
structure Route where
  mask : BitVec 32
  hops : Nat
deriving DecidableEq, Repr

/-- The fabric-manager messages this device sends (R259). FM_TIME carries the stamp of the manager's frame at its arrival; FM_QUERY the
record's state, which names the timer (R253). -/
inductive FmOut where
  | hello
  | time (port : Nat) (rxStamp : Word)
  | query (id : Word) (epoch : BitVec 32) (timer : CleatSt)
  | record (id : Word) (r : Option Cleat)
  | place (id : Word) (role : PlaceRole)
  | recovery (start : Bool) (step : Nat) (sails : List Nat) (recordsLost : Bool) (ports : List Nat)
  | ack (arg : Word)
deriving DecidableEq, Repr

/-- A message to the fabric manager with its ARG; once sent it waits for FM_ACK (R259). -/
structure FmSend where
  arg : Word
  msg : FmOut
  sent : Bool
deriving DecidableEq, Repr

/-- How the next step of the counter differs (R260). -/
inductive Slew where
  | none | hold | advance
deriving DecidableEq, Repr

/-- The Ryurun fabric of the device. `gone` holds the key slot of the last export released under a WIN (R227), `refusals` the epochs
that a freeze has refused (R254), `ran` says that a sail has run (R260). -/
structure RyuSt where
  node : Nat
  domain : Nat
  manager : Nat
  assigned : Bool
  portSel : Nat
  ports : Tbl RyuPort
  tags : Tbl TagSt
  devPeak : Nat
  staleGen : BitVec 16
  late : BitVec 16
  auth : BitVec 16
  misroute : BitVec 16
  queries : BitVec 16
  rulings : BitVec 16
  stale : BitVec 16
  routes : Tbl Route
  exports : Tbl Export
  imports : Tbl Import
  ingest : Tbl Ingest
  cleats : List Cleat
  nextCleat : Nat
  peers : Tbl PeerState
  recordsLost : Bool
  slewAt : Word
  slew : Slew
  ran : Bool
  gone : Tbl Nat
  refusals : List (Word × BitVec 32)
  jobs : Nat
  fmSeq : Word
  outbox : List OutMsg
  fmOut : List FmSend
deriving DecidableEq, Repr

/-- Reset column of a port (07, Registers). -/
def RyuPort.reset : RyuPort :=
  { trained := false, up := false, fenced := false, peerMismatch := false, schedMismatch := false,
    polarity := 0, laneMap := 0xE4, peerNode := 0xFFFF, peerPort := 0, peerDigest := 0, uncorr := 0, crc := 0,
    replays := 0, retrains := 0, corrected := 0, lastLoss := none, txSlot := 0, rxSlot := 0, txSeq := 0,
    rxSeq := 0, nakDue := false, sendQ := [], unacked := [], cur := [], part := [], credit := [],
    owed := [], lastTx := [], count := 0, cable := false, lastTry := none, identDue := false,
    spent := [], asm := [], waiting := [] }

def TagSt.free : TagSt := { epoch := 0, op := none }

/-- Reset column of the RYU block. -/
def RyuSt.reset : RyuSt :=
  { node := 0xFFFF, domain := 0, manager := 0xFFFF, assigned := false, portSel := 0, ports := [],
    tags := [], devPeak := 0, staleGen := 0, late := 0, auth := 0, misroute := 0, queries := 0,
    rulings := 0, stale := 0, routes := [], exports := [], imports := [], ingest := [], cleats := [],
    nextCleat := 0, peers := [], recordsLost := false, slewAt := 0, slew := .none, ran := false,
    gone := [], refusals := [], jobs := 0, fmSeq := 0, outbox := [], fmOut := [] }

end Sys2Proof.Machine
end

