-- ==== Sys2Proof/Machine/HostState.lean ====
section
/-! DEFINITION. The state of contexts, ranges, queues, commands, semaphores, DMA engines, shared
objects and the batch builder (06, 09, 10), as plain data.
Choices of the model here: log entry 61 (DESIGN CHOICE). -/

namespace Sys2Proof.Machine

open Sys2Proof

/-- CTX_STATE.STATE (09). -/
inductive CtxSt where
  | free | active | stopped | resetting | destroying
deriving DecidableEq, Repr

/-- A range entry of a context (R187). -/
structure RangeE where
  vstart : Nat
  pages : Nat
  target : Nat
  r : Bool
  w : Bool
  x : Bool
  dlog : Bool
  mig : Bool
  pool : Bool
  shared : Bool
  direct : Bool
  pmap : Nat
  dmap : Nat
deriving DecidableEq, Repr

/-- A tombstone (R192): the removed span with the MSEQ recorded, and the old range. -/
structure Tomb where
  mseq : Word
  old : RangeE
deriving DecidableEq, Repr

/-- A page migration in progress (R199), or with `evict` the write-back of a page alone (R201): the range page,
the pool page, the epoch in which it began (R192), the key generation of its translation (R184), since when its access timer has run, whether the page is pinned on arrival, the page that gives way, whether that one has been dealt
with. A remote target takes 16 writes back (`wb`) and 16 reads (`rd`) of 4,096 bytes: how many have been issued
and answered, and the first failure. -/
structure Migration where
  page : Nat
  range : RangeE
  poolPage : Nat
  epoch : Word
  keyGen : BitVec 16
  at_ : Word
  pin : Bool
  evict : Bool
  victim : Option (Nat × Nat)
  begun : Bool
  wb : Nat
  rd : Nat
  asked : Nat
  got : Nat
  failed : Option Status
deriving DecidableEq, Repr

/-- A range command between steps 1 and 5 of R192: the ranges it removed, the spans of local memory whose cached lines go in
step 5, and whether it is a RANGE_SYNC, which drops everything of the context. -/
structure DrainSt where
  q : Nat
  n : Nat
  at_ : Word
  mseq : Word
  spans : List RangeE
  lines : List (Nat × Nat)
  sync : Bool
  newRefs : List RangeE
deriving DecidableEq, Repr

/-- A context's hold on a device semaphore (R82). -/
structure Hold where
  sem : Nat
  units : Nat
deriving DecidableEq, Repr

/-- CTX_XLT_FAULT (06). -/
structure XltFault where
  va : BitVec 56
  cause : BitVec 3
  access : BitVec 3
  more : Bool
  valid : Bool
deriving DecidableEq, Repr

/-- CTX_CORE_FAULT and CTX_CORE_FAULT_PC (R96). -/
structure CoreFaultReg where
  cause : BitVec 8
  lcore : BitVec 12
  status : BitVec 16
  valid : Bool
  more : Bool
  pc : BitVec 56
deriving DecidableEq, Repr

/-- The removal of ranges by a swap (R197), from its point I to the scrub: the MSEQ it took, the ranges, the lines to drop. -/
structure RigDrain where
  mseq : Word
  spans : List RangeE
  lines : List (Nat × Nat)
deriving DecidableEq, Repr

/-- A context: its descriptor fields (R299), address space, registers and counters. `tombs` are the tombstones of R195, `past` the
removed and changed ranges that uses of an older epoch still translate through (R193), each with the MSEQ of its removal. -/
structure Ctx where
  st : CtxSt
  sof : Bool
  xltBase : Nat
  cbBase : Nat
  cbSize : Nat
  share : Nat
  dmaCq : Nat
  dmaCqLog2 : Nat
  arith : BitVec 5
  cf : CoreFaultReg
  tblBase : BitVec 56
  tblCount : BitVec 13
  ranges : List RangeE
  tombs : List Tomb
  past : List Tomb
  mseq : Word
  floor : Word
  drain : Option DrainSt
  rigDrain : Option RigDrain
  waitRange : List (Nat × Nat)
  xf : XltFault
  migrations : Nat
  direct : Nat
  hand : Nat
  migs : List Migration
  holds : List Hold
  semRev : Bool
  pass : Nat
  coreTime : Word
  yardTime : Word
  energyNj : Nat
  preempts : Word
  commands : Word
  deferredAt : Option Word
  ringProd : Nat
  ringCons : Nat
deriving DecidableEq, Repr

/-- The phase of a fetched command (R307, R311): its turn has come once it is `started`; `ready` is a RUN
that waits for its cores (R331) or a SEQ_SUBMIT that waits for a slot (R338). -/
inductive CmdPhase where
  | fetched
  | started
  | ready
  | executing
  | completed (st : Status)
deriving DecidableEq, Repr

/-- A command the queue block has fetched and whose record is not written (R304, R306): its
submission number, its 64 bytes, its MSEQ stamp, its progress. `xlat` is the MSEQ in force when it
started translation (R191); `parts` counts the pieces of its work still to end; `haltErr` is the stream
error of the lowest LCORE that halted holding one (R95), for a DMA command the status of its lowest descriptor that failed (R318). -/
structure CmdRec where
  n : Nat
  raw : BitVec 512
  stamp : Word
  phase : CmdPhase
  xlat : Option Word
  readyAt : Word
  startAt : Word
  endAt : Word
  wait : Nat
  energyNj : Nat
  aux : BitVec 32
  parts : Nat
  firstErr : Option Status
  haltErr : Option (Nat × Status)
  noReplay : Bool
  replayed : Bool
deriving DecidableEq, Repr

/-- QB_STATUS.STATE. -/
inductive QSt where
  | idle | active | disabling
deriving DecidableEq, Repr

/-- A fence signal that is sequenced and has not taken effect needs no state: signals take effect with
their records (R314). A queue: its registers (09, Queues) and the commands it has fetched; `resetTo` is the tail at
a context reset, below which commands still to be fetched complete with ABORT_CONTEXT_RESET (R429). -/
structure Queue where
  sqBase : Nat
  cqBase : Nat
  ctx : Nat
  log2 : Nat
  vector : Nat
  irqAll : Bool
  tail : BitVec 32
  head : BitVec 32
  cqHead : BitVec 32
  cqTail : BitVec 32
  st : QSt
  overrun : Bool
  cqFull : Bool
  error : BitVec 3
  fn : Option HostFn
  fence : Word
  fenceLow : BitVec 32
  waitTime : Word
  preempts : BitVec 32
  energyUj : Word
  doneCount : Word
  stamps : List (BitVec 32 × Word)
  cmds : List CmdRec
  noRecords : Bool
  resetTo : Option (BitVec 32)
deriving DecidableEq, Repr

/-- An acquire that waits at a semaphore (R317). -/
structure SemWait where
  ctx : Nat
  lc : Nat
  units : Nat
deriving DecidableEq, Repr

/-- A device semaphore (R316, R317). `hold` is the hold limit in µs. -/
structure Sem where
  value : Nat
  max : Nat
  hold : Nat
  ovf : Nat
  waiters : List SemWait
deriving DecidableEq, Repr

/-- Where a DMA descriptor came from (R318): descriptor `k` of a command, or a DMASUB of a core. -/
inductive DmaFrom where
  | command (q n k : Nat)
  | core (lc q n : Nat)
deriving DecidableEq, Repr

/-- The progress of a DMA descriptor. -/
inductive DmaPhase where
  | accepted | running | ended (st : Status)
deriving DecidableEq, Repr

/-- A DMA descriptor held by an engine (R318, R319): its number, its 64 bytes, origin, context, the stamp and epoch of its use (R191), progress, the
32-byte units it has written, the key generation at its start; the 4,096-byte pieces asked of and answered by other
nodes, for the source with their bytes and poison marks, and for the destination. -/
structure DmaDesc where
  id : Nat
  raw : BitVec 512
  from_ : DmaFrom
  ctx : Nat
  stamp : Word
  epoch : Word
  phase : DmaPhase
  units : Nat
  keyGen : BitVec 16
  asked : Nat
  got : List (Nat × List (BitVec 8) × List Bool)
  wasked : Nat
  wgot : Nat
  bad : Option Status
deriving DecidableEq, Repr

/-- A cluster DMA engine: its descriptors in acceptance order, the number of the next one, telltale progress, when it last read a
consumed count (R322). -/
structure DmaEng where
  descs : List DmaDesc
  next : Nat
  progress : Nat
  consRead : Option Word
deriving DecidableEq, Repr

/-- A shared object (R328): its span in local memory, the host reference, and references of ranges. -/
structure SharedObj where
  base : Nat
  pages : Nat
  hostRef : Bool
  refs : Nat
deriving DecidableEq, Repr

/-- The phase of a sequence slot (R339). -/
inductive SeqPhase where
  | prefill | decode | fallback
deriving DecidableEq, Repr

/-- A sequence held by the batch builder (R338, R339). -/
structure Seq where
  slot : Nat
  q : Nat
  n : Nat
  desc : BitVec 56
  hist : Nat
  tokens : Nat
  deadline : Word
  phase : SeqPhase
  events : Nat
  produced : Nat
  starved : Nat
  lateCounted : Bool
  fbRunning : Bool
deriving DecidableEq, Repr

/-- One entry of a step list (R340). -/
structure StepEntry where
  slot : Nat
  chunk : Bool
  start : Nat
  count : Nat
deriving DecidableEq, Repr

/-- The step that runs (R341). -/
structure BatchStep where
  number : Nat
  entries : List StepEntry
  startAt : Word
  status : Option Status
deriving DecidableEq, Repr

/-- A sail: SAIL_STATUS, its mailbox, scheduler, batch builder and event registers (08, 09, 10). `energyHeld` and `coreTimeHeld` are the
counters at the end of the last 1 ms window, `energyPf` and `coreTimePf` what a physical function reads (R374). -/
structure Sail where
  state : BitVec 3
  downCores : List Nat
  rebinds : Nat
  ctxDesc : Nat
  busy : Bool
  ignored : Bool
  status : Status
  resCtx : Nat
  semSel : BitVec 14
  energyNj : Nat
  coreTime : Word
  energyPf : Word
  coreTimePf : Word
  energyHeld : Word
  coreTimeHeld : Word
  quantum : Nat
  chunk : BitVec 8
  stepMax : BitVec 8
  bCtx : BitVec 11
  bCoreFirst : BitVec 12
  bCoreCount : BitVec 12
  bEnable : Bool
  entry : BitVec 56
  fbEntry : BitVec 56
  listBase : BitVec 56
  seqDone : Nat
  seqFallback : Nat
  seqMissed : Nat
  evDegraded : Bool
  evRestored : Bool
  evFallback : Bool
  evVector : BitVec 11
  evIrq : Bool
  evPort : Bool
  reefSel : BitVec 12
  ec : Nat
  et : Nat
  seqs : List Seq
  step : Option BatchStep
  stepNo : Nat
  shared : List (Nat × SharedObj)
  saved : List Saved
  revoked : Bool
  recovering : Bool
deriving DecidableEq, Repr

/-- A reset context (09, Reset columns): FREE, every register and counter 0. -/
def Ctx.empty : Ctx :=
  { st := .free, sof := false, xltBase := 0, cbBase := 0, cbSize := 0, share := 0, dmaCq := 0,
    dmaCqLog2 := 0, arith := 0,
    cf := { cause := 0, lcore := 0, status := 0, valid := false, more := false, pc := 0 },
    tblBase := 0, tblCount := 0, ranges := [], tombs := [], past := [], mseq := 0, floor := 0, drain := none, rigDrain := none,
    waitRange := [],
    xf := { va := 0, cause := 0, access := 0, more := false, valid := false },
    migrations := 0, direct := 0, hand := 0, migs := [], holds := [], semRev := false, pass := 0,
    coreTime := 0, yardTime := 0, energyNj := 0, preempts := 0, commands := 0, deferredAt := none,
    ringProd := 0, ringCons := 0 }

/-- A reset queue (09, Queues, Reset column): IDLE, LOG2 4, everything else 0. -/
def Queue.empty : Queue :=
  { sqBase := 0, cqBase := 0, ctx := 0, log2 := 4, vector := 0, irqAll := false, tail := 0, head := 0,
    cqHead := 0, cqTail := 0, st := .idle, overrun := false, cqFull := false, error := 0, fn := none,
    fence := 0, fenceLow := 0, waitTime := 0, preempts := 0, energyUj := 0, doneCount := 0,
    stamps := [], cmds := [], noRecords := false, resetTo := none }

/-- A semaphore after a swap (R316): VALUE 0, MAX 1, the default hold limit of 200 µs. -/
def Sem.empty : Sem := { value := 0, max := 1, hold := 200, ovf := 0, waiters := [] }

/-- A DMA engine with nothing in flight. -/
def DmaEng.empty : DmaEng := { descs := [], next := 0, progress := 0, consRead := none }

/-- A sail absent from the rig, with the Reset column of its registers (08, 10). -/
def Sail.empty : Sail :=
  { state := 0, downCores := [], rebinds := 0, ctxDesc := 0, busy := false, ignored := false,
    status := .done, resCtx := 0, semSel := 0, energyNj := 0, coreTime := 0, energyPf := 0,
    coreTimePf := 0, energyHeld := 0, coreTimeHeld := 0, quantum := 500, chunk := 8, stepMax := 16, bCtx := 0, bCoreFirst := 0,
    bCoreCount := 0, bEnable := false, entry := 0, fbEntry := 0, listBase := 0, seqDone := 0,
    seqFallback := 0, seqMissed := 0, evDegraded := false, evRestored := false, evFallback := false,
    evVector := 0, evIrq := false, evPort := false, reefSel := 0, ec := 0, et := 0, seqs := [],
    step := none, stepNo := 0, shared := [], saved := [], revoked := false,
    recovering := false }

end Sys2Proof.Machine
end

