-- ==== Sys2Proof/Machine/YardState.lean ====
section
/-! DEFINITION. The state of the yards (04) and of the memory tiers' controllers (06), as plain data.
Choices of the model here: log entry 3 (DESIGN CHOICE), log entry 24 (DESIGN CHOICE). -/

namespace Sys2Proof.Machine

open Sys2Proof

/-- Where a yard request came from (R86, R232): a core's request stream, or the remote engine of a
Ryurun port with the requester's identity. -/
inductive ReqFrom where
  | core (lc tag : Nat) (st : BitVec 4)
  | remote (port src : Nat) (tag : Nat) (tepoch : BitVec 8) (win : Nat) (rKeyGen : BitVec 16)
  | host (q n : Nat)
deriving DecidableEq, Repr

/-- The progress of a yard request: waiting in its entry, waiting for commit-group quota (R121), taken
by a lookup engine, an action handed to its home yard, forwarded to another node (R118), its return ready
and not yet written. -/
inductive ReqPhase where
  | waiting
  | quota
  | engine (e : Nat)
  | action (handle idx : Nat)
  | commit (handle : Nat)
  | remote
  | returned
deriving DecidableEq, Repr

/-- A row or state granule's data as it arrives (R117). -/
structure RowData where
  bytes : List Byte
  poison : Bool
deriving DecidableEq, Repr

/-- A lookup's row (R117): the row index, or none for a padding ID; its address; its group header for
LJ-CB4; whether it has arrived; the data that the home yard read (for LJ-CB4 followed by the
codebook and the row's scale); since when the access timer of R199 has run, later by the time it was paused. -/
structure RowReq where
  row : Option Nat
  va : Nat
  hdrVa : Nat
  arrived : Bool
  data : List Byte
  poison : Bool
  asked : Word
deriving DecidableEq, Repr

/-- A request in flight in a yard (R135): its number, sail, context, the command it belongs to, its
record (R113 to R115), its progress, its rows, how many are combined in bag order, the accumulator; the key generation with which
its rows were translated (R184), and the spans that they cover. -/
structure YReq where
  id : Nat
  sail : Nat
  ctx : Nat
  q : Nat
  n : Nat
  from_ : ReqFrom
  record : List Byte
  phase : ReqPhase
  desc : List Byte
  rows : List RowReq
  comb : Nat
  acc : List Lane
  out : List Byte
  keyGen : BitVec 16
  spans : List (Nat × Nat)
deriving DecidableEq, Repr

/-- A cached descriptor (R110). -/
structure DescEntry where
  ctx : Nat
  index : Nat
  bytes : List Byte
deriving DecidableEq, Repr

/-- A lookup engine: the request it works on, its descriptor cache in order of use, telltale progress. -/
structure Engine where
  cur : Option Nat
  since : Word
  descs : List DescEntry
  progress : Nat
deriving DecidableEq, Repr

/-- A line of the table cache (R102, R103): tag, recently-used bit, the sail, 64 bytes. -/
structure Line where
  tag : Nat
  used : Bool
  sail : Nat
  data : List Byte
deriving DecidableEq, Repr

/-- The per-sail counters of a yard (R139). -/
structure YardCounters where
  reqs : Word
  rows : Word
  hits : Word
  misses : Word
  pads : Word
  actions : Word
  commits : Word
  peak : Word
  conflict : BitVec 16
  logFull : BitVec 16
  expired : BitVec 16
  explicit : BitVec 16
deriving DecidableEq, Repr

/-- An order slot (R202, R203): owner, table, yard registers and the consumed count. -/
structure OrderSlot where
  sail : Nat
  ctx : Nat
  table : Nat
  idw32 : Bool
  raw : Bool
  log2 : Nat
  lead : Nat
  buf : Nat
  prod : Nat
  consumed : Nat
  fetched : Nat
  lastRead : Word
  dropped : Nat
deriving DecidableEq, Repr

/-- The rate register of a channel (YRD_CHAN_RATE, MEM_GCHAN_RATE). -/
structure ChanRate where
  hot : Bool
  fenced : Bool
  changed : Bool
  lastLoss : Option Word
deriving DecidableEq, Repr

/-- The place of a record in an intent log (R127): offset, length, the handle and generation of its group. -/
structure LogSlot where
  off : Nat
  len : Nat
  handle : Nat
  gen : BitVec 16
deriving DecidableEq, Repr

/-- A yard (04). `gen` holds the update generators at key 64 × engine + sail (R134); `logRecs` the records of each sail's intent log
whose space is not reclaimed (R127), `logHead` where the next one goes; `locks` one more than the handle by row, `waits` the actions that
wait for a lock, in the order in which they came (R125). -/
structure Yard where
  reqs : List YReq
  nextReq : Nat
  eng : Tbl Engine
  updProgress : Tbl Nat
  gen : Tbl Lane
  cache : Tbl Line
  cnt : Tbl YardCounters
  orders : Tbl OrderSlot
  logRecs : Tbl (List LogSlot)
  logHead : Tbl Nat
  locks : Tbl Nat
  waits : List (Nat × Nat)
  sailSel : BitVec 6
deriving DecidableEq, Repr

/-- The states of a commit group (R123). -/
inductive GroupSt where
  | free | open_ | doomed | committed | aborted
deriving DecidableEq, Repr

/-- The first cause that doomed or ended a group (R139). -/
inductive DoomCause where
  | conflict | logFull | expired | explicit | other
deriving DecidableEq, Repr

/-- The progress of an update action (R124, R125). -/
inductive ActSt where
  | forwarded | waitLock | logged | durable | padding | failed | applied
deriving DecidableEq, Repr

/-- An update action of a group (R124): the request it answers, the row, addresses, home yard, the
staged row and state, and the key generation of its translation (R184). -/
structure Action where
  idx : Nat
  req : Nat
  row : Nat
  rowVa : Nat
  rowLpa : Nat
  stateVa : Nat
  stateLpa : Nat
  home : Nat
  newRow : List Byte
  newState : List Byte
  logBytes : Nat
  keyGen : BitVec 16
  st : ActSt
deriving DecidableEq, Repr

/-- A commit group (R121 to R124), by handle; `stamp` and `epoch` are those of the use that began it (R192). -/
structure Group where
  gen : BitVec 16
  st : GroupSt
  ctx : Nat
  sail : Nat
  q : Nat
  n : Nat
  stamp : Word
  epoch : Word
  coord : Nat
  begun : Word
  expiries : Nat
  cause : Option DoomCause
  ended : Bool
  byTimer : Bool
  commitReq : Option Nat
  commitTime : Word
  actions : List Action
deriving DecidableEq, Repr

/-- A CXL port (R179 to R181) and its expanders (first segment, count); `up` until its link is lost. -/
structure CxlPort where
  linkUp : Bool
  fenced : Bool
  changed : Bool
  up : Bool
  segments : Nat
  expanders : List (Nat × Nat)
  lastLoss : Option Word
deriving DecidableEq, Repr

/-- A REEF guarantee's running state (R346): credit of the window, bytes served, late requests. -/
structure ReefState where
  credit : Nat
  bytes : Word
  late : Word
deriving DecidableEq, Repr

/-- Background work of an activity that no window has had room for (R137): in ns or cycles, and since when some is carried over. -/
structure BgWork where
  left : Nat
  since : Option Word
deriving DecidableEq, Repr

/-- An entry of a range cache (R190): a range of a context, by its VSTART. -/
structure RangeRef where
  ctx : Nat
  vstart : Nat
deriving DecidableEq, Repr

/-- The memory tiers: the spans of keys [lo, hi) whose contents have been lost, erased or left undefined since, each with the
number of its loss; poison marks by granule; stale counters; ports, channels and reefs; the last 10 µs window by unit; background work carried over at key 16 × unit + activity.
`rcache` holds the range caches (R190) at key 64 × unit + sail, least recently used first, the yards as units 0 to 15 and the masts as 16 to 23;
`late` the accesses whose timer has expired and whose response is to be dropped, `lateDrops` how many were (R199); `maps` the words of page maps
and dirty bitmaps that this device has written in the memory of other nodes, by global address. -/
structure MemSt where
  lost : List (Nat × Nat × Nat)
  poison : Tbl Bool
  staleWrites : BitVec 32
  staleReads : BitVec 32
  cxl : Vector CxlPort 2
  chan : Tbl ChanRate
  gchan : Tbl ChanRate
  reef : Tbl ReefState
  budget : Tbl Nat
  work : Tbl BgWork
  rcache : Tbl (List RangeRef)
  late : List AccessRef
  lateDrops : Nat
  maps : Tbl Nat
deriving DecidableEq, Repr

def Engine.empty : Engine := { cur := none, since := 0, descs := [], progress := 0 }

def YardCounters.zero : YardCounters :=
  { reqs := 0, rows := 0, hits := 0, misses := 0, pads := 0, actions := 0, commits := 0, peak := 0,
    conflict := 0, logFull := 0, expired := 0, explicit := 0 }

def ChanRate.reset : ChanRate := { hot := false, fenced := false, changed := false, lastLoss := none }

def OrderSlot.empty : OrderSlot :=
  { sail := 0, ctx := 0, table := 0, idw32 := false, raw := false, log2 := 0, lead := 0, buf := 0,
    prod := 0, consumed := 0, fetched := 0, lastRead := 0, dropped := 0 }

def Line.empty : Line := { tag := 0, used := false, sail := 0, data := [] }

def Group.empty : Group :=
  { gen := 0, st := .free, ctx := 0, sail := 0, q := 0, n := 0, stamp := 0, epoch := 0, coord := 0, begun := 0, expiries := 0,
    cause := none, ended := false, byTimer := false, commitReq := none, commitTime := 0, actions := [] }

def Yard.empty : Yard :=
  { reqs := [], nextReq := 0, eng := [], updProgress := [], gen := [], cache := [], cnt := [],
    orders := [], logRecs := [], logHead := [], locks := [], waits := [], sailSel := 0 }

def CxlPort.reset : CxlPort :=
  { linkUp := false, fenced := false, changed := false, up := true, segments := 0, expanders := [],
    lastLoss := none }

def BgWork.none : BgWork := { left := 0, since := .none }

def ReefState.zero : ReefState := { credit := 0, bytes := 0, late := 0 }

def MemSt.reset : MemSt :=
  { lost := [], poison := [], staleWrites := 0, staleReads := 0,
    cxl := Vector.replicate 2 CxlPort.reset, chan := [], gchan := [], reef := [], budget := [], work := [], rcache := [],
    late := [], lateDrops := 0, maps := [] }

end Sys2Proof.Machine
end

