-- ==== Sys2Proof/Machine/State.lean ====
section
/-! DEFINITION. The state of the block as plain data, its faults and refusals, and the state right
after reset.
Choices of the model here: log entry 3 (DESIGN CHOICE), log entry 10 (DESIGN CHOICE). -/

namespace Sys2Proof.Machine

open Sys2Proof

/-- The reasons the block could stop with a fault. No command stops the block: the spec gives every
event an outcome in the state (R92, R119, R313, R406). -/
inductive Fault where
  /-- An access outside the 48-bit address space of R171; no command raises it (safe). -/
  | absentAddress (a : Nat)
deriving DecidableEq, Repr

/-- The reasons the block refuses a command. -/
inductive Refusal where
  /-- Raised by an arm of `exec` whose command has no meaning yet; no arm is left so (safe). -/
  | notModelled (mnemonic : String)
deriving DecidableEq, Repr

/-- The block: the queue of commands, the global time counter (R5), the number of free values drawn,
memory by address (R171; host memory lies in the host windows, scratchpads above 2^48 by physical core),
logical cores at key 34 × cluster + core, contexts, queues, device semaphores, DMA engines at key
4 × cluster + engine, sails, yards, commit groups by handle, and the units of chapters 5 to 15. -/
structure State where
  pending : List Instr
  time : Word
  free : Nat
  mem : List Host.Cell
  cores : Tbl CoreSlot
  ctxs : Tbl Ctx
  queues : Tbl Queue
  sems : Tbl Sem
  dma : Tbl DmaEng
  sails : Tbl Sail
  yards : Tbl Yard
  groups : Tbl Group
  tiers : MemSt
  mesh : MeshSt
  rig : RigSt
  ryu : RyuSt
  sec : SecSt
  rst : RstSt
  ttl : TtlSt
  pwr : PwrSt
  hif : HifSt
deriving DecidableEq, Repr

/-- The block right after power-on, before any command: every register at its Reset column, no rig, the
mesh on the boot schedule, memory with nothing listed. -/
def State.reset : State :=
  { pending := [], time := 0, free := 0, mem := [], cores := [], ctxs := [], queues := [], sems := [],
    dma := [], sails := [], yards := [], groups := [], tiers := MemSt.reset, mesh := MeshSt.reset,
    rig := RigSt.reset, ryu := RyuSt.reset, sec := SecSt.reset, rst := RstSt.reset, ttl := TtlSt.reset,
    pwr := PwrSt.reset, hif := HifSt.reset }

end Sys2Proof.Machine
end

