-- ==== Sys2Proof/Machine/Mem.lean ====
section
/-! DEFINITION. Memory: the local physical map (R171, R173), what an address that nothing has written
reads as, byte, word and block accesses, and poison marks (R55, R174, R186).
Choices of the model here: log entry 4 (DESIGN CHOICE), log entry 12 (DESIGN CHOICE), log entry 13 (DEDUCED),
log entry 66 (DESIGN CHOICE). -/

namespace Sys2Proof.Machine

open Sys2Proof

/-! ### The local physical map -/

/-- The regions of R171, with the parts of the SRAM window of R173. -/
inductive Region where
  | dram (chan : Nat)
  | gddr (chan : Nat)
  | spad (cluster core off : Nat)
  | cbuf (cluster : Nat)
  | far (seg : Nat)
  | host (port : Nat)
deriving DecidableEq, Repr

def dramEnd : Nat := 0x001000000000
def gddrBase : Nat := 0x001000000000
def gddrEnd : Nat := 0x002000000000
def sramBase : Nat := 0x002000000000
def cbufBase : Nat := 0x002080000000
def sramEnd : Nat := 0x002100000000
def farBase : Nat := 0x010000000000
def farEnd : Nat := 0x050000000000
def hostBase : Nat := 0x800000000000
def hostMid : Nat := 0xC00000000000
def hostEnd : Nat := 0x1000000000000

/-- The region of a local physical address; none where R171 and R173 populate nothing. -/
def regionOf (a : Nat) : Option Region :=
  if a < dramEnd then some (.dram (a / 2 ^ 29))
  else if a < gddrEnd then some (.gddr ((a - gddrBase) / 2 ^ 30))
  else if a < cbufBase then
    let o := a - sramBase
    let n := o / 0x2000000
    let r := o % 0x2000000
    if r < 34 * 0x80000 then some (.spad n (r / 0x80000) (r % 0x80000)) else none
  else if a < sramEnd then
    if a < cbufBase + 64 * 0x400000 then some (.cbuf ((a - cbufBase) / 0x400000)) else none
  else if farBase ≤ a && a < farEnd then some (.far ((a - farBase) / 2 ^ 30))
  else if hostBase ≤ a && a < hostMid then some (.host 0)
  else if hostMid ≤ a && a < hostEnd then some (.host 1)
  else none

/-- The first memory key of a physical core's scratchpad. -/
def spadKey (phys : Nat) : Nat := 2 ^ 48 + phys * 2 ^ 19

/-- The physical core (36 × cluster + number in the cluster) of a logical core under the active rig. -/
def physOf (s : State) (cluster core : Nat) : Option Nat :=
  match s.rig.active with
  | none => none
  | some r =>
    match Tbl.look r.cores cluster with
    | none => none
    | some m => (m.phys[core]?).map (fun p => 36 * cluster + p)

/-- Whether a far segment is backed by an expander (R180). -/
def farPopulated (s : State) (seg : Nat) : Bool :=
  if seg < 2048 then decide (seg < s.tiers.cxl[0].segments)
  else decide (seg - 2048 < s.tiers.cxl[1].segments)

/-- The memory key of a local physical address; none where the map is unpopulated. Scratchpad apertures
reach the physical core that the active rig maps (R173). -/
def memKey (s : State) (a : Nat) : Option Nat :=
  match regionOf a with
  | none => none
  | some (.spad n k o) => (physOf s n k).map (fun p => spadKey p + o)
  | some (.far g) => if farPopulated s g then some a else none
  | some _ => some a

/-! ### Bytes -/

/-- The number of the last loss of the contents that hold a key, 0 for none. -/
def epochOf (s : State) (k : Nat) : Nat :=
  ((s.tiers.lost.find? (fun x => decide (x.1 ≤ k) && decide (k < x.2.1))).map (fun x => x.2.2)).getD 0

/-- What a byte that nothing has written reads as: zero, or a free value once its contents have been
lost, erased or left undefined. -/
def background (s : State) (k : Nat) : Byte :=
  if epochOf s k = 0 then 0 else Config.lostByte (epochOf s k) k

/-- One byte. -/
def readB (s : State) (k : Nat) : Byte := Tbl.get (background s k) s.mem k

/-- Write one byte, keeping the canonical form. -/
def writeB (s : State) (k : Nat) (v : Byte) : State :=
  { s with mem := Tbl.set (background s k) s.mem k v }

/-- `n` bytes from key `k` upward. -/
def readBytes (s : State) (k : Nat) : Nat → List Byte
  | 0 => []
  | n + 1 => readB s k :: readBytes s (k + 1) n

/-- Write bytes from key `k` upward. -/
def writeBytes (s : State) (k : Nat) : List Byte → State
  | [] => s
  | b :: t => writeBytes (writeB s k b) (k + 1) t

/-- Little-endian value of bytes. -/
def leNat : List Byte → Nat
  | [] => 0
  | b :: t => b.toNat + 256 * leNat t

/-- The low `n` bytes of a number, little-endian. -/
def leBytes : Nat → Nat → List Byte
  | 0, _ => []
  | n + 1, v => BitVec.ofNat 8 v :: leBytes n (v / 256)

def readNat (s : State) (k n : Nat) : Nat := leNat (readBytes s k n)

/-! ### Poison -/

/-- Granules are 32 bytes in a scratchpad (R55) and 64 bytes elsewhere (R174, R186). -/
def granule (k : Nat) : Nat := if k ≥ 2 ^ 48 then 32 else 64

/-- The bases of the granules that `n` bytes at key `k` touch. -/
def granules (k n : Nat) : List Nat :=
  let g := granule k
  let b := k / g * g
  if n = 0 then [] else (List.range ((k + n - 1 - b) / g + 1)).map (fun i => b + g * i)

def isPoison (s : State) (g : Nat) : Bool := s.tiers.poison.get false g

def anyPoison (s : State) (k n : Nat) : Bool := (granules k n).any (isPoison s)

def setPoison (s : State) (g : Nat) (b : Bool) : State :=
  { s with tiers := { s.tiers with poison := s.tiers.poison.set false g b } }

/-- The marks a write of `n` bytes at `k` leaves (R55, R186): a whole granule written is clean, or
poisoned when the data is; a granule written in part stays as it was, or becomes poisoned when the data
is. -/
def markWrite (s : State) (k n : Nat) (poison : Bool) : State :=
  (granules k n).foldl (fun s g =>
    if poison then setPoison s g true
    else if k ≤ g && g + granule k ≤ k + n then setPoison s g false else s) s

/-- Write data with its poison marks. -/
def store (s : State) (k : Nat) (l : List Byte) (poison : Bool := false) : State :=
  markWrite (writeBytes s k l) k l.length poison

/-- Poison the granules of `n` bytes at `k` and leave the bytes as they are. -/
def poisonSpan (s : State) (k n : Nat) : State :=
  (granules k n).foldl (fun s g => setPoison s g true) s

/-- The poison marks of a span by units of 32 bytes, as Ryurun frames carry them (R231). -/
def unitMarks (s : State) (k n : Nat) : List Bool := (List.range (n / 32)).map (fun i => anyPoison s (k + 32 * i) 32)

/-- Write data and poison the units that are marked. -/
def storeMarked (s : State) (k : Nat) (l : List Byte) (marks : List Bool) : State :=
  marks.zipIdx.foldl (fun s m => if m.1 then poisonSpan s (k + 32 * m.2) 32 else s) (store s k l)

/-- What is left of the spans of lost contents outside [k, k + n). -/
def cutLost (k n : Nat) (l : List (Nat × Nat × Nat)) : List (Nat × Nat × Nat) :=
  l.flatMap (fun x =>
    (if x.1 < min x.2.1 k then [(x.1, min x.2.1 k, x.2.2)] else []) ++
      (if max x.1 (k + n) < x.2.1 then [(max x.1 (k + n), x.2.1, x.2.2)] else []))

/-- Write zeros to [k, k + n) and clear its marks. -/
def clearSpan (s : State) (k n : Nat) : State :=
  { s with
    mem := s.mem.filter (fun c => c.1 < k || k + n ≤ c.1)
    tiers := { s.tiers with
      lost := cutLost k n s.tiers.lost
      poison := s.tiers.poison.filter (fun c => c.1 < k || k + n ≤ c.1) } }

/-- The contents of [k, k + n) become free values; poison marks stay. -/
def loseSpan (s : State) (k n : Nat) : State :=
  { s with
    free := s.free + 1
    mem := s.mem.filter (fun c => c.1 < k || k + n ≤ c.1)
    tiers := { s.tiers with lost := (k, k + n, s.free + 1) :: cutLost k n s.tiers.lost } }

/-- The XTS tweak of the granule that holds a key (R183): bits [47:6] of its local physical address. -/
def xtsTweak (k : Nat) : BitVec 128 := BitVec.ofNat 128 (k % 2 ^ 48 / 64)

/-- What a memory device holds of the granule at `g` under memory key number `key` (R183): its bytes under AES-256-XTS. The model keeps the
plaintext that the owner's key gives back. -/
def storedGranule (s : State) (key g : Nat) : List Byte := Config.xtsSeal key (xtsTweak g) (readBytes s g 64)

/-- Write a DRAM channel with zeros (R106). -/
def zeroDram (s : State) (c : Nat) : State := clearSpan s (c * 2 ^ 29) (2 ^ 29)

/-- Write a GDDR7 channel with zeros (R185). -/
def zeroGddr (s : State) (c : Nat) : State := clearSpan s (gddrBase + c * 2 ^ 30) (2 ^ 30)

/-- Write a far segment with zeros (R185). -/
def zeroFar (s : State) (g : Nat) : State := clearSpan s (farBase + g * 2 ^ 30) (2 ^ 30)

/-- Cryptographic erase of a far segment: its bytes decrypt to something that reveals nothing, and its
poison marks stay (R185, R371). -/
def eraseFar (s : State) (g : Nat) : State := loseSpan s (farBase + g * 2 ^ 30) (2 ^ 30)

/-- In-package DRAM and GDDR7 lose their contents (R385). -/
def losePackage (s : State) : State :=
  let t := loseSpan s 0 gddrEnd
  { t with tiers := { t.tiers with poison := t.tiers.poison.filter (fun c => gddrEnd ≤ c.1) } }

/-- Zero a physical core's scratchpad. -/
def zeroSpad (s : State) (phys : Nat) : State := clearSpan s (spadKey phys) (2 ^ 19)

/-- Zero a cluster buffer. -/
def zeroCbuf (s : State) (n : Nat) : State := clearSpan s (cbufBase + n * 0x400000) 0x400000

/-- The canonical form of memory over the state's background: strictly rising keys, no entry equal to
what an unlisted key reads as. -/
def memWfFrom (bg : Nat → Byte) : List Host.Cell → Bool
  | [] => true
  | [(a, v)] => v != bg a
  | (a, v) :: (b, w) :: t => decide (a < b) && v != bg a && memWfFrom bg ((b, w) :: t)

/-- Memory is in canonical form. -/
def Memory.wf (s : State) : Bool := memWfFrom (background s) s.mem

end Sys2Proof.Machine
end

