-- ==== Sys2Proof/Machine/Hss.lean ====
section
/-! DEFINITION. Verification of HSS, LMS and LM-OTS signatures with the parameter sets of R270 (RFC 8554): SHA-256 with 32-byte
hashes, one or two levels, heights 5 to 25, Winternitz parameters 1, 2, 4 and 8. SHA-256 itself is the constant of Config
(log entry 7).
Choices of the model here: log entry 7 (DESIGN CHOICE). -/

namespace Sys2Proof.Machine

open Sys2Proof

/-- The 32 bytes of a SHA-256 hash. -/
def shaBytes (l : List Byte) : List Byte := leBytes 32 (Config.sha256 l).toNat

/-- A number as `n` bytes, most significant first (RFC 8554, u32str and u16str). -/
def beBytes (n v : Nat) : List Byte := (leBytes n v).reverse

/-- The number that bytes spell, most significant first. -/
def beNat (l : List Byte) : Nat := leNat l.reverse

/-- `n` bytes of a list from offset `o`. -/
def slice (l : List Byte) (o n : Nat) : List Byte := (l.drop o).take n

/-- A set of LM-OTS parameters: Winternitz parameter, number of chains, shift of the checksum. -/
structure OtsParams where
  w : Nat
  p : Nat
  ls : Nat
deriving DecidableEq, Repr

/-- LMOTS_SHA256_N32_W1 to W8 by type code; no other set is supported (R270). -/
def otsParams (ty : Nat) : Option OtsParams :=
  match ty with
  | 1 => some { w := 1, p := 265, ls := 7 }
  | 2 => some { w := 2, p := 133, ls := 6 }
  | 3 => some { w := 4, p := 67, ls := 4 }
  | 4 => some { w := 8, p := 34, ls := 0 }
  | _ => none

/-- LMS_SHA256_M32_H5 to H25 by type code: the height of the tree (R270). -/
def lmsHeight (ty : Nat) : Option Nat :=
  match ty with
  | 5 => some 5 | 6 => some 10 | 7 => some 15 | 8 => some 20 | 9 => some 25
  | _ => none

/-- Digit `i` of width `w` of a byte string. -/
def otsCoef (l : List Byte) (i w : Nat) : Nat :=
  (l.getD (i * w / 8) 0).toNat >>> (8 - (w * (i % (8 / w)) + w)) % 2 ^ w

/-- The checksum of a hash. -/
def otsChecksum (o : OtsParams) (q : List Byte) : Nat :=
  ((List.range (256 / o.w)).map (fun i => 2 ^ o.w - 1 - otsCoef q i o.w)).sum <<< o.ls % 2 ^ 16

/-- What binds a hash to a key pair, its leaf and its place. -/
def lmsPrefix (id : List Byte) (q d : Nat) : List Byte := id ++ beBytes 4 q ++ beBytes 2 d

/-- The rest of a Winternitz chain from digit `a` on. -/
def otsChain (o : OtsParams) (id : List Byte) (q i a : Nat) (y : List Byte) : List Byte :=
  (List.range (2 ^ o.w - 1 - a)).foldl (fun t j => shaBytes (lmsPrefix id q i ++ beBytes 1 (a + j) ++ t)) y

/-- The LM-OTS public key that a signature over a message gives. -/
def otsCandidate (o : OtsParams) (id : List Byte) (q : Nat) (sig msg : List Byte) : List Byte :=
  let h := shaBytes (lmsPrefix id q 0x8181 ++ slice sig 4 32 ++ msg)
  let digits := h ++ beBytes 2 (otsChecksum o h)
  shaBytes (lmsPrefix id q 0x8080 ++ (List.range o.p).flatMap (fun i =>
    otsChain o id q i (otsCoef digits i o.w) (slice sig (36 + 32 * i) 32)))

/-- The root that a leaf's hash and its path give. -/
def lmsRoot (id : List Byte) (path : List Byte) : Nat → Nat → List Byte → List Byte
  | 0, _, t => t
  | f + 1, node, t =>
    let i := path.length / 32 - (f + 1)
    let sib := slice path (32 * i) 32
    let both := if node % 2 = 1 then sib ++ t else t ++ sib
    lmsRoot id path f (node / 2) (shaBytes (lmsPrefix id (node / 2) 0x8383 ++ both))

/-- The length of an LMS signature under a public key. -/
def lmsSigLen (o : OtsParams) (h : Nat) : Nat := 4 + (4 + 32 * (o.p + 1)) + 4 + 32 * h

/-- Whether an LMS signature over a message verifies under a 56-byte LMS public key. -/
def lmsVerify (pub msg sig : List Byte) : Bool :=
  match lmsHeight (beNat (slice pub 0 4)), otsParams (beNat (slice pub 4 4)) with
  | some h, some o =>
    let id := slice pub 8 16
    let q := beNat (slice sig 0 4)
    let n := 4 + 32 * (o.p + 1)
    let path := slice sig (8 + n) (32 * h)
    pub.length == 56 && sig.length == lmsSigLen o h && decide (q < 2 ^ h) &&
    slice sig 4 4 == slice pub 4 4 && slice sig (4 + n) 4 == slice pub 0 4 &&
    lmsRoot id path h (2 ^ h + q) (shaBytes (lmsPrefix id (2 ^ h + q) 0x8282 ++ otsCandidate o id q (slice sig 4 n) msg)) ==
      slice pub 24 32
  | _, _ => false

/-- The length of the LMS signatures of a public key. -/
def lmsLen (pub : List Byte) : Nat :=
  match lmsHeight (beNat (slice pub 0 4)), otsParams (beNat (slice pub 4 4)) with
  | some h, some o => lmsSigLen o h
  | _, _ => 0

/-- Whether an HSS signature over a message verifies under a 60-byte HSS public key of one or two levels (R270). -/
def hssVerify (pub msg sig : List Byte) : Bool :=
  let top := slice pub 4 56
  let levels := beNat (slice pub 0 4)
  let n := lmsLen top
  if pub.length ≠ 60 || beNat (slice sig 0 4) + 1 ≠ levels then false
  else if levels = 1 then lmsVerify top msg (sig.drop 4)
  else if levels = 2 then
    let below := slice sig (4 + n) 56
    lmsVerify top below (slice sig 4 n) && lmsVerify below msg (sig.drop (60 + n))
  else false

/-- The length that the HSS signature at the head of some bytes has under a public key. -/
def hssSigLen (pub l : List Byte) : Nat :=
  let n := lmsLen (slice pub 4 56)
  if beNat (slice pub 0 4) = 2 then 60 + n + lmsLen (slice l (4 + n) 56) else 4 + n

/-- Whether the HSS signature at the head of some bytes verifies. -/
def hssCheck (pub msg l : List Byte) : Bool := hssVerify pub msg (l.take (hssSigLen pub l))

end Sys2Proof.Machine
end

