-- ==== Sys2Proof/Machine/Crc.lean ====
section
/-! DEFINITION. The cyclic redundancy checks of the spec (R128, R144, R221).
Choices of the model here: log entry 20 (DESIGN CHOICE). -/

namespace Sys2Proof.Machine

open Sys2Proof

/-- One bit of CRC-32 (IEEE 802.3), least significant bit first. -/
def crc32Bit (c : BitVec 32) : BitVec 32 := if c.getLsbD 0 then (c >>> 1) ^^^ 0xEDB88320#32 else c >>> 1

/-- One byte of CRC-32. -/
def crc32Byte (c : BitVec 32) (b : BitVec 8) : BitVec 32 :=
  let c := c ^^^ b.zeroExtend 32
  crc32Bit (crc32Bit (crc32Bit (crc32Bit (crc32Bit (crc32Bit (crc32Bit (crc32Bit c)))))))

/-- CRC-32 (IEEE 802.3) of bytes. -/
def crc32 (l : List (BitVec 8)) : BitVec 32 := ~~~ (l.foldl crc32Byte 0xFFFFFFFF#32)

/-- One bit of CRC-16 with polynomial 0x1021, most significant bit first. -/
def crc16Bit (c : BitVec 16) : BitVec 16 := if c.getLsbD 15 then (c <<< 1) ^^^ 0x1021#16 else c <<< 1

/-- One byte of CRC-16. -/
def crc16Byte (c : BitVec 16) (b : BitVec 8) : BitVec 16 :=
  let c := c ^^^ (b.zeroExtend 16 <<< 8)
  crc16Bit (crc16Bit (crc16Bit (crc16Bit (crc16Bit (crc16Bit (crc16Bit (crc16Bit c)))))))

/-- CRC-16 (polynomial 0x1021, initial value 0xFFFF) of bytes. -/
def crc16 (l : List (BitVec 8)) : BitVec 16 := l.foldl crc16Byte 0xFFFF#16

/-- Bits [47:0] of a frame header (R144). -/
def Frame.header (f : Frame) : Nat :=
  f.sail.toNat + 2 ^ 6 * f.srcTag.toNat + (if f.first then 2 ^ 18 else 0) + (if f.last then 2 ^ 19 else 0) +
    (if f.poison then 2 ^ 20 else 0) + (if f.half then 2 ^ 21 else 0)

/-- The CRC of a frame (R144): over header bits [47:0] and all 64 payload bytes. -/
def Frame.sum (f : Frame) : BitVec 16 := crc16 (leBytes 6 f.header ++ (f.payload ++ List.replicate 64 0).take 64)

/-- A frame with its CRC. -/
def Frame.sealed (f : Frame) : Frame := { f with crc := f.sum }

end Sys2Proof.Machine
end

