-- ==== Sys2Proof/Machine/Num.lean ====
section
/-! DEFINITION. Number formats and exact arithmetic (02_number_formats_and_arithmetic, R16 to R48):
values are exact dyadic numbers, every operation forms its exact result and rounds it once.
Choices of the model here: log entry 14 (DEDUCED), log entry 15 (DEDUCED). -/

namespace Sys2Proof.Machine

open Sys2Proof

/-- The format codes of R16 that name a format. -/
inductive Fmt where
  | fp32 | bf16 | e4m3 | e5m2 | e2m1 | mx4 | mx5 | mxfp4 | mxint8 | int8 | int4 | int2 | bp1 | bp2 | int32
deriving DecidableEq, Repr

/-- R16: the format of a 4-bit code; 0xF is reserved. -/
def Fmt.ofCode (c : BitVec 4) : Option Fmt :=
  match c.toNat with
  | 0 => some .fp32 | 1 => some .bf16 | 2 => some .e4m3 | 3 => some .e5m2 | 4 => some .e2m1
  | 5 => some .mx4 | 6 => some .mx5 | 7 => some .mxfp4 | 8 => some .mxint8 | 9 => some .int8
  | 10 => some .int4 | 11 => some .int2 | 12 => some .bp1 | 13 => some .bp2 | 14 => some .int32
  | _ => none

/-- The element width in bits (R16); a bit-plane format has 1 bit per plane. -/
def Fmt.width : Fmt → Nat
  | .fp32 => 32 | .bf16 => 16 | .e4m3 => 8 | .e5m2 => 8 | .e2m1 => 4 | .mx4 => 8 | .mx5 => 8
  | .mxfp4 => 4 | .mxint8 => 8 | .int8 => 8 | .int4 => 4 | .int2 => 2 | .bp1 => 1 | .bp2 => 1
  | .int32 => 32

/-- The MX formats, codes 0x5 to 0x8. -/
def Fmt.isMx : Fmt → Bool
  | .mx4 => true | .mx5 => true | .mxfp4 => true | .mxint8 => true | _ => false

/-- The plain floating-point formats. -/
def Fmt.isFloat : Fmt → Bool
  | .fp32 => true | .bf16 => true | .e4m3 => true | .e5m2 => true | .e2m1 => true | _ => false

/-- INT8, INT4 and INT2. -/
def Fmt.isSmallInt : Fmt → Bool
  | .int8 => true | .int4 => true | .int2 => true | _ => false

/-- A floating-point layout (R17): mantissa bits, exponent of the smallest subnormal, exponent field
width, and the largest finite value as mantissa and exponent. -/
structure Layout where
  mb : Nat
  eb : Nat
  qmin : Int
  maxM : Nat
  maxQ : Int
deriving DecidableEq, Repr

/-- R17. The largest finite value is maxM × 2^maxQ. -/
def Fmt.layout : Fmt → Layout
  | .bf16 => ⟨7, 8, -133, 255, 120⟩
  | .e4m3 => ⟨3, 4, -9, 14, 5⟩
  | .e5m2 => ⟨2, 5, -16, 7, 13⟩
  | .e2m1 => ⟨1, 2, -1, 3, 1⟩
  | _ => ⟨23, 8, -149, 16777215, 104⟩

/-- An exact value: NaN, a signed infinity, or ± m × 2^e. A zero has m = 0 and keeps its sign (R21). -/
inductive Val where
  | nan
  | inf (neg : Bool)
  | fin (neg : Bool) (m : Nat) (e : Int)
deriving DecidableEq, Repr

/-- The arithmetic flags of R48 as bits [4:0] of CTX_ARITH_STATUS (R49). -/
def fNV : BitVec 5 := 1
def fDZ : BitVec 5 := 2
def fOF : BitVec 5 := 4
def fUF : BitVec 5 := 8
def fIS : BitVec 5 := 16

/-- m × 2^k for k ≥ 0, floor of m / 2^-k for k < 0. -/
def shiftI (m : Nat) (k : Int) : Nat := if k ≥ 0 then m <<< k.toNat else m >>> (-k).toNat

/-- The signed magnitude as an integer. -/
def signed (neg : Bool) (m : Nat) : Int := if neg then -(m : Int) else (m : Int)

/-! ### Decoding (R17, R18, R22) -/

/-- The value of a floating-point encoding of layout `l`, with the specials of R18. -/
def decodeFloat (f : Fmt) (bits : Nat) : Val :=
  let l := f.layout
  let m := bits % 2 ^ l.mb
  let e := (bits >>> l.mb) % 2 ^ l.eb
  let neg := (bits >>> (l.mb + l.eb)) % 2 == 1
  let normal := if e = 0 then Val.fin neg m l.qmin else Val.fin neg (m + 2 ^ l.mb) (l.qmin + (e : Int) - 1)
  match f with
  | .e2m1 => normal
  | .e4m3 => if e = 15 && m = 7 then .nan else normal
  | _ => if e = 2 ^ l.eb - 1 then (if m = 0 then .inf neg else .nan) else normal

/-- A two's complement integer of `w` bits (R22). -/
def decodeInt (w bits : Nat) : Int :=
  let b := bits % 2 ^ w
  if b < 2 ^ (w - 1) then (b : Int) else (b : Int) - (2 ^ w : Nat)

/-- The exact value of an integer. An integer has no negative zero (R21). -/
def Val.ofInt (v : Int) : Val := .fin (v < 0) v.natAbs 0

/-- The value of an element of any format; a BP1 bit is ±1 and an element of a BP2 operand is read as
INT2 (R22); an MXINT8 code c stands for c × 2^-6 (R26). -/
def decodeElem (f : Fmt) (bits : Nat) : Val :=
  match f with
  | .mx4 => decodeFloat .e4m3 bits
  | .mx5 => decodeFloat .e5m2 bits
  | .mxfp4 => decodeFloat .e2m1 bits
  | .mxint8 => match Val.ofInt (decodeInt 8 bits) with
    | .fin n m _ => .fin n m (-6)
    | v => v
  | .int8 => .ofInt (decodeInt 8 bits)
  | .int4 => .ofInt (decodeInt 4 bits)
  | .int2 => .ofInt (decodeInt 2 bits)
  | .bp2 => .ofInt (decodeInt 2 bits)
  | .bp1 => .ofInt (if bits % 2 = 1 then 1 else -1)
  | .int32 => .ofInt (decodeInt 32 bits)
  | _ => decodeFloat f bits

/-! ### Rounding (R39, R40) -/

/-- Rounding modes: RNE, RTZ, and SR with its rounding word r (R40). -/
inductive Rnd where
  | rne
  | rtz
  | sr (r : Nat)
deriving DecidableEq, Repr

/-- Round m × 2^e (plus something below one unit of 2^e when `sticky`) to a multiple of 2^q, as a
multiple of 2^q. Under SR the first 16 discarded bits are compared with r (R40). -/
def roundAt (rm : Rnd) (m : Nat) (e q : Int) (sticky : Bool) : Nat :=
  if q ≤ e then m <<< (e - q).toNat
  else
    let k := (q - e).toNat
    let t := m >>> k
    let rem := m % 2 ^ k
    match rm with
    | .rtz => t
    | .sr r =>
      let d := if k ≥ 16 then rem >>> (k - 16) else rem <<< (16 - k)
      if d + r ≥ 65536 then t + 1 else t
    | .rne =>
      let half := 2 ^ (k - 1)
      if rem > half || (rem = half && (sticky || t % 2 = 1)) then t + 1 else t

/-- The exponent of the last place that a value m × 2^e keeps in a layout; subnormals share qmin. -/
def lastPlace (l : Layout) (m : Nat) (e : Int) : Int :=
  max ((m.log2 : Int) + e - (l.mb : Int)) l.qmin

/-- Whether m × 2^q lies above the largest finite value of the layout. -/
def beyond (l : Layout) (m : Nat) (q : Int) : Bool :=
  if q ≥ l.maxQ then decide (m <<< (q - l.maxQ).toNat > l.maxM)
  else decide (m > l.maxM <<< (l.maxQ - q).toNat)

/-- The encoding of ± m × 2^q, a value of the layout, with m < 2^(mb+1) or m = 2^(mb+1). -/
def encodeMag (l : Layout) (neg : Bool) (m : Nat) (q : Int) : Nat :=
  let mag := if m = 0 then 0 else (q - l.qmin).toNat * 2 ^ l.mb + m
  (if neg then 2 ^ (l.mb + l.eb) else 0) + mag

/-- The largest finite encoding, the infinity and the canonical NaN of a format (R18). -/
def maxCode (f : Fmt) (neg : Bool) : Nat := encodeMag f.layout neg f.layout.maxM f.layout.maxQ

def infCode (f : Fmt) (neg : Bool) : Nat :=
  let l := f.layout
  (if neg then 2 ^ (l.mb + l.eb) else 0) + (2 ^ l.eb - 1) * 2 ^ l.mb

def nanCode : Fmt → Nat
  | .fp32 => 0x7FC00000
  | .bf16 => 0x7FC0
  | .e4m3 => 0x7F
  | .e5m2 => 0x7F
  | _ => 0

/-- What an overflow gives (R41): the largest finite value, an infinity, or for E4M3 the NaN. -/
inductive Ovf where
  | sat | inf
deriving DecidableEq, Repr

/-- Round ± m × 2^e (m ≠ 0) once to a floating-point format: the encoding and the flags OF and UF
(R39, R41, R45). -/
def roundFloat (f : Fmt) (rm : Rnd) (ov : Ovf) (neg : Bool) (m : Nat) (e : Int) (sticky : Bool) :
    Nat × BitVec 5 :=
  let l := f.layout
  let q := lastPlace l m e
  let t := roundAt rm m e q sticky
  if beyond l t q then
    match ov, f with
    | .sat, _ => (maxCode f neg, fOF)
    | .inf, .e2m1 => (maxCode f neg, fOF)
    | .inf, .e4m3 => (nanCode .e4m3, fOF)
    | .inf, _ => (infCode f neg, fOF)
  else (encodeMag l neg t q, if t = 0 then fUF else 0)

/-- Encode a value in a floating-point format, rounding once; a zero keeps its sign (R21). -/
def toFloat (f : Fmt) (rm : Rnd) (ov : Ovf) (v : Val) (sticky : Bool := false) : Nat × BitVec 5 :=
  match v with
  | .nan => (nanCode f, 0)
  | .inf n => (infCode f n, 0)
  | .fin n m e => if m = 0 && !sticky then (encodeMag f.layout n 0 0, 0) else roundFloat f rm ov n m e sticky

/-- The overflow outcome of R45: infinity under RNE, the largest finite value under RTZ. -/
def ieeeOvf : Rnd → Ovf
  | .rtz => .sat
  | _ => .inf

/-- Encode in FP32 or BF16 as the vector unit does (R45). -/
def toIeee (f : Fmt) (rm : Rnd) (v : Val) (sticky : Bool := false) : Nat × BitVec 5 :=
  toFloat f rm (ieeeOvf rm) v sticky

/-- The OVF outcome of R41 under a rounding mode. -/
def ovfOf (ovf : Bool) : Rnd → Ovf
  | .rtz => .sat
  | _ => if ovf then .inf else .sat

/-- Clamp an integer to `w` bits two's complement: the value and whether it was clamped. -/
def clampInt (w : Nat) (v : Int) : Int × Bool :=
  let hi : Int := 2 ^ (w - 1) - 1
  let lo : Int := -2 ^ (w - 1)
  if v > hi then (hi, true) else if v < lo then (lo, true) else (v, false)

/-- The low `w` bits of an integer as an encoding. -/
def encodeInt (w : Nat) (v : Int) : Nat := (v % (2 ^ w : Nat)).toNat

/-! ### Conversions (R42 to R44) -/

/-- Whether R42 lists the pair of formats (VCVT). FP32 to FP32 is in its first row ("any float"). -/
def cvtListed (s d : Fmt) : Bool :=
  match d with
  | .fp32 => s.isFloat || s.isSmallInt || s == .int32
  | .bf16 => s == .e4m3 || s == .e5m2 || s == .e2m1 || s == .fp32
  | .e5m2 => s == .fp32 || s == .bf16 || s == .e4m3
  | .e4m3 => s == .fp32 || s == .bf16 || s == .e5m2
  | .e2m1 => s == .fp32 || s == .bf16
  | .int8 => s == .fp32 || s == .bf16 || s == .int32
  | .int4 => s == .fp32 || s == .bf16 || s == .int32
  | .int2 => s == .fp32 || s == .bf16 || s == .int32
  | _ => false

/-- Whether a conversion steps a generator under SR: R42 rounds it under RM (R40). -/
def cvtSteps (s d : Fmt) : Bool :=
  match d with
  | .fp32 => false
  | .bf16 => s == .fp32
  | _ => true

/-- Round a value to an integer of `w` bits: the code and the flags (R41, R42, R44). -/
def toInt (w : Nat) (rm : Rnd) (v : Val) : Nat × BitVec 5 :=
  match v with
  | .nan => (0, fNV)
  | .inf n => (encodeInt w (clampInt w (if n then -(2 ^ 40) else 2 ^ 40)).1, fNV)
  | .fin n m e =>
    let t := roundAt rm m e 0 false
    let c := clampInt w (signed n t)
    (encodeInt w c.1, if c.2 then fIS else if t = 0 && m ≠ 0 then fUF else 0)

/-- One element conversion of R42; `shift` is the shift count of R44 for an INT32 source. -/
def convert (s d : Fmt) (rm : Rnd) (ovf : Bool) (shift : Nat) (v : Val) : Nat × BitVec 5 :=
  match d with
  | .fp32 => toFloat .fp32 .rne .inf v
  | .bf16 => toFloat .bf16 rm (ovfOf ovf rm) v
  | .e5m2 => toFloat .e5m2 rm (ovfOf ovf rm) v
  | .e4m3 => match v with
    | .inf n => (if ovf then nanCode .e4m3 else maxCode .e4m3 n, fNV)
    | _ => toFloat .e4m3 rm (ovfOf ovf rm) v
  | .e2m1 => match v with
    | .nan => (0, fNV)
    | .inf n => (maxCode .e2m1 n, fNV)
    | _ => toFloat .e2m1 rm .sat v
  | _ =>
    match v with
    | .fin n m e => toInt d.width rm (.fin n m (if s == .int32 then e - (shift : Int) else e))
    | _ => toInt d.width rm v

/-! ### MX blocks (R25, R26, R43) -/

/-- The element format and the emax of an MX format (R43, step 4). -/
def mxElem : Fmt → Fmt
  | .mx4 => .e4m3
  | .mx5 => .e5m2
  | .mxfp4 => .e2m1
  | _ => .int8

def mxEmax : Fmt → Int
  | .mx4 => 8
  | .mx5 => 15
  | .mxfp4 => 2
  | _ => 0

/-- floor(log2 (m × 2^e)) for m ≠ 0. -/
def floorLog2 (m : Nat) (e : Int) : Int := (m.log2 : Int) + e

/-- Compare two magnitudes m1 × 2^e1 < m2 × 2^e2. -/
def magLt (m1 : Nat) (e1 : Int) (m2 : Nat) (e2 : Int) : Bool :=
  if e1 ≤ e2 then decide (m1 < m2 <<< (e2 - e1).toNat) else decide (m1 <<< (e1 - e2).toNat < m2)

/-- Steps 1 to 4 of R43: none when a value is NaN or infinite (scale 0xFF); otherwise the scale
exponent, none inside for an all-zero block. -/
def mxScale (d : Fmt) (vs : List Val) : Option (Option Int) :=
  vs.foldl (fun a v =>
    match a, v with
    | none, _ => none
    | some b, .fin _ m e =>
      if m = 0 then some b
      else match b with
        | none => some (some (floorLog2 m e))
        | some x => some (some (max x (floorLog2 m e)))
    | some _, _ => none) (some none)
  |>.map (fun b => b.map (fun x => max (-127) (min 127 (x - mxEmax d))))

/-- Step 5 of R43: one element converted from v / 2^X, always with the OVF = 0 outcome; a clamp of an
MXINT8 element sets OF. -/
def mxElement (d : Fmt) (x : Int) (rm : Rnd) (v : Val) : Nat × BitVec 5 :=
  match v with
  | .fin n m e =>
    if d = .mxint8 then
      let t := roundAt rm m (e - x + 6) 0 false
      let c := clampInt 8 (signed n t)
      (encodeInt 8 c.1, if c.2 then fOF else if t = 0 && m ≠ 0 then fUF else 0)
    else toFloat (mxElem d) rm .sat (.fin n m (e - x))
  | _ => (0, 0)

/-- Step 3 of R43: an element of an all-zero block. -/
def mxZero (d : Fmt) (v : Val) : Nat :=
  match v with
  | .fin n _ _ => if d = .mxint8 then 0 else encodeMag (mxElem d).layout n 0 0
  | _ => 0

/-- The scale exponent of an E8M0 byte; 0xFF stands for NaN (R25). -/
def scaleExp (b : Nat) : Option Int := if b = 255 then none else some ((b : Int) - 127)

/-! ### Arithmetic (R34 to R37, R45) -/

/-- Exact sum of two finite values, with the sign of an exact zero of R21. -/
def addFin (n1 : Bool) (m1 : Nat) (e1 : Int) (n2 : Bool) (m2 : Nat) (e2 : Int) : Val :=
  let e := min e1 e2
  let v := signed n1 (m1 <<< (e1 - e).toNat) + signed n2 (m2 <<< (e2 - e).toNat)
  if v = 0 then .fin (n1 && n2 && m1 = 0 && m2 = 0) 0 0 else .fin (v < 0) v.natAbs e

/-- Sum with the invalid cases of R36 and R45: the value and whether NV is set. -/
def vAdd (a b : Val) : Val × BitVec 5 :=
  match a, b with
  | .nan, _ => (.nan, 0)
  | _, .nan => (.nan, 0)
  | .inf n, .inf k => if n = k then (.inf n, 0) else (.nan, fNV)
  | .inf n, _ => (.inf n, 0)
  | _, .inf n => (.inf n, 0)
  | .fin n m e, .fin k p g => (addFin n m e k p g, 0)

def vNeg : Val → Val
  | .nan => .nan
  | .inf n => .inf (!n)
  | .fin n m e => .fin (!n) m e

/-- Exact product; infinity times zero is invalid. -/
def vMul (a b : Val) : Val × BitVec 5 :=
  match a, b with
  | .nan, _ => (.nan, 0)
  | _, .nan => (.nan, 0)
  | .inf n, .inf k => (.inf (n != k), 0)
  | .inf n, .fin k m _ => if m = 0 then (.nan, fNV) else (.inf (n != k), 0)
  | .fin n m _, .inf k => if m = 0 then (.nan, fNV) else (.inf (n != k), 0)
  | .fin n m e, .fin k p g => (.fin (n != k) (m * p) (e + g), 0)

/-- a × b + c with one rounding to follow. -/
def vFma (a b c : Val) : Val × BitVec 5 :=
  let p := vMul a b
  let s := vAdd p.1 c
  (s.1, p.2 ||| s.2)

/-- Finite comparison a < b with −0 below +0 (R45). -/
def finLt (n1 : Bool) (m1 : Nat) (e1 : Int) (n2 : Bool) (m2 : Nat) (e2 : Int) : Bool :=
  match n1, n2 with
  | true, false => true
  | false, true => false
  | false, false => magLt m1 e1 m2 e2
  | true, true => magLt m2 e2 m1 e1

def vLt (a b : Val) : Bool :=
  match a, b with
  | .inf n, .inf k => n && !k
  | .inf n, .fin .. => n
  | .fin .., .inf n => !n
  | .fin n m e, .fin k p g => finLt n m e k p g
  | _, _ => false

/-- minimumNumber and maximumNumber (R45). -/
def vMin (a b : Val) : Val :=
  match a, b with
  | .nan, _ => b
  | _, .nan => a
  | _, _ => if vLt b a then b else a

def vMax (a b : Val) : Val :=
  match a, b with
  | .nan, _ => b
  | _, .nan => a
  | _, _ => if vLt a b then b else a

/-- Quotient to 200 more bits than the operands, with a sticky bit, and its flags (R45). -/
def vDiv (a b : Val) : Val × Bool × BitVec 5 :=
  match a, b with
  | .nan, _ => (.nan, false, 0)
  | _, .nan => (.nan, false, 0)
  | .inf _, .inf _ => (.nan, false, fNV)
  | .inf n, .fin k _ _ => (.inf (n != k), false, 0)
  | .fin n _ _, .inf k => (.fin (n != k) 0 0, false, 0)
  | .fin n m e, .fin k p g =>
    if p = 0 then (if m = 0 then (.nan, false, fNV) else (.inf (n != k), false, fDZ))
    else if m = 0 then (.fin (n != k) 0 0, false, 0)
    else
      let num := m <<< 200
      (.fin (n != k) (num / p) (e - g - 200), num % p ≠ 0, 0)

/-! ### RCP, RSQRT, EXP2, LOG2 (R46) -/

/-- Integer square root by Newton steps from above. -/
def isqrtFrom (n : Nat) : Nat → Nat → Nat
  | 0, x => x
  | k + 1, x => let y := (x + n / x) / 2; if y < x then isqrtFrom n k y else x

def isqrt (n : Nat) : Nat := if n = 0 then 0 else isqrtFrom n 2000 (2 ^ (n.log2 / 2 + 1))

def vRcp (a : Val) : Val × Bool × BitVec 5 :=
  match a with
  | .nan => (.nan, false, 0)
  | .inf n => (.fin n 0 0, false, 0)
  | .fin n m e =>
    if m = 0 then (.inf n, false, fDZ)
    else (.fin n (2 ^ 200 / m) (-e - 200), 2 ^ 200 % m ≠ 0, 0)

def vRsqrt (a : Val) : Val × Bool × BitVec 5 :=
  match a with
  | .nan => (.nan, false, 0)
  | .inf n => if n then (.nan, false, fNV) else (.fin false 0 0, false, 0)
  | .fin n m e =>
    if m = 0 then (.inf n, false, fDZ)
    else if n then (.nan, false, fNV)
    else
      let m' := if e % 2 = 0 then m else 2 * m
      let e' := if e % 2 = 0 then e else e - 1
      let r := isqrt (2 ^ 400 / m')
      (.fin false r (-(e' / 2) - 200), r * r * m' ≠ 2 ^ 400, 0)

/-- 2^f for a fraction f given as bits below the point, most significant first: the product of the
square roots of 2 whose bits are set, in 400-bit fixed point. -/
def exp2Frac : List Bool → Nat → Nat → Nat
  | [], _, acc => acc
  | b :: t, root, acc =>
    let root' := isqrt (root <<< 400)
    exp2Frac t root' (if b then (acc * root') >>> 400 else acc)

/-- The bits of m / 2^k (m < 2^k) below the point, most significant first. -/
def fracBits (m : Nat) : Nat → List Bool
  | 0 => []
  | k + 1 => m.testBit k :: fracBits m k

/-- EXP2 of a finite value: exact for an integer, otherwise a 400-bit approximation from below with a
sticky bit. Beyond ±2^10 the result is past every FP32 value, and the input is cut there. -/
def vExp2 (a : Val) : Val × Bool × BitVec 5 :=
  match a with
  | .nan => (.nan, false, 0)
  | .inf n => if n then (.fin false 0 0, false, 0) else (.inf false, false, 0)
  | .fin n m e =>
    if m = 0 then (.fin false 1 0, false, 0)
    else if floorLog2 m e ≥ 10 then (.fin false 1 (if n then -2000 else 2000), false, 0)
    else if e ≥ 0 then (.fin false 1 (signed n (m <<< e.toNat)), false, 0)
    else
      let k := (-e).toNat
      let v := signed n m
      let ip := v / (2 ^ k : Nat)
      let fp := (v % (2 ^ k : Nat)).toNat
      if fp = 0 then (.fin false 1 ip, false, 0)
      else (.fin false (exp2Frac (fracBits fp k) (2 <<< 400) (1 <<< 400)) (ip - 400), true, 0)

/-- The first `k` bits of log2 of y / 2^400 for y in [2^400, 2^401), by repeated squaring. -/
def log2Bits : Nat → Nat → Nat → Nat
  | 0, _, acc => acc
  | k + 1, y, acc =>
    let z := (y * y) >>> 400
    if z ≥ 2 ^ 401 then log2Bits k (z / 2) (2 * acc + 1) else log2Bits k z (2 * acc)

def vLog2 (a : Val) : Val × Bool × BitVec 5 :=
  match a with
  | .nan => (.nan, false, 0)
  | .inf n => if n then (.nan, false, fNV) else (.inf false, false, 0)
  | .fin n m e =>
    if m = 0 then (.inf true, false, fDZ)
    else if n then (.nan, false, fNV)
    else
      let k := floorLog2 m e
      if m = 2 ^ m.log2 then
        (if k = 0 then (.fin false 0 0, false, 0) else (.fin (k < 0) k.natAbs 0, false, 0))
      else
        let t : Int := k * (2 ^ 120 : Nat) + (log2Bits 120 (m <<< (400 - m.log2)) 0 : Nat)
        if t < 0 then (.fin true (t.natAbs - 1) (-120), true, 0) else (.fin false t.toNat (-120), true, 0)

/-! ### Stochastic-rounding generators (R40) -/

/-- One step of a generator: the new state. Its rounding word is the state's bits [31:16]. -/
def srNext (x : Lane) : Lane :=
  let a := x ^^^ (x <<< 13)
  let b := a ^^^ (a >>> 17)
  b ^^^ (b <<< 5)

/-- The rounding word r of a state. -/
def srWord (x : Lane) : Nat := x.toNat >>> 16

/-- The initial state of lane i of the copy with index j (R40). -/
def srInit (i j : Nat) : Lane := BitVec.ofNat 32 (0x9E3779B9 + i + 64 * j)

/-! ### Packing (R23) -/

/-- Element `i` of width `w` bits in packed bytes given as one number, element 0 lowest. -/
def packedElem (w : Nat) (x i : Nat) : Nat := (x >>> (w * i)) % 2 ^ w

/-- Pack a list of codes of width `w`, element 0 lowest. -/
def packElems (w : Nat) (l : List Nat) : Nat := l.foldr (fun c a => a <<< w ||| (c % 2 ^ w)) 0

end Sys2Proof.Machine
end

