-- ==== Sys2Proof/Machine/Ops.lean ====
section
/-! DEFINITION. The named operations that the meanings share: updates of the state, who owns what under
the active rig, status codes, the error log, the end of a command, free values.
Choices of the model here: log entry 20 (DESIGN CHOICE), log entry 37 (DESIGN CHOICE), log entry 38 (DESIGN
CHOICE), log entry 52 (DEDUCED). -/

namespace Sys2Proof.Machine

open Sys2Proof

/-- The outcome of a command. -/
abbrev Out := Host.Outcome State Fault Refusal

/-! ### Frames by construction -/

/-- Run a command that changes neither the queue of commands, nor the rig, nor the global time counter. -/
def unitCmd (s : State) (f : State → State) : Out :=
  .next { f s with pending := s.pending, rig := s.rig, time := s.time }

/-- Run a command that changes neither the queue of commands nor the global time counter (the rig's
commands of R277). -/
def rigCmd (s : State) (f : State → State) : Out :=
  .next { f s with pending := s.pending, time := s.time }

/-- Run a command that may change everything but the queue of commands (resets, R385). -/
def sysCmd (s : State) (f : State → State) : Out :=
  .next { f s with pending := s.pending }

/-- Work of units that leaves the RIG block alone. -/
def units (s : State) (f : State → State) : State := { f s with rig := s.rig }

/-! ### Updates -/

def State.core (s : State) (k : Nat) : CoreSlot := s.cores.get CoreSlot.empty k
def State.setCore (s : State) (k : Nat) (v : CoreSlot) : State :=
  { s with cores := s.cores.set CoreSlot.empty k v }
def State.ctx (s : State) (c : Nat) : Ctx := s.ctxs.get Ctx.empty c
def State.setCtx (s : State) (c : Nat) (v : Ctx) : State := { s with ctxs := s.ctxs.set Ctx.empty c v }
def State.updCtx (s : State) (c : Nat) (f : Ctx → Ctx) : State := s.setCtx c (f (s.ctx c))
def State.queue (s : State) (q : Nat) : Queue := s.queues.get Queue.empty q
def State.setQueue (s : State) (q : Nat) (v : Queue) : State :=
  { s with queues := s.queues.set Queue.empty q v }
def State.updQueue (s : State) (q : Nat) (f : Queue → Queue) : State := s.setQueue q (f (s.queue q))
def State.sem (s : State) (i : Nat) : Sem := s.sems.get Sem.empty i
def State.setSem (s : State) (i : Nat) (v : Sem) : State := { s with sems := s.sems.set Sem.empty i v }
def State.engine (s : State) (k : Nat) : DmaEng := s.dma.get DmaEng.empty k
def State.setEngine (s : State) (k : Nat) (v : DmaEng) : State :=
  { s with dma := s.dma.set DmaEng.empty k v }
def State.sail (s : State) (i : Nat) : Sail := s.sails.get Sail.empty i
def State.setSail (s : State) (i : Nat) (v : Sail) : State := { s with sails := s.sails.set Sail.empty i v }
def State.updSail (s : State) (i : Nat) (f : Sail → Sail) : State := s.setSail i (f (s.sail i))
def State.yard (s : State) (y : Nat) : Yard := s.yards.get Yard.empty y
def State.setYard (s : State) (y : Nat) (v : Yard) : State := { s with yards := s.yards.set Yard.empty y v }
def State.updYard (s : State) (y : Nat) (f : Yard → Yard) : State := s.setYard y (f (s.yard y))
def State.group (s : State) (h : Nat) : Group := s.groups.get Group.empty h
def State.setGroup (s : State) (h : Nat) (v : Group) : State :=
  { s with groups := s.groups.set Group.empty h v }
def State.slot (s : State) (k : Nat) : KeySlot := s.sec.slots.get KeySlot.empty k
def State.setSlot (s : State) (k : Nat) (v : KeySlot) : State :=
  { s with sec := { s.sec with slots := s.sec.slots.set KeySlot.empty k v } }
def State.port (s : State) (p : Nat) : RyuPort := s.ryu.ports.get RyuPort.reset p
def State.setPort (s : State) (p : Nat) (v : RyuPort) : State :=
  { s with ryu := { s.ryu with ports := s.ryu.ports.set RyuPort.reset p v } }

/-- The program resident on a logical core. -/
def State.prog (s : State) (k : Nat) : Option Prog := (s.core k).prog

/-- Replace the program resident on a logical core. -/
def State.setProg (s : State) (k : Nat) (p : Option Prog) : State :=
  s.setCore k { s.core k with prog := p }

/-- Add one without passing the largest value: the counters that saturate. -/
def satInc {w : Nat} (x : BitVec w) : BitVec w := if x = BitVec.allOnes w then x else x + 1

def satAdd {w : Nat} (x : BitVec w) (n : Nat) : BitVec w :=
  if x.toNat + n ≥ 2 ^ w then BitVec.allOnes w else BitVec.ofNat w (x.toNat + n)


/-! ### Status codes (R313) -/

def Status.code : Status → BitVec 16
  | .done => 0x0000 | .doneReplayed => 0x0001 | .doneFallback => 0x0002
  | .abortDestroy => 0x0010 | .abortContextReset => 0x0011 | .abortNotReplayable => 0x0012
  | .abortKeyRevoked => 0x0013
  | .faultTranslation => 0x0020 | .faultFreedRange => 0x0021 | .faultPermission => 0x0022
  | .faultPoison => 0x0023
  | .remoteTimeout => 0x0030 | .remoteUnreachable => 0x0031 | .stateLost => 0x0032
  | .txnConflict => 0x0040 | .semRevoked => 0x0041 | .fenceSaturated => 0x0042 | .malformed => 0x0050

/-- The status of a code; none for a code that the LJ64 never writes (R313). -/
def Status.ofCode (c : Nat) : Option Status :=
  match c with
  | 0x0000 => some .done | 0x0001 => some .doneReplayed | 0x0002 => some .doneFallback
  | 0x0010 => some .abortDestroy | 0x0011 => some .abortContextReset
  | 0x0012 => some .abortNotReplayable | 0x0013 => some .abortKeyRevoked
  | 0x0020 => some .faultTranslation | 0x0021 => some .faultFreedRange
  | 0x0022 => some .faultPermission | 0x0023 => some .faultPoison
  | 0x0030 => some .remoteTimeout | 0x0031 => some .remoteUnreachable | 0x0032 => some .stateLost
  | 0x0040 => some .txnConflict | 0x0041 => some .semRevoked | 0x0042 => some .fenceSaturated
  | 0x0050 => some .malformed
  | _ => none

/-- The faulting statuses of R301. -/
def Status.faulting : Status → Bool
  | .faultTranslation => true | .faultFreedRange => true | .faultPermission => true
  | .faultPoison => true | .semRevoked => true | .fenceSaturated => true | .malformed => true
  | _ => false

/-! ### Ownership under the active rig -/

/-- The sail of an owner byte, none when OWNED is 0 (R269). -/
def ownerSail (b : BitVec 8) : Option Nat := if b.getLsbD 6 then some (b.toNat % 64) else none

/-- The owner of the resource at an offset of the OWNERS section (R269). -/
def Rig.ownerAt (r : Rig) (off : Nat) : Option Nat := ownerSail (r.owner.get 0 off)

def offGddr : Nat := 128
def offFar : Nat := 192
def offWay : Nat := 4288
def offLookup : Nat := 4544
def offUpd : Nat := 5056
def offKey : Nat := 5184

/-- The sail that owns a cluster (R268). -/
def Rig.clusterSail (r : Rig) (n : Nat) : Option Nat :=
  match Tbl.look r.cores n with
  | none => none
  | some m => ownerSail m.owner

/-- The clusters of a sail, in increasing number. -/
def Rig.clusters (r : Rig) (sl : Nat) : List Nat :=
  (List.range 64).filter (fun n => r.clusterSail n == some sl)

/-- The routers on the local ports of a unit (R141): a yard, a Ryurun port, a host I/O die, the GDDR7 port of a channel, a mast. -/
def yardUnit (y : Nat) : List Nat := (List.range 6).map (2304 + 6 * y + ·)
def ryuUnit (p : Nat) : List Nat := [2400 + p]
def hostUnit (h : Nat) : List Nat := (List.range 4).map (2432 + 4 * h + ·)
def gddrUnit (c : Nat) : List Nat := (List.range 6).map (2440 + 6 * (c / 16) + ·)
def mastUnit (m : Nat) : List Nat := (List.range 288).map (288 * m + ·)

/-- Whether a unit still applies the former rig: not all of its routers have switched (R278). -/
def State.unitWaits (s : State) (u : List Nat) : Bool := s.rig.former.isSome && !u.all (fun r => s.mesh.switched.get false r)

/-- The rig that a unit applies (R278). -/
def State.unitRig (s : State) (u : List Nat) : Option Rig := if s.unitWaits u then s.rig.former else s.rig.active

/-- The unit that a resource of the OWNERS section belongs to; a key slot to the masthead, which switches first. -/
def ownerUnit (off : Nat) : List Nat :=
  if off < offGddr then yardUnit (off / 8)
  else if off < offFar then gddrUnit (off - offGddr)
  else if off < offWay then hostUnit ((off - offFar) / 2048)
  else if off < offLookup then yardUnit ((off - offWay) / 16)
  else if off < offUpd then yardUnit ((off - offLookup) / 32)
  else if off < offKey then yardUnit ((off - offUpd) / 8)
  else []

def State.ownerAt (s : State) (off : Nat) : Option Nat :=
  match s.unitRig (ownerUnit off) with
  | none => none
  | some r => r.ownerAt off

def State.desc (s : State) (sl : Nat) : Option SailDesc :=
  match s.rig.active with
  | none => none
  | some r => Tbl.look r.sails sl

def State.clusterSail (s : State) (n : Nat) : Option Nat :=
  match s.rig.active with
  | none => none
  | some r => r.clusterSail n

def State.sailClusters (s : State) (sl : Nat) : List Nat :=
  match s.rig.active with
  | none => []
  | some r => r.clusters sl

/-- The sail whose object range holds a number (R267): first and count by `f`. -/
def Rig.objectSail (r : Rig) (f : SailDesc → Nat × Nat) (n : Nat) : Option Nat :=
  (r.sails.find? (fun p => decide ((f p.2).1 ≤ n) && decide (n < (f p.2).1 + (f p.2).2))).map (·.1)

def State.objectSail (s : State) (f : SailDesc → Nat × Nat) (n : Nat) : Option Nat :=
  match s.rig.active with
  | none => none
  | some r => r.objectSail f n

def SailDesc.ctxRange (d : SailDesc) : Nat × Nat := (d.ctxFirst, d.ctxCount)
def SailDesc.qRange (d : SailDesc) : Nat × Nat := (d.qFirst, d.qCount)
def SailDesc.semRange (d : SailDesc) : Nat × Nat := (d.semFirst, d.semCount)
def SailDesc.seqRange (d : SailDesc) : Nat × Nat := (d.seqFirst, d.seqCount)

def State.ctxSail (s : State) (c : Nat) : Option Nat := s.objectSail SailDesc.ctxRange c
def State.queueSail (s : State) (q : Nat) : Option Nat := s.objectSail SailDesc.qRange q
def State.semSail (s : State) (i : Nat) : Option Nat := s.objectSail SailDesc.semRange i

/-- The sail that a VF reaches: the one that names it (R290), from the release of a swap on (R277). -/
def State.vfSail (s : State) (port k : Nat) : Option Nat :=
  match s.rig.former <|> s.rig.active with
  | none => none
  | some r => (r.sails.find? (fun p => (if port = 0 then p.2.vf0 else p.2.vf1) == k && k != 0)).map (·.1)

end Sys2Proof.Machine

namespace Sys2Proof

/-- The host port of a function. -/
def HostFn.hostPort : HostFn → Nat
  | .pf p => p
  | .sec p => p
  | .vf p _ => p

end Sys2Proof

namespace Sys2Proof.Machine


/-- Whether a function reaches a sail's block: a primary PF every sail, a VF its own (R294, R296). -/
def State.reaches (s : State) (fn : HostFn) (sl : Nat) : Bool :=
  match fn with
  | .pf _ => (s.desc sl).isSome
  | .sec _ => false
  | .vf p k => s.vfSail p k == some sl

end Sys2Proof.Machine

namespace Sys2Proof

/-- Whether a function is a primary physical function. -/
def HostFn.isPf : HostFn → Bool
  | .pf _ => true
  | _ => false

end Sys2Proof

namespace Sys2Proof.Machine


/-- The sail that owns a local physical address, none for an unowned one; host windows belong to the
sails with a VF on the port (R182, R188). -/
def State.ownsAddr (s : State) (sl a : Nat) : Bool :=
  match s.rig.active, regionOf a with
  | some _, some (.dram c) => s.ownerAt c == some sl
  | some _, some (.gddr c) => s.ownerAt (offGddr + c) == some sl
  | some _, some (.far g) => s.ownerAt (offFar + g) == some sl
  | some r, some (.spad n _ _) => r.clusterSail n == some sl
  | some r, some (.cbuf n) => r.clusterSail n == some sl
  | some r, some (.host p) =>
    match Tbl.look r.sails sl with
    | none => false
    | some d => (if p = 0 then d.vf0 else d.vf1) != 0
  | _, _ => false

/-- Whether a resource of the OWNERS section stays with a sail: from step 4 of a swap on, one that leaves it takes no
new work (R277). -/
def State.stays (s : State) (off sl : Nat) : Bool :=
  if s.rig.phase == .drain || s.rig.phase == .scrub || s.rig.phase == .cut then
    match s.rig.shadow with
    | none => true
    | some r => r.ownerAt off == some sl
  else true

/-! ### Places of cores -/

end Sys2Proof.Machine

namespace Sys2Proof

/-- The key of a logical core: 34 × cluster + logical core. -/
def CoreRef.key (c : CoreRef) : Nat := 34 * c.cluster + c.core

end Sys2Proof

namespace Sys2Proof.Machine


/-- The router of a physical core of a cluster (R141, R149, R268). -/
def routerOf (cluster phys : Nat) : Nat :=
  let q := cluster % 4
  288 * (cluster / 8) + 24 * (6 * (q / 2) + phys / 6) + (12 * (cluster / 4 % 2) + 6 * (q % 2) + phys % 6)

/-- The cluster and the physical core number of a core router (R141, R149). -/
def routerCore (r : Nat) : Nat × Nat :=
  let row := r % 288 / 24
  let col := r % 24
  (8 * (r / 288) + 4 * (col / 12) + 2 * (row / 6) + col % 12 / 6, 6 * (row % 6) + col % 6)

/-- The logical core that the active rig maps on a physical core. -/
def State.logicalOf (s : State) (cluster phys : Nat) : Option Nat :=
  match s.rig.active with
  | none => none
  | some r =>
    match Tbl.look r.cores cluster with
    | none => none
    | some m => (m.phys.findIdx? (· == phys)).map (fun k => 34 * cluster + k)

/-- The key of logical core `i` of a sail, numbered 34 × cluster index + core (R308). -/
def State.sailCore (s : State) (sl i : Nat) : Option Nat :=
  ((s.sailClusters sl)[i / 34]?).map (fun n => 34 * n + i % 34)

/-- The logical cores of a sail's core set. -/
def State.coreSet (s : State) (sl first count : Nat) : List Nat :=
  (List.range count).filterMap (fun i => s.sailCore sl (first + i))

/-- The memory key of scratchpad address 0 of a logical core; the aperture of a core that no rig maps
has none. -/
def State.spadBase (s : State) (k : Nat) : Option Nat :=
  (physOf s (k / 34) (k % 34)).map spadKey

/-! ### The error log (R406 to R408) -/

/-- Write one record into the ring of 1,024. -/
def logRecord (s : State) (r : LogRec) : State :=
  let t := s.ttl
  let lost := if t.written.toNat ≥ 1024 then satInc t.lost else t.lost
  { s with ttl := { t with
      log := (t.log.erase (t.written.toNat % 1024)).insert (t.written.toNat % 1024) r
      written := t.written + 1
      lost := lost } }

/-- A record about a unit. -/
def logUnit (s : State) (cls step okind index cause : Nat) (sl : Option Nat := none)
    (ctx : Option Nat := none) (addr : Nat := 0) (cmd : Option (Nat × Nat) := none) : State :=
  let conf := match sl with
    | none => false
    | some i => match s.desc i with
      | none => false
      | some d => d.conf
  logRecord s
    { time := s.time, cls := BitVec.ofNat 4 cls, step := BitVec.ofNat 4 step, okind := BitVec.ofNat 4 okind,
      index := BitVec.ofNat 16 index, sail := sl, conf := conf, ctx := ctx, cause := BitVec.ofNat 8 cause,
      addr := BitVec.ofNat 64 addr, status := 0
      cmdId := ((cmd.bind (fun w => (s.queue w.1).cmds.find? (fun c => c.n == w.2))).map (fun c => c.raw.extractLsb' 16 16)).getD 0
      queue := (cmd.map (fun w => BitVec.ofNat 16 w.1)).getD 0 }

/-- Object kind and index of a unit in the error log (R407). -/
def logObject (s : State) (kind index : Nat) : Nat × Nat :=
  match kind with
  | 0 =>
    let c := routerCore index
    (0, match s.logicalOf c.1 c.2 with
      | some k => k
      | none => 34 * c.1)
  | 1 => (4, index)
  | 2 => (1, index)
  | 3 => (2, index)
  | 4 => (3, index)
  | 5 => (7, index)
  | 6 => (8, index)
  | 7 => (10, 16 * index)
  | 9 => (9, index)
  | 10 => (10, index)
  | 11 => (11, index)
  | 12 => (14, index)
  | _ => (13, index)

/-- The bits of STATUS [7:2] that have asserted ALERT_N (R458). -/
def alert (s : State) (bit : Nat) : State :=
  { s with pwr := { s.pwr with alertCause := s.pwr.alertCause ||| BitVec.ofNat 16 (2 ^ bit) } }

/-- Mark a unit as a lasting fault in the fence map (R411), by kind of R401 and index. -/
def fenceUnit (s : State) (kind index : Nat) : State :=
  if s.rst.fenceMap.contains (kind, index) then s
  else { s with rst := { s.rst with fenceMap := s.rst.fenceMap ++ [(kind, index)] } }

def fenced (s : State) (kind index : Nat) : Bool := s.rst.fenceMap.contains (kind, index)

/-- Whether a block takes no new work: quiesced (R394), fenced (R411). -/
def outOfService (s : State) (kind index : Nat) : Bool :=
  s.rst.quiesced.contains (kind, index) || fenced s kind index

/-! ### Commands -/

/-- A command that the queue block holds. -/
def State.cmd (s : State) (q n : Nat) : Option CmdRec := (s.queue q).cmds.find? (fun c => c.n == n)

/-- Change a command that the queue block holds. -/
def State.updCmd (s : State) (q n : Nat) (f : CmdRec → CmdRec) : State :=
  s.updQueue q (fun qu => { qu with cmds := qu.cmds.map (fun c => if c.n = n then f c else c) })

/-- The context of a queue. -/
def State.queueCtx (s : State) (q : Nat) : Nat := (s.queue q).ctx

/-- Bits [hi:lo] of a command. -/
def fieldOf (raw : BitVec 512) (hi lo : Nat) : Nat := (raw.toNat >>> lo) % 2 ^ (hi - lo + 1)

/-- Bytes b to e of a command or descriptor as a number. -/
def bytesOf (raw : BitVec 512) (b e : Nat) : Nat := fieldOf raw (8 * e + 7) (8 * b)

/-- The opcode and flags of a command (R306). -/
def CmdRec.opcode (c : CmdRec) : Nat := bytesOf c.raw 0 0
def CmdRec.flag (c : CmdRec) (i : Nat) : Bool := c.raw.getLsbD (8 + i)
def CmdRec.isCompleted (c : CmdRec) : Bool :=
  match c.phase with
  | .completed _ => true
  | _ => false
/-- Whether a command has started in the sense of R307: a RUN once its cores run it, a SEQ_SUBMIT once it
holds its slot, any other command once its turn has come. -/
def CmdRec.isStarted (c : CmdRec) : Bool :=
  match c.phase with
  | .fetched => false
  | .ready => false
  | .started => c.opcode != 0x01 && c.opcode != 0x27
  | _ => true

/-- Stop the context at a faulting completion under STOP_ON_FAULT (R301). -/
def stopOnFault (s : State) (c : Nat) (st : Status) : State :=
  if st.faulting && (s.ctx c).sof && (s.ctx c).st == .active then
    s.updCtx c (fun x => { x with st := .stopped })
  else s

/-- A sail telltale and a queue telltale see progress (R414); progress of an object at key
8192 × kind + index. -/
def progress (s : State) (kind index : Nat) : State :=
  if 8192 ≤ index then s else
  { s with ttl := { s.ttl with
      tells := s.ttl.tells.upd Telltale.idle (8192 * kind + index) (fun t =>
        { t with progress := t.progress + 1 }) } }

/-- `n` progress events at once. The queues of the model's own have no telltale. -/
def addProgress (s : State) (kind index n : Nat) : State :=
  if 8192 ≤ index then s else
  { s with ttl := { s.ttl with
      tells := s.ttl.tells.upd Telltale.idle (8192 * kind + index) (fun t =>
        { t with progress := t.progress + n }) } }

/-- Complete a command with a status (R311, R313): its record can be written from now on. A command that
has completed keeps its status (R327). -/
def complete (s : State) (q n : Nat) (st : Status) : State :=
  match s.cmd q n with
  | none => s
  | some c =>
    if c.isCompleted then s
    else
      let fin : Status := if c.replayed && st == .done then .doneReplayed else st
      let s := s.updCmd q n (fun c => { c with phase := .completed fin, endAt := s.time })
      let s := stopOnFault s (s.queueCtx q) fin
      match s.ctxSail (s.queueCtx q) with
      | none => s
      | some sl => progress s 5 sl

/-- Give a command its AUX value. -/
def setAux (s : State) (q n : Nat) (a : Nat) : State :=
  s.updCmd q n (fun c => { c with aux := BitVec.ofNat 32 a })

/-- Keep the first error of a command that works in pieces. -/
def noteErr (s : State) (q n : Nat) (st : Status) : State :=
  s.updCmd q n (fun c => { c with firstErr := match c.firstErr with
    | none => some st
    | some e => some e })

/-- Mark a command as no longer replayable (R426). -/
def noReplay (s : State) (q n : Nat) : State := s.updCmd q n (fun c => { c with noReplay := true })

/-- One piece of a command's work has ended; the last one completes it, with its first error, else the
stream error that its lowest LCORE halted with (R95), else DONE. -/
def endPart (s : State) (q n : Nat) : State :=
  match s.cmd q n with
  | none => s
  | some c =>
    let s := s.updCmd q n (fun c => { c with parts := c.parts - 1 })
    if c.parts ≤ 1 && !c.isCompleted then
      complete s q n (match c.firstErr, c.haltErr with
        | some e, _ => e
        | none, some e => e.2
        | none, none => .done)
    else s

/-- Whether a suspect replay holds a command back: it is replayed when the turn of its context comes (R424). -/
def heldBack (s : State) (q n : Nat) : Bool :=
  s.ttl.replays.any (fun r => r.held.contains (q, n) && r.cur != some (s.queueCtx q))

/-- Whether a block serves another context alone while that one is replayed (R424); kinds of R394. -/
def reservedFrom (s : State) (kind index ctx : Nat) : Bool :=
  s.ttl.replays.any (fun r => r.kind == kind && r.index == index && r.cur.isSome && r.cur != some ctx)

/-- Whether command (q, n) is held, has started, has not begun its work and carries opcode `op`: what the
row of an opcode acts on. -/
def startedAs (s : State) (q n op : Nat) : Option CmdRec :=
  match s.cmd q n with
  | none => none
  | some c => if c.opcode = op && c.phase == .started && !heldBack s q n then some c else none

/-- Raise arithmetic flags of a context (R48, R49). -/
def raiseFlags (s : State) (c : Nat) (f : BitVec 5) : State :=
  if f = 0 then s else s.updCtx c (fun x => { x with arith := x.arith ||| f })

/-- The generation of a sail's memory key slot. -/
def State.memGen (s : State) (sl : Nat) : BitVec 16 :=
  match s.desc sl with
  | none => 0
  | some d => (s.slot d.memKey).gen

/-- The state of a sail's memory slot and of its link slot. -/
def State.memSlot (s : State) (sl : Nat) : KeySlot :=
  match s.desc sl with
  | none => KeySlot.empty
  | some d => s.slot d.memKey

def State.linkSlot (s : State) (sl : Nat) : KeySlot :=
  match s.desc sl with
  | none => KeySlot.empty
  | some d => s.slot d.linkKey

end Sys2Proof.Machine
end

