-- ==== Sys2Proof/Machine/Xlat.lean ====
section
/-! DEFINITION. Translation of context virtual addresses (06, R187 to R206): ranges, tombstones, the
page maps of MIG ranges, reads and writes through ranges, dirty logging.
Choices of the model here: log entry 26 (DESIGN CHOICE), log entry 34 (DESIGN CHOICE), log entry 67 (DESIGN
CHOICE). -/

namespace Sys2Proof.Machine

open Sys2Proof

/-- What an access needs (R189). -/
inductive Acc3 where
  | read | write | fetch
deriving DecidableEq, Repr

/-- A use of a context's mapping (R191): the stamp it is judged by, the MSEQ in force when it began
translation, and the pages of MIG ranges that it reaches directly (R200). -/
structure Use where
  ctx : Nat
  stamp : Word
  epoch : Word
  direct : List Nat := []
deriving DecidableEq, Repr

/-- The use of a command: its own epoch once it has started translation, else the present one. -/
def useOfCmd (s : State) (q n : Nat) : Use :=
  let c := s.queueCtx q
  match s.cmd q n with
  | none => { ctx := c, stamp := (s.ctx c).mseq, epoch := (s.ctx c).mseq }
  | some k => { ctx := c, stamp := k.stamp, epoch := k.xlat.getD (s.ctx c).mseq }

/-- A use that no command made: it stands at the present MSEQ. -/
def useNow (s : State) (c : Nat) : Use := { ctx := c, stamp := (s.ctx c).mseq, epoch := (s.ctx c).mseq }

/-- A command's first translation is sequenced (R191). -/
def startXlat (s : State) (q n : Nat) : State :=
  match s.cmd q n with
  | none => s
  | some c =>
    if c.xlat.isSome then s
    else s.updCmd q n (fun k => { k with xlat := some (s.ctx (s.queueCtx q)).mseq })

/-- Whether an address lies in a range (R189). -/
def RangeE.covers (e : RangeE) (va : Nat) : Bool :=
  decide (e.vstart ≤ va) && decide (va < e.vstart + 4096 * e.pages)

/-- The end of a range's span. -/
def RangeE.vend (e : RangeE) : Nat := e.vstart + 4096 * e.pages

/-- Whether a tombstone judges an address for a use (R194): its MSEQ lies above the use's stamp, and the use began at or after it or
finds no live range. -/
def Tomb.judges (t : Tomb) (u : Use) (va : Nat) (dead : Bool) : Bool :=
  t.old.covers va && decide (u.stamp.toNat < t.mseq.toNat) && (dead || decide (t.mseq.toNat ≤ u.epoch.toNat))

/-- The mapping that serves an address for a use (R193 to R195): the range of its own epoch, FAULT_FREED_RANGE for a tombstone that judges
it, the live range, or the fault of R194 and R195. -/
def mappingFor (x : Ctx) (u : Use) (va : Nat) : Except Status RangeE :=
  match x.past.find? (fun t => t.old.covers va && decide (u.epoch.toNat < t.mseq.toNat)) with
  | some t => .ok t.old
  | none =>
    let live := x.ranges.find? (fun e => e.covers va)
    if x.tombs.any (fun t => t.judges u va live.isNone) then .error .faultFreedRange
    else match live with
      | some e => .ok e
      | none => if u.stamp.toNat < x.floor.toNat then .error .faultFreedRange else .error .faultTranslation

/-- Where a translated address leads. -/
inductive Loc where
  | loc (key : Nat) (e : RangeE)
  | remote (node addr : Nat) (e : RangeE)
  | hold (e : RangeE) (page : Nat)
  | bad (st : Status)
deriving DecidableEq, Repr

/-- Whether a node number of a global address names this device (R172). -/
def State.isOwnNode (s : State) (node : Nat) : Bool :=
  node == 0xFFFF || (s.ryu.assigned && node == s.ryu.node)

/-- Where a global address leads (R172); an unpopulated local address fails as untranslated. -/
def globalLoc (s : State) (g : Nat) (e : RangeE) : Loc :=
  let node := g / 2 ^ 48 % 2 ^ 16
  let a := g % 2 ^ 48
  if s.isOwnNode node then
    match memKey s a with
    | none => .bad .faultTranslation
    | some k => .loc k e
  else .remote node a e

/-- The range that is the context's migration pool in an epoch (R193, R198). -/
def Ctx.poolAt (x : Ctx) (epoch : Word) : Option RangeE :=
  match x.past.find? (fun t => t.old.pool && decide (epoch.toNat < t.mseq.toNat)) with
  | some t => some t.old
  | none => x.ranges.find? (fun e => e.pool)

/-- Pool pages of a context in an epoch, and now (R198). -/
def Ctx.pagesAt (x : Ctx) (epoch : Word) : Nat :=
  match x.poolAt epoch with
  | none => 0
  | some e => min (4096 * e.pages / 65536) (2 ^ 24)

def Ctx.poolRange (x : Ctx) : Option RangeE := x.poolAt x.mseq
def Ctx.poolPages (x : Ctx) : Nat := x.pagesAt x.mseq

/-- Where a word of a page map or a dirty bitmap lies: such a map lies in a plain range (R188), here or on another node. -/
inductive MapAt where
  | key (k : Nat)
  | node (g : Nat)
  | gone
deriving DecidableEq, Repr

def mapAt (s : State) (u : Use) (va : Nat) : MapAt :=
  match mappingFor (s.ctx u.ctx) u va with
  | .error _ => .gone
  | .ok e =>
    match globalLoc s (e.target + (va - e.vstart)) e with
    | .loc k _ => .key k
    | .remote n a _ => .node (2 ^ 48 * n + a)
    | _ => .gone

/-- A word of a map; one on another node reads as this device has left it (log entry 67). -/
def readMap (s : State) (u : Use) (va : Nat) : Nat :=
  match mapAt s u va with
  | .key k => readNat s k 8
  | .node g => s.tiers.maps.get 0 g
  | .gone => 0

def writeMap (s : State) (u : Use) (va v : Nat) : State :=
  match mapAt s u va with
  | .key k => store s k (leBytes 8 v)
  | .node g => { s with tiers := { s.tiers with maps := s.tiers.maps.set 0 g v } }
  | .gone => s

/-- The page-map entry of page `p` of a MIG range (R198). -/
def pageEntry (s : State) (u : Use) (e : RangeE) (p : Nat) : Nat := readMap s u (e.pmap + 8 * p)

def setPageEntry (s : State) (u : Use) (e : RangeE) (p v : Nat) : State := writeMap s u (e.pmap + 8 * p) v

/-- Whether a span of local memory holds committed state of a cleat, which never changes (R251): in the window of a party that holds
it, that has asked for the commit, or that mirrors it. -/
def State.heldSpan (s : State) (a n : Nat) : Bool :=
  s.ryu.cleats.any (fun r => !r.anchor && !r.acked &&
    [CleatSt.committing, .held, .offered, .accepted, .mirror].contains r.st &&
    decide (r.addr.toNat % 2 ^ 48 < a + n) && decide (a < r.addr.toNat % 2 ^ 48 + r.len.toNat))

/-- The place of a global address for an access; committed cleat state is not written (R251). -/
def placeOf (s : State) (g : Nat) (e : RangeE) (acc : Acc3) : Loc :=
  match acc with
  | .write => if s.isOwnNode (g / 2 ^ 48 % 2 ^ 16) && s.heldSpan (g % 2 ^ 48) 1 then .bad .faultPermission else globalLoc s g e
  | _ => globalLoc s g e

/-- Translate one address for an access (R189): permission, then for a MIG range the page map. A page
that is not resident holds the access (R199); DIRECT serves it from the target. -/
def locate (s : State) (u : Use) (va : Nat) (acc : Acc3) : Loc :=
  match mappingFor (s.ctx u.ctx) u va with
  | .error st => .bad st
  | .ok e =>
    let allowed := match acc with
      | .read => e.r
      | .write => e.w
      | .fetch => e.x
    if !allowed then .bad .faultPermission
    else if e.mig && !e.direct && !u.direct.contains (va - (va - e.vstart) % 65536) then
      let p := (va - e.vstart) / 65536
      let ent := pageEntry s u e p
      if ent % 2 = 1 then
        let pp := ent / 256 % 2 ^ 24
        match (s.ctx u.ctx).poolAt u.epoch with
        | none => .bad .faultTranslation
        | some pool =>
          if pp < (s.ctx u.ctx).pagesAt u.epoch then
            placeOf s (pool.target + 65536 * pp + (va - e.vstart) % 65536) e acc
          else .bad .faultTranslation
      else .hold e p
    else placeOf s (e.target + (va - e.vstart)) e acc

/-- Note an access to a resident page of a MIG range: USED, and DIRTY for a write (R198). -/
def touchPage (s : State) (u : Use) (e : RangeE) (va : Nat) (write : Bool) : State :=
  if e.mig && !e.direct then
    let p := (va - e.vstart) / 65536
    let ent := pageEntry s u e p
    if ent % 2 = 1 then setPageEntry s u e p (ent ||| 8 ||| (if write then 2 else 0)) else s
  else s

/-- Set the dirty bit of a write (R205); writes to a bitmap are never themselves logged. -/
def dirtyMark (s : State) (u : Use) (e : RangeE) (va : Nat) : State :=
  if e.dlog then
    let i := (va - e.vstart) / 4096
    let a := e.dmap + 8 * (i / 64)
    writeMap s u a (readMap s u a ||| 2 ^ (i % 64))
  else s

/-- Write data at a translated place: into a host window poisoned data is not written (R186); the dirty
bit is set with the data (R205). -/
def writeAt (s : State) (u : Use) (va key : Nat) (e : RangeE) (l : List Byte) (poison : Bool) : State :=
  let s := dirtyMark s u e va
  let s := touchPage s u e va true
  if poison && decide (hostBase ≤ key) && decide (key < hostEnd) then s else store s key l poison

/-- Whether a memory key lies in a tier whose controllers check key generations (R183, R184). -/
def protectedKey (key : Nat) : Bool := decide (key < gddrEnd) || (decide (farBase ≤ key) && decide (key < farEnd))

/-- A write that carries a stale key generation (R184): its granules are poisoned, its data is discarded, and each
granule is counted in MEM_STALE. -/
def staleWrite (s : State) (key n : Nat) : State :=
  let s := poisonSpan s key n
  { s with tiers := { s.tiers with staleWrites := satAdd s.tiers.staleWrites (granules key n).length } }

/-- Whether an access with a key generation is stale at the memory that holds a key (R184). -/
def staleAt (s : State) (sl : Nat) (gen : BitVec 16) (key : Nat) : Bool := gen != s.memGen sl && protectedKey key

/-- Count the granules of a read that was answered with poison (R184). -/
def noteStaleRead (s : State) (key n : Nat) : State :=
  { s with tiers := { s.tiers with staleReads := satAdd s.tiers.staleReads (granules key n).length } }

/-- A write of a use that carries a stale generation sets its dirty bit like any other (R184, R205). -/
def staleAccess (s : State) (u : Use) (va key : Nat) (e : RangeE) (n : Nat) : State :=
  staleWrite (touchPage (dirtyMark s u e va) u e va true) key n

/-- Record a translation fault in CTX_XLT_FAULT (06, Registers): only the first while VALID is 0. -/
def noteXlt (s : State) (c va : Nat) (st : Status) (acc : Acc3) : State :=
  let cause : Nat := match st with
    | .faultTranslation => 1
    | .faultFreedRange => 2
    | .faultPermission => 3
    | .faultPoison => 4
    | _ => 5
  let a : Nat := match acc with
    | .read => 1
    | .write => 2
    | .fetch => 4
  s.updCtx c (fun x =>
    if x.xf.valid then { x with xf := { x.xf with more := true } }
    else { x with xf := { va := BitVec.ofNat 56 va, cause := BitVec.ofNat 3 cause,
                          access := BitVec.ofNat 3 a, more := false, valid := true } })

/-- Cut [va, va + n) at granule boundaries of 64 bytes (R189). -/
def cutFrom : Nat → Nat → Nat → List (Nat × Nat)
  | 0, _, _ => []
  | f + 1, va, n =>
    if n = 0 then []
    else
      let k := min n (64 - va % 64)
      (va, k) :: cutFrom f (va + k) (n - k)

def cut (va n : Nat) : List (Nat × Nat) := cutFrom (n / 64 + 2) va n

/-- What a read through ranges gives. -/
inductive VRes where
  | ok (l : List Byte)
  | hold (e : RangeE) (page : Nat)
  | remote (node addr : Nat)
  | bad (st : Status) (va : Nat)
deriving DecidableEq, Repr

/-- Read granule by granule; poison fails the read (R186). -/
def vreadPieces (s : State) (u : Use) (acc : Acc3) : List (Nat × Nat) → VRes
  | [] => .ok []
  | (va, n) :: t =>
    match locate s u va acc with
    | .bad st => .bad st va
    | .hold e p => .hold e p
    | .remote node a _ => .remote node a
    | .loc k _ =>
      if anyPoison s k n then .bad .faultPoison va
      else
        match vreadPieces s u acc t with
        | .ok l => .ok (readBytes s k n ++ l)
        | r => r

def vread (s : State) (u : Use) (va n : Nat) : VRes := vreadPieces s u .read (cut va n)

/-- Touch the pages that a read of a span used. -/
def touchSpan (s : State) (u : Use) (va n : Nat) : State :=
  (cut va n).foldl (fun s p =>
    match mappingFor (s.ctx u.ctx) u p.1 with
    | .error _ => s
    | .ok e => touchPage s u e p.1 false) s

/-- Write granule by granule what translates; the caller has judged the span. -/
def vwritePieces (s : State) (u : Use) (poison : Bool) : List (Nat × Nat) → List Byte → State
  | [], _ => s
  | (va, n) :: t, l =>
    match locate s u va .write with
    | .loc k e => vwritePieces (writeAt s u va k e (l.take n) poison) u poison t (l.drop n)
    | _ => vwritePieces s u poison t (l.drop n)

def vwrite (s : State) (u : Use) (va : Nat) (l : List Byte) (poison : Bool := false) : State :=
  vwritePieces s u poison (cut va l.length) l

/-- The first failure of a span for an access, if any. -/
def spanFault (s : State) (u : Use) (va n : Nat) (acc : Acc3) : Option (Status × Nat) :=
  (cut va n).findSome? (fun p =>
    match locate s u p.1 acc with
    | .bad st => some (st, p.1)
    | _ => none)

/-! ### Migration on fault (R199, R200) -/

/-- Whether a pool page is the target of a migration of the context. -/
def poolBusy (x : Ctx) (pp : Nat) : Bool := x.migs.any (fun m => m.poolPage == pp)

/-- The spans of context memory that a DMA descriptor names (R319 to R321). -/
def DmaDesc.spans (d : DmaDesc) : List (Nat × Nat) :=
  let f := fun w hi lo => fieldOf d.raw (64 * w + hi) (64 * w + lo)
  let len := f 2 31 0
  let mode := f 2 35 32
  let n := f 2 39 36 + 1
  let side := fun (base wrap : Nat) (planes : Bool) =>
    if wrap ≠ 0 then (base / 2 ^ wrap * 2 ^ wrap, 2 ^ wrap)
    else if planes then (base, f 3 31 0 * (n - 1) + len / n)
    else (base, len)
  let src := if mode = 5 then [] else [side (f 0 55 0) (f 2 47 42) (mode == 3)]
  let sealRec := if f 2 55 55 + f 2 56 56 = 0 then [] else [(f 4 55 0, 32 * ((len + 4095) / 4096))]
  src ++ side (f 1 55 0) (f 2 53 48) (mode == 4) :: sealRec

/-- Whether a span touches the 64 KiB page at `lo`. -/
def spanHits (lo a n : Nat) : Bool := decide (a < lo + 65536) && decide (lo < a + n)

/-- Whether a use in flight protects the page at `lo` of a context (R200): a DMA descriptor that runs, or a yard request whose rows are
being read. -/
def pageInUse (s : State) (c lo : Nat) : Bool :=
  s.dma.any (fun p => p.2.descs.any (fun d => d.ctx == c && d.phase == .running && d.spans.any (fun x => spanHits lo x.1 x.2))) ||
  s.yards.any (fun p => p.2.reqs.any (fun r => r.ctx == c && r.spans.any (fun x => spanHits lo x.1 x.2) && match r.phase with
    | .engine _ => true
    | .action _ _ => true
    | _ => false))

/-- The range page that a pool page holds, with its entry. -/
def poolHolder (s : State) (u : Use) (pp : Nat) : Option (RangeE × Nat × Nat) :=
  ((s.ctx u.ctx).ranges.filter (fun e => e.mig)).findSome? (fun e =>
    (List.range (4096 * e.pages / 65536)).findSome? (fun p =>
      let ent := pageEntry s u e p
      if ent % 2 = 1 && ent / 256 % 2 ^ 24 = pp then some (e, p, ent) else none))

/-- The eviction sweep of R200: from the hand over the pool pages, at most two turns, clearing USED. -/
def sweep (s : State) (u : Use) : Nat → Nat → State × Option Nat
  | 0, _ => (s, none)
  | f + 1, h =>
    let n := (s.ctx u.ctx).pagesAt u.epoch
    if n = 0 then (s, none)
    else
      let pp := h % n
      if poolBusy (s.ctx u.ctx) pp then sweep s u f (pp + 1)
      else
        match poolHolder s u pp with
        | none => (s.updCtx u.ctx (fun x => { x with hand := (pp + 1) % n }), some pp)
        | some (e, p, ent) =>
          if ent / 4 % 2 = 1 || pageInUse s u.ctx (e.vstart + 65536 * p) then sweep s u f (pp + 1)
          else if ent / 8 % 2 = 1 then sweep (setPageEntry s u e p (ent - 8)) u f (pp + 1)
          else (s.updCtx u.ctx (fun x => { x with hand := (pp + 1) % n }), some pp)

/-- The migrations that the sail of a context runs (R199: at most 16). -/
def sailMigs (s : State) (c : Nat) : Nat :=
  match s.ctxSail c with
  | none => (s.ctx c).migs.length
  | some sl => (s.ctxs.filter (fun p => s.ctxSail p.1 == some sl)).foldl (fun a p => a + p.2.migs.length) 0

/-- Whether a page of a range is being migrated, written back, or giving way to another page. -/
def pageBusy (x : Ctx) (vstart page : Nat) : Bool :=
  x.migs.any (fun m => (m.range.vstart == vstart && m.page == page) || m.victim == some (vstart, page))

/-- A migration as it begins. -/
def Migration.fresh (s : State) (u : Use) (e : RangeE) (page poolPage : Nat) (pin evict : Bool) : Migration :=
  { page := page, range := e, poolPage := poolPage, epoch := u.epoch, keyGen := s.memGen ((s.ctxSail u.ctx).getD 64), at_ := s.time,
    pin := pin, evict := evict, victim := none, begun := false, wb := 0, rd := 0, asked := 0, got := 0, failed := none }

/-- Queue a migration of a context. -/
def addMig (s : State) (u : Use) (e : RangeE) (page poolPage : Nat) (pin evict : Bool) : State :=
  s.updCtx u.ctx (fun x => { x with migs := x.migs ++ [Migration.fresh s u e page poolPage pin evict] })

/-- The use of a migration: the present stamp, the epoch in which it began. -/
def migUse (s : State) (c : Nat) (m : Migration) : Use := { ctx := c, stamp := (s.ctx c).mseq, epoch := m.epoch }

/-- Begin the migration of a page, or join the one that runs (R199): whether the access is held. When the
sweep finds no victim the access is served directly and counted (R200). -/
def startMigration (s : State) (u : Use) (e : RangeE) (page : Nat) (pin : Bool) : State × Bool :=
  let x := s.ctx u.ctx
  if pageBusy x e.vstart page || sailMigs s u.ctx ≥ 16 then (s, true)
  else
    let r := sweep s u (2 * x.pagesAt u.epoch) x.hand
    match r.2 with
    | none => (r.1.updCtx u.ctx (fun x => { x with direct := min (x.direct + 1) 0xFFFFFFFF }), false)
    | some pp => (addMig r.1 u e page pp pin false, true)

/-- Admit an access piece by piece: pages that are not resident start their migrations and hold the
access, or are served directly. The answer says whether the access is held. -/
def servePieces (s : State) (u : Use) (acc : Acc3) : List (Nat × Nat) → State × Use × Bool
  | [] => (s, u, false)
  | (va, _) :: t =>
    match locate s u va acc with
    | .hold e pg =>
      let r := startMigration s u e pg false
      if r.2 then
        let q := servePieces r.1 u acc t
        (q.1, q.2.1, true)
      else servePieces r.1 { u with direct := (e.vstart + 65536 * pg) :: u.direct } acc t
    | _ => servePieces s u acc t

def serve (s : State) (u : Use) (va n : Nat) (acc : Acc3) : State × Use × Bool :=
  servePieces s u acc (cut va n)

/-- Copy bytes and poison marks between memory keys, granule by granule (R199, R186). -/
def copySpan (s : State) (src dst : Nat) : Nat → State
  | 0 => s
  | n + 1 =>
    let g := 64 * n
    copySpan (store s (dst + g) (readBytes s (src + g) 64) (anyPoison s (src + g) 64)) src dst n

/-- Copy a page of a sail with a key generation: under a stale one it reads as poison and is written as poisoned (R184). -/
def copyPage (s : State) (sl : Nat) (gen : BitVec 16) (src dst : Nat) : State :=
  if staleAt s sl gen src || staleAt s sl gen dst then
    let s := if staleAt s sl gen src then noteStaleRead s src 65536 else s
    if staleAt s sl gen dst then staleWrite s dst 65536 else poisonSpan s dst 65536
  else copySpan s src dst 1024

/-! ### Range caches (R190) -/

/-- A unit with a range cache translates through a range: its entry is the most recently used one of the sail, and a miss evicts only an
entry of the same sail, the least recently used one (log entry 67). -/
def cacheRange (s : State) (unit sl : Nat) (u : Use) (va : Nat) : State :=
  match mappingFor (s.ctx u.ctx) u va, s.unitRig (if unit < 16 then yardUnit unit else mastUnit (unit - 16)) with
  | .ok e, some r =>
    let x : RangeRef := { ctx := u.ctx, vstart := e.vstart }
    let key := 64 * unit + sl
    let l := (s.tiers.rcache.get [] key).filter (fun y => y != x) ++ [x]
    { s with tiers := { s.tiers with rcache := s.tiers.rcache.set [] key (l.drop (l.length - r.quotas.get 0 key)) } }
  | _, _ => s

/-- The unit number of the mast of a cluster. -/
def mastOf (cluster : Nat) : Nat := 16 + cluster / 8

/-- Every cache drops what it holds of a context's removed spans, or of the whole context (R192, step 2; R97). -/
def dropTranslations (s : State) (c : Nat) (spans : List RangeE) (all : Bool) : State :=
  let hit := fun (va : Nat) => all || spans.any (fun e => e.covers va)
  { s with
    cores := s.cores.map (fun x => (x.1, { x.2 with icache := x.2.icache.filter (fun l => !(l.ctx == c && hit l.va)) }))
    tiers := { s.tiers with rcache := (s.tiers.rcache.map (fun x =>
      (x.1, x.2.filter (fun y => !(y.ctx == c && (all || spans.any (fun e => e.vstart == y.vstart))))))).filter (fun x => !x.2.isEmpty) } }

end Sys2Proof.Machine
end

