-- ==== Sys2Proof/Machine/Operands.lean ====
section
/-! DEFINITION. The operands of core instructions: registers, predicates, lanes, core addresses (R58),
operand descriptors of the matrix unit (R75, R76), the streams that the rig binds to a core (R84).
Choices of the model here: log entry 69 (DESIGN CHOICE). -/

namespace Sys2Proof.Machine

open Sys2Proof

/-! ### Registers (03, Program state) -/

/-- s0 reads as 0. -/
def Prog.sreg (p : Prog) (r : BitVec 5) : Word := if r = 0 then 0 else p.s[r.toNat]'r.isLt

/-- Writes to s0 are discarded. -/
def Prog.setS (p : Prog) (r : BitVec 5) (v : Word) : Prog :=
  if r = 0 then p else { p with s := p.s.set r.toNat v r.isLt }

/-- p0 reads as 1. -/
def Prog.preg (p : Prog) (i : BitVec 3) : Bool := if i = 0 then true else p.p.getLsbD i.toNat

/-- Bit `i` of a byte replaced. -/
def setBit8 (x : BitVec 8) (i : Nat) (b : Bool) : BitVec 8 :=
  (x &&& ~~~ (BitVec.ofNat 8 (2 ^ i))) ||| (if b then BitVec.ofNat 8 (2 ^ i) else 0)

/-- Writes to p0 are discarded. -/
def Prog.setP (p : Prog) (i : BitVec 3) (b : Bool) : Prog :=
  if i = 0 then p else { p with p := setBit8 p.p i.toNat b }

/-- Whether the predicate of an instruction allows its execution (R61). -/
def Prog.allows (p : Prog) (g : Pred) : Bool := p.preg g.p != g.neg

def Prog.vreg (p : Prog) (r : BitVec 5) : BitVec 2048 := p.v[r.toNat]'r.isLt
def Prog.setV (p : Prog) (r : BitVec 5) (x : BitVec 2048) : Prog := { p with v := p.v.set r.toNat x r.isLt }
def Prog.event (p : Prog) (e : BitVec 4) : BitVec 32 := p.e[e.toNat]'e.isLt
def Prog.setE (p : Prog) (e : BitVec 4) (x : BitVec 32) : Prog := { p with e := p.e.set e.toNat x e.isLt }
def Prog.accum (p : Prog) (a : BitVec 2) : Acc := p.acc[a.toNat]'a.isLt
def Prog.setAcc (p : Prog) (a : BitVec 2) (x : Acc) : Prog := { p with acc := p.acc.set a.toNat x a.isLt }

/-- A post adds 1 to its event counter (R79, R80). -/
def Prog.post (p : Prog) (post : Bool) (e : BitVec 4) : Prog :=
  if post then p.setE e (p.event e + 1) else p

/-- Lane `i` of a vector. -/
def laneOf (x : BitVec 2048) (i : Nat) : Lane := x.extractLsb' (32 * i) 32

/-- The vector with lane `i` given by `f i`. -/
def ofLanes (f : Nat → Lane) : BitVec 2048 :=
  BitVec.ofNat 2048 (packElems 32 ((List.range 64).map (fun i => (f i).toNat)))

/-- The vector whose bytes from 0 upward are `l`. -/
def ofBytes (l : List Byte) : BitVec 2048 := BitVec.ofNat 2048 (leNat l)

/-- The first `n` bytes of a vector. -/
def vecBytes (n : Nat) (x : BitVec 2048) : List Byte := leBytes n x.toNat

/-- The generator of lane `i` (R40). -/
def Prog.gen (p : Prog) (i : Nat) : Lane := p.gens.getD i 0
def Prog.setGen (p : Prog) (i : Nat) (x : Lane) : Prog :=
  { p with gens := p.gens.setIfInBounds i x }

/-- The stepping of the generator of lane `i`: the program with the generator advanced, and the rounding
word (R40). -/
def Prog.draw (p : Prog) (i : Nat) : Prog × Nat :=
  (p.setGen i (srNext (p.gen i)), srWord (srNext (p.gen i)))

/-- The initial state of lane `i` of a copy; 0 never stands in a generator (R40, R72). -/
def Prog.seedLane (p : Prog) (i : Nat) (x : Lane) : Prog :=
  p.setGen i (if x = 0 then srInit i p.lcore else x)

/-! ### Core addresses (R57, R58) -/

/-- The space of the full form of a core address; none for a reserved SPACE. -/
inductive Space where
  | spad (off : Nat)
  | cb (off : Nat)
deriving DecidableEq, Repr

/-- The space and offset that a scalar names; bits [63:32] are dropped (log entry 69). -/
def spaceOf (a : Word) : Option Space :=
  let x := a.toNat % 2 ^ 32
  match x / 2 ^ 30 with
  | 0 => some (.spad (x % 2 ^ 30))
  | 1 => some (.cb (x % 2 ^ 30))
  | _ => none

/-- Whether the full form names a reserved SPACE. -/
def badSpace (a : Word) : Bool := (spaceOf a).isNone

/-- The range fault of `n` bytes at the full form of a core address (R58). -/
def fullRange (s : State) (p : Prog) (a : Word) (n : Nat) : Option CoreCause :=
  match spaceOf a with
  | none => some .illegalInstruction
  | some (.spad o) => if o + n > 0x80000 then some .spadRange else none
  | some (.cb o) => if o + n > (s.ctx p.ctx).cbSize * 65536 then some .cbRange else none

/-- The memory key of the full form of a core address of the core `k`; none out of range. -/
def fullKey (s : State) (k : Nat) (p : Prog) (a : Word) : Option Nat :=
  match spaceOf a with
  | none => none
  | some (.spad o) => (s.spadBase k).map (· + o)
  | some (.cb o) => some (cbufBase + (k / 34) * 0x400000 + (s.ctx p.ctx).cbBase * 65536 + o)

/-- Whether a scratchpad-only access stays inside the scratchpad (R58). -/
def spadFits (a : Word) (n : Nat) : Bool := decide (a.toNat + n ≤ 0x80000)

/-- The memory key of a scratchpad address of the core `k`. -/
def spadAt (s : State) (k : Nat) (a : Word) : Option Nat := (s.spadBase k).map (· + a.toNat)

/-- s[A] plus a sign-extended offset (R68, R71). -/
def offAddr {w : Nat} (base : Word) (off : BitVec w) : Word := base + off.signExtend 64

/-! ### Matrix operands (R33, R75 to R77) -/

/-- A parsed operand descriptor (R75). -/
structure MatDesc where
  base : Nat
  aux : Nat
  fmt : Option Fmt
  rsv : Bool
deriving DecidableEq, Repr

def matDesc (x : Word) : MatDesc :=
  { base := x.toNat % 2 ^ 19, aux := x.toNat / 2 ^ 19 % 2 ^ 19,
    fmt := Fmt.ofCode (x.extractLsb' 38 4), rsv := x.toNat / 2 ^ 42 != 0 }

/-- The accumulator type of a pair of R33, none for a pair it does not list. -/
def pairTag (a b : Fmt) : Option AccTag :=
  match a, b with
  | .bf16, .bf16 => some .fp32
  | .e4m3, .e4m3 => some .fp32 | .e4m3, .e5m2 => some .fp32
  | .e5m2, .e4m3 => some .fp32 | .e5m2, .e5m2 => some .fp32
  | .e2m1, .e2m1 => some .fp32
  | .mx4, .mx4 => some .fp32 | .mx4, .mx5 => some .fp32
  | .mx5, .mx4 => some .fp32 | .mx5, .mx5 => some .fp32
  | .mxfp4, .mxfp4 => some .fp32 | .mxint8, .mxint8 => some .fp32
  | .int8, .int8 => some .int32 | .int8, .int4 => some .int32 | .int4, .int4 => some .int32
  | .int2, .int2 => some .int32 | .int2, .bp1 => some .int32 | .int2, .bp2 => some .int32
  | .bp1, .int2 => some .int32 | .bp1, .bp1 => some .int32 | .bp1, .bp2 => some .int32
  | _, _ => none

end Sys2Proof.Machine
end

