-- ==== Sys2Proof/Machine/Sched.lean ====
section
/-! DEFINITION. Scheduling of contexts on a sail's cores (R331 to R337): placing RUNs, charging core time,
requesting pre-emption, saving and restoring; device semaphores (R82, R316, R317).
Choices of the model here: log entry 4 (DESIGN CHOICE). -/

namespace Sys2Proof.Machine

open Sys2Proof

/-! ### Core sets -/

/-- CORE_FIRST and CORE_COUNT of a RUN (R308). -/
def CmdRec.coreFirst (c : CmdRec) : Nat := bytesOf c.raw 40 41
def CmdRec.coreCount (c : CmdRec) : Nat := bytesOf c.raw 42 43

/-- The logical cores of a RUN's core set. -/
def runCores (s : State) (sl : Nat) (c : CmdRec) : List Nat := s.coreSet sl c.coreFirst c.coreCount

/-- Whether a logical core is DOWN (R285). -/
def coreDown (s : State) (sl k : Nat) : Bool := (s.sail sl).downCores.contains k

/-- The router of a logical core under the active rig. -/
def State.coreRouter (s : State) (k : Nat) : Option Nat :=
  (physOf s (k / 34) (k % 34)).map (fun p => routerOf (k / 34) (p % 36))

/-- Whether a logical core is quiesced or fenced, alone or with its cluster (kinds 0 and 1 of R394). -/
def coreOut (s : State) (k : Nat) : Bool :=
  match s.coreRouter k with
  | none => true
  | some r => outOfService s 0 r || outOfService s 1 (k / 34)

/-- Whether a logical core is free for a program: nothing is resident, it is neither DOWN nor out of
service. -/
def coreFree (s : State) (sl k : Nat) : Bool :=
  (s.core k).prog.isNone && !coreDown s sl k && !coreOut s k

/-! ### Residency and pass -/

/-- Whether a context is resident on some core. -/
def isResident (s : State) (c : Nat) : Bool :=
  s.cores.any (fun p => match p.2.prog with
    | some g => g.ctx == c
    | none => false)

/-- The commands of a context, with their queues. -/
def ctxCmds (s : State) (c : Nat) : List (Nat × CmdRec) :=
  (s.queues.filter (fun p => p.2.ctx == c)).flatMap (fun p => p.2.cmds.map (fun k => (p.1, k)))

/-- Whether the context has a saved copy whose command waits for restore: no copy of the command is still on
a core (R331). -/
def cmdOnCore (s : State) (q n : Nat) : Bool :=
  s.cores.any (fun p => match p.2.prog with
    | some g => g.q == q && g.n == n
    | none => false)

/-- The core time of the programs now resident that `f` picks, since they were placed. -/
def residentTime (s : State) (f : Nat → Prog → Bool) : Word :=
  (s.cores.map (fun p => match p.2.prog with
    | none => 0
    | some g => if f p.1 g then s.time - p.2.placed else 0)).sum

/-- CTX_CORE_TIME and SAIL_CORE_TIME (R329): what was charged, and what runs. -/
def ctxCoreTime (s : State) (c : Nat) : Word := (s.ctx c).coreTime + residentTime s (fun _ g => g.ctx == c)
def sailCoreTime (s : State) (sl : Nat) : Word := (s.sail sl).coreTime + residentTime s (fun k _ => s.clusterSail (k / 34) == some sl)

/-- The pass of a context (R331): it grows while the context is resident. -/
def ctxPass (s : State) (c : Nat) : Nat :=
  (s.ctx c).pass + (s.cores.map (fun p => match p.2.prog with
    | none => 0
    | some g => if g.ctx == c then (s.time - p.2.placed).toNat * 65536 / max 1 (s.ctx c).share else 0)).sum

/-- A RUN that waits for placement: a ready RUN, or one that has been pre-empted (R331). `cores` are the
logical cores it needs. -/
structure ReadyRun where
  pass : Nat
  ctx : Nat
  q : Nat
  n : Nat
  restore : Bool
  cores : List Nat
deriving DecidableEq, Repr

/-- The saved copies of a command. -/
def savedOf (s : State) (sl q n : Nat) : List Saved :=
  (s.sail sl).saved.filter (fun v => v.prog.q == q && v.prog.n == n)

/-- The ready RUNs of a context (R331). -/
def readyOf (s : State) (sl c : Nat) : List ReadyRun :=
  let x := s.ctx c
  let fresh := (ctxCmds s c).filterMap (fun p =>
    if p.2.phase == .ready && p.2.opcode == 0x01 && x.st == .active && !heldBack s p.1 p.2.n then
      some { pass := ctxPass s c, ctx := c, q := p.1, n := p.2.n, restore := false, cores := runCores s sl p.2 }
    else none)
  let pre := (ctxCmds s c).filterMap (fun p =>
    let v := savedOf s sl p.1 p.2.n
    if p.2.phase == .executing && !v.isEmpty && !cmdOnCore s p.1 p.2.n && v.all (fun w => !w.prog.stopped)
      && (x.st == .active || x.st == .stopped) then
      some { pass := ctxPass s c, ctx := c, q := p.1, n := p.2.n, restore := true, cores := v.map (·.lc) }
    else none)
  pre ++ fresh

/-- The contexts of a sail that exist. -/
def sailCtxs (s : State) (sl : Nat) : List Nat :=
  (s.ctxs.map (·.1)).filter (fun c => s.ctxSail c == some sl)

/-- Insert by pass, then by context number (R332). -/
def insertRun (r : ReadyRun) : List ReadyRun → List ReadyRun
  | [] => [r]
  | t :: l => if r.pass < t.pass || (r.pass == t.pass && r.ctx < t.ctx) then r :: t :: l else t :: insertRun r l

/-- Every ready RUN of a sail in the order of R332. -/
def readyRuns (s : State) (sl : Nat) : List ReadyRun :=
  ((sailCtxs s sl).flatMap (readyOf s sl)).foldl (fun l r => insertRun r l) []

/-- Whether a context has a ready RUN or is resident. -/
def readyOrResident (s : State) (sl c : Nat) : Bool := !(readyOf s sl c).isEmpty || isResident s c

/-- P_min over the other contexts of the sail (R331). -/
def passMin (s : State) (sl c : Nat) : Option Nat :=
  ((sailCtxs s sl).filter (fun d => d != c && readyOrResident s sl d)).foldl (fun a d =>
    match a with
    | none => some (ctxPass s d)
    | some m => some (min m (ctxPass s d))) none

/-- A context that becomes ready after neither a ready nor a resident command takes
pass = max(pass, P_min) (R331). -/
def becomeReady (s : State) (sl c : Nat) : State :=
  if readyOrResident s sl c then s
  else match passMin s sl c with
    | none => s
    | some m => s.updCtx c (fun x => { x with pass := max x.pass m })

/-- Charge the core time of the program on core `k` (R331, R333). -/
def charge (s : State) (k : Nat) : State :=
  match s.prog k with
  | none => s
  | some p =>
    let d := (s.time - (s.core k).placed).toNat
    let s := s.updCtx p.ctx (fun x => { x with
      coreTime := x.coreTime + BitVec.ofNat 64 d
      pass := x.pass + d * 65536 / (max 1 x.share) })
    match s.ctxSail p.ctx with
    | none => s
    | some sl => s.updSail sl (fun x => { x with coreTime := x.coreTime + BitVec.ofNat 64 d })

/-! ### Programs (R60) -/

def vzero : Vector (BitVec 2048) 32 := Vector.replicate 32 0

/-- +0 tagged FP32. -/
def Acc.zero : Acc := { tag := .fp32, el := [] }

/-- The initial state of copy `j` of a command's program (R60). -/
def Prog.initial (ctx q n j ncore : Nat) (raw : BitVec 512) : Prog :=
  { ctx := ctx, q := q, n := n, lcore := j, ncore := ncore,
    pc := BitVec.ofNat 56 (bytesOf raw 8 15),
    s := Vector.ofFn (fun i : Fin 32 =>
      if i.val = 1 then BitVec.ofNat 64 j
      else if i.val = 2 then BitVec.ofNat 64 ncore
      else if i.val = 3 then BitVec.ofNat 64 ctx
      else if i.val ≥ 24 then raw.extractLsb' (64 * (i.val - 24)) 64
      else 0),
    p := 0, v := vzero, acc := Vector.replicate 4 Acc.zero, e := Vector.replicate 16 0, loops := [],
    gens := Vector.ofFn (fun i : Fin 64 => srInit i.val j), live := 128, cycle := 0, yieldCount := 0,
    vecQ := [], matQ := [], strmQ := [], recvs := [], xferQ := [], reqs := [], errs := [], waiting := none,
    stopped := false, atYield := false }

/-- The scratchpad of a core holds undefined bytes when a command starts on it (R56). -/
def freshSpad (s : State) (k : Nat) : State :=
  match s.spadBase k with
  | none => s
  | some b => loseSpan s b 0x80000

/-- Place the copies of a RUN from index `j` upward. -/
def placeCopies (s : State) (ctx q n ncore : Nat) (raw : BitVec 512) : Nat → List Nat → State
  | _, [] => s
  | j, k :: t =>
    placeCopies ((freshSpad s k).setCore k { s.core k with
      prog := some (Prog.initial ctx q n j ncore raw), preempt := none, saving := false, placed := s.time, since := (s.core k).progress })
      ctx q n ncore raw (j + 1) t

/-! ### Save area (R336) -/

/-- Memory key of save slot `i` of a sail. -/
def saveSlot (s : State) (sl i : Nat) : Nat :=
  match s.desc sl with
  | none => 0
  | some d => d.saveBase + 589824 * i

/-- How many save slots a sail has. -/
def saveSlots (s : State) (sl : Nat) : Nat :=
  match s.desc sl with
  | none => 0
  | some d => d.saveLen / 9

/-- Save slots in use: saved copies, and cores whose context is asked to leave. -/
def saveUsed (s : State) (sl : Nat) : Nat :=
  (s.sail sl).saved.length +
    (s.cores.filter (fun p => (p.2.preempt.isSome || p.2.saving) && p.2.prog.isSome &&
      s.clusterSail (p.1 / 34) == some sl)).length

/-- The lowest save slot that holds nothing. -/
def freeSaveSlot (s : State) (sl : Nat) : Nat :=
  ((List.range ((s.sail sl).saved.length + 1)).find?
    (fun i => !(s.sail sl).saved.any (fun v => v.slot == i))).getD 0

/-- The poison marks of a scratchpad as the 2,048 bytes of the saved image. -/
def poisonBytes (s : State) (base : Nat) : List Byte :=
  leBytes 2048 ((List.range 16384).foldr (fun g a => 2 * a + (if isPoison s (base + 32 * g) then 1 else 0)) 0)

/-- Write the saved image of the program on core `k` into slot `i` (R89, R336): poison marks, zeros, and the scratchpad below
LIVE. The register state stands in the saved copy; the spec gives its bytes in memory no form, and those above LIVE are
undefined. -/
def writeImage (s : State) (sl k i : Nat) (p : Prog) : State :=
  match s.spadBase k with
  | none => s
  | some b =>
    let d := saveSlot s sl i
    let s1 := store (loseSpan s d 25600) (d + 25600) (poisonBytes s b)
    let s2 := store s1 (d + 27648) (List.replicate (65536 - 27648) 0)
    let s3 := store s2 (d + 65536) (readBytes s2 b (4096 * p.live.toNat))
    let n := 4096 * p.live.toNat
    if n < 0x80000 then loseSpan s3 (d + 65536 + n) (0x80000 - n) else s3

/-- Bring the saved image of slot `i` back to core `k`: the bytes below LIVE with their marks; the bytes at
or above LIVE are undefined (R56, R89, R90). -/
def readImage (s : State) (sl k i : Nat) (p : Prog) : State :=
  match s.spadBase k with
  | none => s
  | some b =>
    let d := saveSlot s sl i
    let n := 4096 * p.live.toNat
    let marks := readNat s (d + 25600) 2048
    let s1 := loseSpan s b 0x80000
    let s2 := writeBytes s1 b (readBytes s1 (d + 65536) n)
    (List.range (n / 32)).foldl (fun s g => setPoison s (b + 32 * g) (marks.testBit g)) s2

/-! ### Placing -/

/-- Restore the copies of a pre-empted command. -/
def restoreCopies (s : State) (sl : Nat) : List Saved → State
  | [] => s
  | v :: t =>
    let s := readImage s sl v.lc v.slot v.prog
    restoreCopies (s.setCore v.lc { s.core v.lc with
      prog := some v.prog, preempt := none, saving := false, placed := s.time, since := (s.core v.lc).progress }) sl t

/-- Add the time since a command became ready to its WAIT (R310, R333). -/
def addWait (s : State) (q n : Nat) : State :=
  s.updCmd q n (fun c => { c with wait := c.wait + (s.time - c.readyAt).toNat })

/-- Whether a core is kept for another context while that one is replayed (R424). -/
def reservedCore (s : State) (k c : Nat) : Bool :=
  match s.coreRouter k with
  | none => false
  | some r => reservedFrom s 0 r c

/-- Place one ready RUN whose cores are all free. -/
def placeRun (s : State) (sl : Nat) (r : ReadyRun) : State :=
  if !(r.cores.all (fun k => coreFree s sl k && !reservedCore s k r.ctx)) then s
  else if r.restore then
    let v := savedOf s sl r.q r.n
    let s := restoreCopies s sl v
    let s := s.updSail sl (fun x => { x with saved := x.saved.filter (fun w => !(w.prog.q == r.q && w.prog.n == r.n)) })
    addWait s r.q r.n
  else
    match s.cmd r.q r.n with
    | none => s
    | some c =>
      let s := placeCopies s r.ctx r.q r.n r.cores.length c.raw 0 r.cores
      let s := addWait s r.q r.n
      s.updCmd r.q r.n (fun c => { c with phase := .executing, parts := r.cores.length, startAt := s.time })

/-- Whether the scheduler may place programs of a sail: it is RUNNING (08, SAIL_STATUS) and not being
recovered. -/
def sailRuns (s : State) (sl : Nat) : Bool := (s.sail sl).state == 1 && !(s.sail sl).recovering

/-- Whether ready RUN `r` asks for the pre-emption of the program on core `k` (R332). -/
def asksPreempt (s : State) (sl : Nat) (r : ReadyRun) (k : Nat) : Bool :=
  match s.prog k with
  | none => false
  | some p =>
    let need := (s.cores.filter (fun x => match x.2.prog with
      | some g => g.q == p.q && g.n == p.n
      | none => false)).length
    r.cores.contains k && p.ctx != r.ctx && !p.stopped && (s.core k).preempt.isNone && !(s.core k).saving &&
      ((readyRuns s sl).find? (fun t => t.cores.contains k)).map (·.ctx) == some r.ctx &&
      decide (r.pass < ctxPass s p.ctx) &&
      decide ((s.time - (s.core k).placed).toNat ≥ 1000 * (s.sail sl).quantum) &&
      decide (saveUsed s sl + need ≤ saveSlots s sl)

/-- Request the pre-emption of command (q, n) on every core of its set (R332); a deferral is noted at the
yield points (R337). -/
def requestPreempt (s : State) (q n : Nat) : State :=
  { s with cores := s.cores.map (fun x => match x.2.prog with
    | some g =>
      if g.q == q && g.n == n && x.2.preempt.isNone && !x.2.saving then
        (x.1, { x.2 with preempt := some s.time })
      else x
    | none => x) }

/-- The scheduling sequencer of a sail (R332): place every ready RUN whose cores are free, lowest pass
first, then request the pre-emptions that are due. -/
def schedule (s : State) (sl : Nat) : State :=
  if !sailRuns s sl then s
  else
    let s := (readyRuns s sl).foldl (fun s r => placeRun s sl r) s
    (readyRuns s sl).foldl (fun s r =>
      r.cores.foldl (fun s k =>
        if asksPreempt s sl r k then
          match s.prog k with
          | none => s
          | some p => requestPreempt s p.q p.n
        else s) s) s

/-- Schedule the sail of a context. -/
def scheduleCtx (s : State) (c : Nat) : State :=
  match s.ctxSail c with
  | none => s
  | some sl => schedule s sl

/-- Take the program off core `k` and charge its time; its progress counts for its queue (R414). -/
def clearCore (s : State) (k : Nat) : State :=
  let s := match s.prog k with
    | none => s
    | some p => addProgress s 6 p.q ((s.core k).progress - (s.core k).since)
  let s := charge s k
  s.setCore k { s.core k with prog := none, preempt := none, saving := false }

/-! ### The end of context operations (R325, R429) -/

/-- The object kind and index under which the ladder logs a step on a reach. -/
def LadderReach.object (s : State) : LadderReach → Nat × Nat
  | .context c => (5, (s.ctxSail c).getD 0)
  | .block k i => logObject s k i
  | .cluster c => (4, c)
  | .sail i => (5, i)
  | .device => (13, 0)

/-- Whether a step runs, or ended within the last second (R421). -/
def recentStep (now : Word) (t : LadderStep) : Bool :=
  match t.ended with
  | none => true
  | some e => decide ((now - e).toNat < 1000000000)

/-- A step of the ladder starts (R420): its RECOVERY record. -/
def beginStep (s : State) (code : Nat) (r : LadderReach) (cause : Nat) : State :=
  let st : LadderStep := { id := s.ttl.nextStep, code := code, cause := cause, reach := r, started := s.time, ended := none }
  let s := { s with ttl := { s.ttl with steps := s.ttl.steps.filter (recentStep s.time) ++ [st], nextStep := s.ttl.nextStep + 1 } }
  let o := r.object s
  match r with
  | .context c => logUnit s 5 code o.1 o.2 cause (s.ctxSail c) (some c)
  | .sail i => logUnit s 5 code o.1 o.2 cause (some i)
  | _ => logUnit s 5 code o.1 o.2 cause

/-- The running steps of a code on a reach end (R420). -/
def endStep (s : State) (code : Nat) (r : LadderReach) : State :=
  match s.ttl.steps.find? (fun t => t.code == code && t.reach == r && t.ended.isNone) with
  | none => s
  | some t =>
    let cause := t.cause
    let o := r.object s
    let s := { s with ttl := { s.ttl with steps := s.ttl.steps.map (fun t =>
      if t.code == code && t.reach == r && t.ended.isNone then { t with ended := some s.time } else t) } }
    match r with
    | .context c => logUnit s 5 code o.1 o.2 cause (s.ctxSail c) (some c)
    | .sail i => logUnit s 5 code o.1 o.2 cause (some i)
    | _ => logUnit s 5 code o.1 o.2 cause

/-- Whether a program of a context stands on a core or in the save area. -/
def hasPrograms (s : State) (c : Nat) : Bool :=
  isResident s c || s.sails.any (fun p => p.2.saved.any (fun v => v.prog.ctx == c))

/-- The mailbox of a sail reports the end of an operation on a context (R298). -/
def endCtxOp (s : State) (sl c : Nat) (st : Status) : State :=
  s.updSail sl (fun x => if x.busy && x.resCtx == c then { x with busy := false, status := st } else x)

/-- A context operation ends once no unit acts for it any longer: a DESTROY when every program has ended, every
group is settled and every queue is IDLE (R325); a RESET when every program has ended (R429). -/
def settleCtx (s : State) (c : Nat) : State :=
  let x := s.ctx c
  match s.ctxSail c with
  | none => s
  | some sl =>
    if hasPrograms s c then s
    else if x.st == .destroying then
      if s.groups.any (fun p => p.2.st != .free && p.2.ctx == c) ||
        s.queues.any (fun p => decide (p.1 < 8192) && p.2.ctx == c && p.2.st != .idle) then s
      else endCtxOp (s.setCtx c Ctx.empty) sl c .done
    else if x.st == .resetting then
      endCtxOp (endStep (s.updCtx c (fun x => { x with st := .active })) 1 (.context c)) sl c .done
    else s

/-- The program on core `k` ends (R67, R95): its core is freed and one piece of its command has ended. -/
def endCopy (s : State) (k : Nat) : State :=
  match s.prog k with
  | none => s
  | some p =>
    let s := settleCtx (endPart (clearCore s k) p.q p.n) p.ctx
    scheduleCtx s p.ctx

/-! ### Semaphores (R82, R316, R317) -/

/-- The hold of a context on a semaphore. -/
def Ctx.hold (x : Ctx) (i : Nat) : Nat := ((x.holds.find? (fun h => h.sem == i)).map (·.units)).getD 0

/-- Set the hold of a context; a hold of 0 is not listed. -/
def Ctx.setHold (x : Ctx) (i u : Nat) : Ctx :=
  let l := x.holds.filter (fun h => h.sem != i)
  { x with holds := if u = 0 then l else l ++ [{ sem := i, units := u }] }

/-- Grant waiting acquires in order while VALUE covers them (R317): the semaphore left, and the acquires
granted. -/
def grantWaiters : Nat → List SemWait → Nat × List SemWait × List SemWait
  | v, [] => (v, [], [])
  | v, w :: t =>
    if w.units ≤ v then
      let r := grantWaiters (v - w.units) t
      (r.1, w :: r.2.1, r.2.2)
    else (v, [], w :: t)

/-- A granted acquire: the hold of its context grows. The waiting instruction finds its grant when it
resumes. -/
def grantAll (s : State) (i : Nat) (l : List SemWait) : State :=
  l.foldl (fun s w =>
    let s := s.updCtx w.ctx (fun x => x.setHold i (x.hold i + w.units))
    s.setCore w.lc { s.core w.lc with prog := (s.core w.lc).prog.map (fun p =>
      { p with waiting := p.waiting.map (fun z => { z with why := .granted }) }) }) s

/-- A release of `u` units (R317): clamped to MAX, the excess counted in OVF. -/
def semRelease (s : State) (i u : Nat) : State :=
  let m := s.sem i
  let v := min m.max (m.value + u)
  let o := m.value + u - v
  let r := grantWaiters v m.waiters
  grantAll (s.setSem i { m with value := r.1, ovf := min 0xFFFF (m.ovf + o), waiters := r.2.2 }) i r.2.1

/-- Drop the waiting acquires of core `k`. -/
def dropWaiters (s : State) (k : Nat) : State :=
  s.sems.foldl (fun s p =>
    s.setSem p.1 { p.2 with waiters := p.2.waiters.filter (fun w => w.lc != k) }) s

/-- After waiters have left a semaphore, the next ones may be granted. -/
def regrant (s : State) : State := s.sems.foldl (fun s p => semRelease s p.1 0) s

/-- Release every hold of a context (R337, R325). -/
def releaseHolds (s : State) (c : Nat) : State :=
  let l := (s.ctx c).holds
  let s := s.updCtx c (fun x => { x with holds := [] })
  l.foldl (fun s h => semRelease s h.sem h.units) s

/-- The smallest hold limit among the semaphores a context holds, in ns (R337). -/
def holdLimit (s : State) (c : Nat) : Option Nat :=
  (s.ctx c).holds.foldl (fun a h =>
    match a with
    | none => some (1000 * (s.sem h.sem).hold)
    | some m => some (min m (1000 * (s.sem h.sem).hold))) none

end Sys2Proof.Machine
end

