-- ==== Sys2Proof/Machine/LocalPort.lean ====
section
/-! DEFINITION. The local interfaces of the routers (R149 to R155): the frames that a unit queues on its tags, messages cut
into frames, a message that ends early, and the requests that an endpoint holds in the order of their stream.
Choices of the model here: log entry 19 (DESIGN CHOICE). -/

namespace Sys2Proof.Machine

open Sys2Proof

/-! ### Queues of a tag (R151) -/

/-- The key of a tag at a router. -/
def tagKey (r tag : Nat) : Nat := 4096 * r + tag

/-- The frames that the queue of a tag holds: 2 at a core router, 8 at a yard or edge router (R151). -/
def tagDepth (r : Nat) : Nat := if r < 2304 then 2 else 8

/-- The unit queues the frames that it waits to queue while the tag has room (R151). -/
def moveUp (s : State) (r tag : Nat) : State :=
  let key := tagKey r tag
  let q := s.mesh.iface.get [] key
  let w := s.mesh.pend.get [] key
  let n := tagDepth r - q.length
  { s with mesh := { s.mesh with
      iface := s.mesh.iface.set [] key (q ++ w.take n)
      pend := s.mesh.pend.set [] key (w.drop n) } }

/-- A unit has frames to send on a tag. -/
def enqueue (s : State) (r tag : Nat) (l : List Frame) : State :=
  moveUp { s with mesh := { s.mesh with pend := s.mesh.pend.upd [] (tagKey r tag) (fun w => w ++ l) } } r tag

/-! ### Messages (R144) -/

/-- The frames of a message: 64 bytes each, the last of 32 bytes when its length asks for it; a message without bytes is one
frame. A frame is poisoned when one of its 32-byte units is. -/
def messageFrames (sl tag : Nat) (note : Option (Nat × Status)) (marks : List Bool) (l : List Byte) : List Frame :=
  let n := max 1 ((l.length + 63) / 64)
  (List.range n).map (fun i =>
    let b := (l.drop (64 * i)).take 64
    Frame.sealed
      { sail := BitVec.ofNat 6 sl, srcTag := BitVec.ofNat 12 tag, first := i == 0, last := i + 1 == n,
        poison := marks.getD (2 * i) false || marks.getD (2 * i + 1) false,
        half := decide (b.length ≤ 32), crc := 0, payload := b ++ List.replicate (64 - b.length) 0, note := note })

/-- The payload bytes of a frame (R144). -/
def Frame.bytes (f : Frame) : List Byte := f.payload.take (if f.half then 32 else 64)

/-- A frame that ends a message cut short (R153). -/
def truncation (sl : Nat) (tag : Nat) : Frame :=
  Frame.sealed { sail := BitVec.ofNat 6 sl, srcTag := BitVec.ofNat 12 tag, first := false, last := true,
                 poison := true, half := false, crc := 0, payload := List.replicate 64 0 }

/-- The sail whose message is left incomplete on a tag by the frames that have left its interface (R153). -/
def partialSail (s : State) (r tag : Nat) : Option Nat :=
  match s.mesh.partial_.get 0 (tagKey r tag) with
  | 0 => none
  | n + 1 => some n

/-- The sail whose message the frames of a tag, sent and queued, leave incomplete. -/
def openSail (s : State) (r tag : Nat) : Option Nat :=
  let key := tagKey r tag
  match (s.mesh.iface.get [] key ++ s.mesh.pend.get [] key).getLast? with
  | some f => if f.last then none else some f.sail.toNat
  | none => partialSail s r tag

/-- A unit abandons the message that it sends on a tag: the receiver sees its end (R153). -/
def abandon (s : State) (r tag : Nat) : State :=
  match openSail s r tag with
  | none => s
  | some sl => enqueue s r tag [truncation sl tag]

/-- The receiver of a stream whose message is abandoned sees its end (R95, R153). -/
def truncate (s : State) (k : Nat) (st : BitVec 4) : State :=
  match s.coreRouter k with
  | some r => abandon s r st.toNat
  | none => s

/-- The core tags 0x000 to 0x011 of a router (R149, R153). -/
def coreTags : List Nat := List.range 18

/-- One tag of a router from which R153 keeps the core's frames: what is queued goes, and a message left incomplete ends with one
frame. -/
def holdTag (s : State) (r tag : Nat) : State :=
  let key := tagKey r tag
  { s with mesh := { s.mesh with
      iface := s.mesh.iface.set [] key (match partialSail s r tag with
        | none => []
        | some sl => [truncation sl tag])
      pend := s.mesh.pend.set [] key []
      rx := s.mesh.rx.set [] key [] } }

/-- The credits of the streams that begin or end at a router start again at 0: neither side counts on a buffer of the other. -/
def dropCredits (s : State) (r : Nat) : State :=
  match s.rig.active with
  | none => s
  | some g => g.streams.foldl (fun s d =>
      if !d.request && (d.srcRouter == r || d.dstRouter == r) then
        { s with mesh := { s.mesh with
            credit := s.mesh.credit.set 0 (tagKey d.srcRouter d.srcTag) 0
            grant := s.mesh.grant.set 0 (tagKey d.dstRouter d.dstTag) 0 } }
      else s) s

/-- The core tags of a router are held (R153): a fence, a reset of the core alone, a core that becomes a spare or loses its
sail. -/
def holdTags (s : State) (r : Nat) : State := coreTags.foldl (fun s t => holdTag s r t) (dropCredits s r)

/-! ### Requests at an endpoint (R154, R155) -/

/-- Send the returns that are ready and have no earlier return of their stream before them (R155). -/
def sendReturns (s : State) (key : Nat) : State :=
  let l := s.mesh.eps.get [] key
  let ready := l.takeWhile (fun e => e.ret.isSome)
  let s := { s with mesh := { s.mesh with eps := s.mesh.eps.set [] key (l.drop ready.length) } }
  enqueue s (key / 4096) (key % 4096) (ready.flatMap (fun e =>
    match e.ret with
    | none => []
    | some (st, b, marks) =>
      messageFrames e.sail (key % 4096) (some (e.seq, st)) marks (if st == .done then b else [])))

/-- The endpoint that holds the request of a core under a tag. -/
def endpointOf (s : State) (lc tag : Nat) : Option Nat :=
  (s.mesh.eps.find? (fun p => p.2.any (fun e => e.lc == lc && e.tag == tag && e.ret.isNone))).map (·.1)

/-- The return of a core's request is ready at its endpoint (R155). -/
def endpointReturn (s : State) (lc tag : Nat) (st : Status) (bytes : List Byte) (marks : List Bool) : State :=
  match endpointOf s lc tag with
  | none => s
  | some key =>
    sendReturns { s with mesh := { s.mesh with eps := s.mesh.eps.upd [] key (fun l => l.map (fun e =>
      if e.lc == lc && e.tag == tag && e.ret.isNone then { e with ret := some (st, bytes, marks) } else e)) } } key

end Sys2Proof.Machine
end

