-- ==== Sys2Proof/Machine/Flags.lean ====
section
/-! DEFINITION. Element operations with their arithmetic flags (R45 to R48, R70): scalar results of core
ALU instructions, vector element functions, reductions.
Choices of the model here: log entry 15 (DEDUCED), log entry 68 (DEDUCED). -/

namespace Sys2Proof.Machine

open Sys2Proof

/-- Apply an element function to each of `n` elements, collecting results and flags. -/
def elems (n : Nat) (f : Nat → Nat × BitVec 5) : List Nat × BitVec 5 :=
  (List.range n).foldr (fun i a => ((f i).1 :: a.1, (f i).2 ||| a.2)) ([], 0)

/-- A vector of elements of width `w` from its packed codes. -/
def packVec (w : Nat) (l : List Nat) : BitVec 2048 := BitVec.ofNat 2048 (packElems w l)

/-- RM of the vector unit (R45): 00 RNE, 01 RTZ. -/
def vecRnd (rm : BitVec 2) : Rnd := if rm = 1 then .rtz else .rne

/-- Integer result at width `w`: wrapped, or clamped under SAT with IS (R45). -/
def intResult (w : Nat) (sat : Bool) (v : Int) : Nat × BitVec 5 :=
  if sat then
    let c := clampInt w v
    (encodeInt w c.1, if c.2 then fIS else 0)
  else (encodeInt w v, 0)

/-- One element of an operation on FP32 or BF16 (R45, R46). -/
def floatElem (op : VOp) (f : Fmt) (rm : Rnd) (a b c : Nat) : Nat × BitVec 5 :=
  let x := decodeElem f a
  let y := decodeElem f b
  let z := decodeElem f c
  let fin := fun (r : Val × BitVec 5) =>
    let o := toIeee f rm r.1
    (o.1, o.2 ||| r.2)
  let finS := fun (r : Val × Bool × BitVec 5) =>
    let o := toIeee f rm r.1 r.2.1
    (o.1, o.2 ||| r.2.2)
  match op with
  | .add => fin (vAdd x y)
  | .sub => fin (vAdd x (vNeg y))
  | .mul => fin (vMul x y)
  | .fma => fin (vFma x y z)
  | .min => fin (vMin x y, 0)
  | .max => fin (vMax x y, 0)
  | .div => finS (vDiv x y)
  | .rcp => finS (vRcp x)
  | .rsqrt => finS (vRsqrt x)
  | .exp2 => finS (vExp2 x)
  | .log2 => finS (vLog2 x)
  | _ => (a, 0)

/-- One element of an operation on INT8 or INT32 (R45, R69). -/
def intElem (op : VOp) (w : Nat) (sat : Bool) (a b c : Nat) : Nat × BitVec 5 :=
  let x := decodeInt w a
  let y := decodeInt w b
  match op with
  | .add => intResult w sat (x + y)
  | .sub => intResult w sat (x - y)
  | .mul => intResult w sat (x * y)
  | .min => (encodeInt w (min x y), 0)
  | .max => (encodeInt w (max x y), 0)
  | .and => (a &&& b, 0)
  | .or => (a ||| b, 0)
  | .xor => (a ^^^ b, 0)
  | .shl => (a <<< (b % 32) % 2 ^ w, 0)
  | .shr => (encodeInt w (x / (2 ^ (b % 32) : Nat)), 0)
  | .sel => (if c % 2 = 1 then a else b, 0)
  | _ => (a, 0)

/-- One element of a VALU operation in its format. -/
def aluElem (op : VOp) (f : Fmt) (rm : Rnd) (sat : Bool) (a b c : Nat) : Nat × BitVec 5 :=
  match f with
  | .int8 => intElem op 8 sat a b c
  | .int32 => intElem op 32 sat a b c
  | _ => floatElem op f rm a b c

/-- One level of the binary tree of R70: adjacent results combine. -/
def treeLevel (g : Nat → Nat → Nat × BitVec 5) : List Nat → List Nat × BitVec 5
  | a :: b :: t =>
    let r := treeLevel g t
    ((g a b).1 :: r.1, (g a b).2 ||| r.2)
  | l => (l, 0)

/-- `n` levels of the tree. -/
def tree (g : Nat → Nat → Nat × BitVec 5) : Nat → List Nat → List Nat × BitVec 5
  | 0, l => (l, 0)
  | n + 1, l =>
    let r := treeLevel g l
    let q := tree g n r.1
    (q.1, r.2 ||| q.2)

/-- A VALU operation on whole registers (R69, R70): the result and the flags. `sa` is s[VA] for VBCAST. -/
def aluVector (op : VOp) (f : Fmt) (rm : Rnd) (sat : Bool) (sa : Word) (x y z : BitVec 2048) :
    BitVec 2048 × BitVec 5 :=
  match op with
  | .bcast => (ofLanes (fun _ => sa.extractLsb' 0 32), 0)
  | .mov => (x, 0)
  | .redsum =>
    let r := tree (fun a b => aluElem .add f rm sat a b 0) 6 ((List.range 64).map (fun i => (laneOf x i).toNat))
    (BitVec.ofNat 2048 (r.1.headD 0), r.2)
  | .redmax =>
    let r := tree (fun a b => aluElem .max f rm sat a b 0) 6 ((List.range 64).map (fun i => (laneOf x i).toNat))
    (BitVec.ofNat 2048 (r.1.headD 0), r.2)
  | _ =>
    let w := f.width
    let r := elems (2048 / w) (fun i =>
      aluElem op f rm sat (packedElem w x.toNat i) (packedElem w y.toNat i) (packedElem w z.toNat i))
    (packVec w r.1, r.2)

/-- The rounding of element `k` of a conversion: under SR the generator of lane k mod 64 steps and gives the
rounding word (R40, also for a packed source, log entry 68); `step` says whether the conversion steps it. -/
def stepRnd (p : Prog) (rm : BitVec 2) (step : Bool) (k : Nat) : Prog × Rnd :=
  match rm.toNat with
  | 0 => (p, .rne)
  | 1 => (p, .rtz)
  | _ =>
    if step then
      let r := p.draw (k % 64)
      (r.1, .sr r.2)
    else (p, .rne)

/-- Convert a list of values, element `k` onward, one after another (R40, R42). -/
def cvtList (src dst : Fmt) (rm : BitVec 2) (ovf : Bool) (shift : Nat) (p : Prog) (k : Nat) :
    List Val → Prog × List Nat × BitVec 5
  | [] => (p, [], 0)
  | v :: t =>
    let r := stepRnd p rm (cvtSteps src dst) k
    let o := convert src dst r.2 ovf shift v
    let q := cvtList src dst rm ovf shift r.1 (k + 1) t
    (q.1, o.1 :: q.2.1, o.2 ||| q.2.2)

/-- The elements of one MX block, element `k` onward (R43, step 5). -/
def mxList (dst : Fmt) (x : Int) (rm : BitVec 2) (p : Prog) (k : Nat) :
    List Val → Prog × List Nat × BitVec 5
  | [] => (p, [], 0)
  | v :: t =>
    let r := stepRnd p rm true k
    let o := mxElement dst x r.2 v
    let q := mxList dst x rm r.1 (k + 1) t
    (q.1, o.1 :: q.2.1, o.2 ||| q.2.2)

/-- One MX block of 32 values (R43): the program with its generators, the scale byte, the element codes and
the flags. -/
def mxBlock (dst : Fmt) (rm : BitVec 2) (p : Prog) (k : Nat) (vs : List Val) :
    Prog × Nat × List Nat × BitVec 5 :=
  match mxScale dst vs with
  | none => (p, 255, vs.map (fun _ => 0), fNV)
  | some none => (p, 0, vs.map (mxZero dst), 0)
  | some (some x) =>
    let r := mxList dst x rm p k vs
    (r.1, (x + 127).toNat, r.2.1, r.2.2)

/-- The bytes of a list of packed codes of width `w` (R23). -/
def codeBytes (w : Nat) (l : List Nat) : List Byte := leBytes (w * l.length / 8) (packElems w l)

end Sys2Proof.Machine
end

