-- ==== Sys2Proof/Machine/Regulate.lean ====
section
/-! DEFINITION. Guarantees at the memory resources (R101, R138, R177, R181, R344 to R349): derated rates, credits and
bytes served, the share of table-cache ways, the events of a sail.
Choices of the model here: log entry 40 (DEDUCED), log entry 70 (DESIGN CHOICE). -/

namespace Sys2Proof.Machine

open Sys2Proof

/-! ### Budgets and rates -/

/-- The budget in ns per window of an activity on a unit, under a rig (R349). -/
def Rig.budgetOf (r : Rig) (code unit dflt : Nat) : Nat :=
  match r.budget.find? (fun b => b.code == code && b.unit == unit) with
  | none => dflt
  | some b => b.ns

/-- The share of a 10 µs window, in ns, that background activity takes of a resource of class `rc` (R137, R177,
R181, R344). -/
def Rig.background (r : Rig) (rc i : Nat) (hot : Bool) : Nat :=
  match rc with
  | 0 => (if hot then 1800 else 900) + r.budgetOf 1 i 100 + r.budgetOf 2 i 50
  | 1 => (if hot then 800 else 400) + r.budgetOf 6 i 100 + r.budgetOf 7 i 100
  | 2 => r.budgetOf 8 i 50
  | 3 => r.budgetOf 8 i 50
  | _ => 0

/-- CXL port `i`. -/
def State.cxl (s : State) (i : Nat) : CxlPort := if i = 0 then s.tiers.cxl[0] else s.tiers.cxl[1]

def State.setCxl (s : State) (i : Nat) (p : CxlPort) : State :=
  { s with tiers := { s.tiers with cxl := if i = 0 then s.tiers.cxl.set 0 p else s.tiers.cxl.set 1 p } }

/-- The rate of a resource in ten-thousandths of its nominal rate: now, and by the rig's budgets at the normal
refresh budget (R348). -/
def rateNow (s : State) (r : Rig) (rc i : Nat) : Nat :=
  match rc with
  | 0 => let c := s.tiers.chan.get ChanRate.reset i
         if c.fenced then 0 else 10000 - r.background 0 i c.hot
  | 1 => let c := s.tiers.gchan.get ChanRate.reset i
         if c.fenced then 0 else 10000 - r.background 1 i c.hot
  | 2 => if (s.cxl i).up && !(s.cxl i).fenced then 10000 - r.background 2 i false else 0
  | 3 => if (s.cxl i).up && !(s.cxl i).fenced then 10000 - r.background 3 i false else 0
  | _ => 10000

def rateRef (r : Rig) (rc i : Nat) : Nat := 10000 - r.background rc i false

/-- f × 65,536 of an entry (R348, SAIL_REEF_STATE). -/
def reefScale (s : State) (r : Rig) (e : ReefDef) : Nat :=
  min 65536 (65536 * rateNow s r e.rclass e.index / max 1 (rateRef r e.rclass e.index))

/-- The current guarantee of an entry: floor(RATE × f). -/
def reefRate (s : State) (r : Rig) (e : ReefDef) : Nat :=
  min e.rate (e.rate * rateNow s r e.rclass e.index / max 1 (rateRef r e.rclass e.index))

/-- The rate in units of 0.1 GB/s that a rate register reports: the nearest unit (R101, R177, R181). -/
def reportedRate (nominal tenThousandths : Nat) : Nat := (nominal * tenThousandths + 5000) / 10000

/-! ### Events of a sail -/

inductive SailEvent where
  | degraded | restored | fallback
deriving DecidableEq, Repr

/-- Whether an event bit is set. -/
def SailEvent.isSet (e : SailEvent) (x : Sail) : Bool :=
  match e with
  | .degraded => x.evDegraded
  | .restored => x.evRestored
  | .fallback => x.evFallback

def SailEvent.mark (e : SailEvent) (x : Sail) : Sail :=
  match e with
  | .degraded => { x with evDegraded := true }
  | .restored => { x with evRestored := true }
  | .fallback => { x with evFallback := true }

/-- The MSI-X vectors of a function (R289). -/
def vectors : HostFn → Nat
  | .vf _ _ => 256
  | _ => 2048

/-- Send one MSI-X message; there is none on a vector that the function does not have (log entry 70). -/
def sendMsix (s : State) (fn : HostFn) (v : Nat) : State :=
  let m : Msix := { fn := fn, vector := v }
  if v ≥ vectors fn then s else { s with hif := { s.hif with msix := s.hif.msix ++ [m] } }

/-- Set an event bit of a sail (SAIL_EVENT); with IRQ its VF on PORT sends one message when the bit becomes set. -/
def raiseEvent (s : State) (sl : Nat) (e : SailEvent) : State :=
  let x := s.sail sl
  let s1 := s.setSail sl (e.mark x)
  if x.evIrq && !e.isSet x then
    let vf := match s.desc sl with
      | none => 0
      | some d => if x.evPort then d.vf1 else d.vf0
    if vf = 0 then s1 else sendMsix s1 (.vf (if x.evPort then 1 else 0) vf) x.evVector.toNat
  else s1

/-- Raise what a change of rates means for every sail (R348): REGULATION_DEGRADED when f of one of its entries has
fallen, REG_RESTORED when every entry is back at f = 1. -/
def regulated (old new : State) : State :=
  match new.rig.active with
  | none => new
  | some r =>
    r.sails.foldl (fun s p =>
      let l := r.reef.filter (fun e => e.sail == p.1)
      let fell := l.any (fun e => decide (reefScale new r e < reefScale old r e))
      let wasFull := l.all (fun e => reefScale old r e == 65536)
      let isFull := l.all (fun e => reefScale new r e == 65536)
      if fell then raiseEvent s p.1 .degraded
      else if isFull && !wasFull then raiseEvent s p.1 .restored
      else s) new

/-- Change the rate state of a DRAM or GDDR7 channel; CHANGED is set when the rate changes (R138, R177). -/
def setChan (s : State) (gddr : Bool) (c : Nat) (f : ChanRate → ChanRate) : State :=
  let t := if gddr then s.tiers.gchan else s.tiers.chan
  let old := t.get ChanRate.reset c
  let x := f old
  let y := if x.hot != old.hot || x.fenced != old.fenced then { x with changed := true } else x
  let t' := t.set ChanRate.reset c y
  regulated s { s with tiers := if gddr then { s.tiers with gchan := t' } else { s.tiers with chan := t' } }

/-- Change a CXL port; CHANGED is set when its rate changes. -/
def setCxlRate (s : State) (i : Nat) (f : CxlPort → CxlPort) : State :=
  let old := s.cxl i
  let x := f old
  let y := if (x.up && !x.fenced) != (old.up && !old.fenced) then { x with changed := true } else x
  regulated s (s.setCxl i y)

/-- A Ryurun port that is fenced degrades every sail with a lease on it (R348). -/
def degradePort (s : State) (port : Nat) : State :=
  match s.rig.active with
  | none => s
  | some r =>
    match Tbl.look r.links port with
    | none => s
    | some l => r.sails.foldl (fun s p => if l.leases.contains p.1 then raiseEvent s p.1 .degraded else s) s

/-! ### Credit and bytes (R346) -/

/-- The reef resource of a memory key, for a direction. -/
def reefOf (key : Nat) (write : Bool) : Option (Nat × Nat) :=
  match regionOf key with
  | some (.dram c) => some (0, c)
  | some (.gddr c) => some (1, c)
  | some (.far g) => some (if write then 3 else 2, g / 2048)
  | _ => none

/-- The entry of a rig for a resource, sail and class, with its place in the section. -/
def Rig.reefEntry (r : Rig) (rc i sl tc : Nat) : Option (Nat × ReefDef) :=
  match r.reef.findIdx? (fun e => e.rclass == rc && e.index == i && e.sail == sl && e.tclass == tc) with
  | none => none
  | some k => (r.reef[k]?).map (fun e => (k, e))

/-- The routers of the unit that holds a reef resource. -/
def reefUnit (rc i : Nat) : List Nat :=
  match rc with
  | 0 => yardUnit (i / 8)
  | 1 => gddrUnit i
  | 4 => yardUnit i
  | _ => hostUnit i

/-- The place of the credit of entry `k`: 65,536 more for one of the former rig (R278). -/
def creditKey (s : State) (rc i k : Nat) : Nat := if s.unitWaits (reefUnit rc i) then 65536 + k else k

/-- REEF_WINDOW (R346): a 10 µs window of a resource starts; every entry gets its credit, and what was left is
lost. -/
def reefWindow (rc i : Nat) (s : State) : State :=
  let w := s.time.toNat / 10000
  let key := 110000 + 8192 * rc + i
  match s.unitRig (reefUnit rc i) with
  | none => s
  | some r =>
    if s.tiers.budget.get 0 key < w then
      let s := { s with tiers := { s.tiers with budget := s.tiers.budget.set 0 key w } }
      (r.reef.zipIdx.filter (fun p => p.1.rclass == rc && p.1.index == i)).foldl (fun s p =>
        let c := 1000 * p.1.rate * rateNow s r rc i / max 1 (rateRef r rc i)
        { s with tiers := { s.tiers with reef := s.tiers.reef.upd ReefState.zero (creditKey s rc i p.2) (fun x =>
            { x with credit := c }) } }) s
    else s

/-- A request of `n` bytes at a memory key that arrived at `since` is served for a sail's class: it spends its bytes, in the window of its
own stamp, and is late at or after its target (R6, R346). -/
def spendFrom (since : Word) (s : State) (sl tc key n : Nat) (write : Bool) : State :=
  let s := if decide (farBase ≤ key) && decide (key < farEnd) then progress s 8 ((key - farBase) / 2 ^ 41) else s
  match reefOf key write with
  | some (rc, i) =>
    let s := reefWindow rc i s
    match (s.unitRig (reefUnit rc i)).bind (fun r => r.reefEntry rc i sl tc) with
    | none => s
    | some (k, e) =>
      let late := e.latency != 0 && decide (e.latency ≤ (s.time - since).toNat)
      { s with tiers := { s.tiers with reef := s.tiers.reef.upd ReefState.zero (creditKey s rc i k) (fun x =>
        { x with credit := x.credit - n, bytes := x.bytes + BitVec.ofNat 64 n, late := x.late + (if late then 1 else 0) }) } }
  | none => s

/-- A request that is served as it arrives. -/
def spend (s : State) (sl tc key n : Nat) (write : Bool) : State := spendFrom s.time s sl tc key n write

/-- The ways that a class may allocate into, of those R103 makes eligible (R347). -/
def shareWays (s : State) (y sl tc : Nat) (ways : List Nat) : List Nat :=
  match s.unitRig (yardUnit y) with
  | none => ways
  | some r =>
    match r.reefEntry 4 y sl tc with
    | none => ways
    | some (_, e) => if e.share = 0 then ways else ways.take ((e.share * ways.length + 255) / 256)

def execReefWindow (rc i : Nat) (s : State) : Out := unitCmd s (reefWindow rc i)

end Sys2Proof.Machine
end

