-- ==== Sys2Proof/Machine/RyuBase.lean ====
section
/-! DEFINITION. The parts of the Ryurun fabric that the other units use (R224 to R241): leases, routes and
ports, imports, fabric tags, the issue of remote operations, responses.
Choices of the model here: log entry 31 (DESIGN CHOICE). -/

namespace Sys2Proof.Machine

open Sys2Proof

/-- The lease of a sail on a port (R214): leases 0 to 14 of its LINKS entry. -/
def leaseOn (s : State) (port sl : Nat) : Option Nat :=
  match s.unitRig (ryuUnit port) with
  | none => none
  | some r =>
    match Tbl.look r.links port with
    | none => none
    | some d => (d.leases.findIdx? (· == sl))

/-- The sail of a lease on a port (R214). -/
def leaseSail (s : State) (port lease : Nat) : Option Nat :=
  match s.unitRig (ryuUnit port) with
  | none => none
  | some r =>
    match Tbl.look r.links port with
    | none => none
    | some d => if d.slots.contains lease then (d.leases[lease]?).filter (· < 64) else none

/-- Whether a port passes frames (R210, R211). -/
def portUp (s : State) (p : Nat) : Bool := (s.port p).up && (s.port p).trained && !(s.port p).fenced

/-- The ports on which a sail's frames may leave for a node (R224). -/
def routePorts (s : State) (sl node : Nat) : List Nat :=
  let m := (s.ryu.routes.get { mask := 0, hops := 0 } node).mask
  (List.range 32).filter (fun p => m.getLsbD p && (leaseOn s p sl).isSome && portUp s p)

/-- The port given by a number modulo the ports that qualify (R224). -/
def pickPort (l : List Nat) (k : Nat) : Option Nat := if l.isEmpty then none else l[k % l.length]?

/-- Send a message; it waits in the outbox until its port frames it. -/
def sendMsg (s : State) (m : OutMsg) : State := { s with ryu := { s.ryu with outbox := s.ryu.outbox ++ [m] } }

/-- Send a fabric-manager message on lease 15, under the next ARG (R259). -/
def sendFm (s : State) (m : FmOut) : State :=
  { s with ryu := { s.ryu with
      fmOut := s.ryu.fmOut ++ [{ arg := s.ryu.fmSeq, msg := m, sent := false }], fmSeq := s.ryu.fmSeq + 1 } }

/-- Bytes that the window of an import covers, as a global address range (R226). -/
def Import.covers (i : Import) (node addr n : Nat) : Bool :=
  i.ready && !i.closing && i.node == node && decide (i.gbase ≤ addr) && decide (addr + n ≤ i.gbase + 4096 * i.pages)

/-- The import of a sail that covers a remote access and allows it (R228). -/
def findImport (s : State) (sl node addr n : Nat) (allows : Import → Bool) : Option (Nat × Import) :=
  s.ryu.imports.find? (fun p => p.2.sail == sl && p.2.covers node addr n && allows p.2)

/-- Device tags and port tags in use by a sail (R234). -/
def devTags (s : State) (sl : Nat) : Nat :=
  (s.ryu.tags.filter (fun p => match p.2.op with
    | some o => o.sail == sl
    | none => false)).length

def portTags (s : State) (sl port : Nat) : Nat :=
  (s.ryu.tags.filter (fun p => match p.2.op with
    | some o => o.sail == sl && o.port == port
    | none => false)).length

/-- Fabric tags in use (R234). -/
def allTags (s : State) : Nat := (s.ryu.tags.filter (fun p => p.2.op.isSome)).length

/-- The lowest free fabric tag. -/
def freeTag (s : State) : Option Nat :=
  (List.range (s.ryu.tags.length + 1)).find? (fun t => decide (t < 32768) && (s.ryu.tags.get TagSt.free t).op.isNone)

/-- Tag quotas of a sail (R234, R266). -/
def devTagQuota (s : State) (sl : Nat) : Nat :=
  match s.desc sl with
  | none => 0
  | some d => d.devTags

def portTagQuota (s : State) (sl port : Nat) : Nat :=
  match s.unitRig (ryuUnit port) with
  | none => 0
  | some r => r.quotas.get 0 (64 * (40 + port) + sl)

/-- What issuing a remote operation comes to (R228, R234). -/
inductive RemRes where
  | sent (s : State) (tag : Nat)
  | stall
  | fail (st : Status)

/-- The operation code of a kind (R230). -/
def RemKind.op : RemKind → Nat
  | .rd => 0x01 | .wr => 0x02 | .lkup => 0x10 | .impOpen => 0x60 | .impClose => 0x62

/-- Put an operation under a tag. -/
def setTag (s : State) (t : Nat) (v : TagSt) : State :=
  { s with ryu := { s.ryu with tags := s.ryu.tags.set TagSt.free t v } }

/-- Issue an operation towards `node` for a sail (R228, R234): a free tag, the port given by the tag,
and the message. Its timer starts when the first frame leaves (R237). The operation stalls while the sail's tags are in use or its port is quiesced (R394). A node that
is DOWN is unreachable (R261), and a sail without its link key gets ABORT_KEY_REVOKED (R218, R369). -/
def issueOp (s : State) (kind : RemKind) (sl ctx node win imp timeout addr len expect : Nat) (okey : BitVec 16)
    (arg : Word) (payload : List Byte) (poison : List Bool) (from_ : RemFrom) : RemRes :=
  let ports := routePorts s sl node
  if ports.isEmpty || s.ryu.peers.get PeerState.up node == .down then .fail .remoteUnreachable
  else if (s.linkSlot sl).st != .active || (s.linkSlot sl).linkCount = BitVec.allOnes 64 then .fail .abortKeyRevoked
  else if devTags s sl ≥ devTagQuota s sl then .stall
  else
    match freeTag s with
    | none => .stall
    | some t =>
      match pickPort ports t with
      | none => .fail .remoteUnreachable
      | some port =>
        match leaseOn s port sl with
        | none => .fail .remoteUnreachable
        | some lease =>
          if portTags s sl port ≥ portTagQuota s sl port || s.rst.quiesced.contains (5, port) then .stall
          else
            let old := s.ryu.tags.get TagSt.free t
            let o : RemOp := { kind := kind, sail := sl, ctx := ctx, port := port, node := node, win := win,
                               imp := imp, epoch := (s.ctx ctx).mseq, started := none, paused := none, timeout := timeout, addr := addr, len := len,
                               expect := expect, from_ := from_ }
            let m : OutMsg := { port := port, dst := node, lease := lease, tc := 0, op := kind.op, tag := t,
                                tepoch := old.epoch, keyGen := okey, rKeyGen := (s.linkSlot sl).gen,
                                xlen := if kind == .rd || kind == .wr then BitVec.ofNat 8 (len / 32 - 1) else 0,
                                arg := arg, win := win, enc := true, poison := poison, payload := payload }
            let s := setTag s t { old with op := some o }
            let s := { s with ryu := { s.ryu with devPeak := max s.ryu.devPeak (allTags s) } }
            .sent (sendMsg s m) t

/-- A remote read or write of `n` bytes at global address (node, addr) for a sail (R228, R231). -/
def issueAccess (s : State) (write : Bool) (sl ctx node addr n : Nat) (payload : List Byte) (poison : List Bool)
    (from_ : RemFrom) : RemRes :=
  match findImport s sl node addr n (fun i => if write then i.write else i.read) with
  | none => .fail .faultPermission
  | some (h, i) =>
    issueOp s (if write then .wr else .rd) sl ctx node i.win h i.timeout addr n n i.ogen
      (BitVec.ofNat 64 (addr - i.gbase)) payload poison from_

/-- Free a tag: TEPOCH advances (R235). -/
def releaseTag (s : State) (t : Nat) : State :=
  setTag s t { epoch := (s.ryu.tags.get TagSt.free t).epoch + 1, op := none }

/-- The port on which a response or a cleat message of a sail leaves for a node (R224). -/
def replyPort (s : State) (sl node : Nat) : Option Nat := pickPort (routePorts s sl node) s.ryu.node

/-- Send a reply of a sail on its port (R224); without a port it cannot leave. -/
def sendReply (s : State) (sl dst tc op tag : Nat) (tepoch : BitVec 8) (keyGen : BitVec 16) (arg : Word) (win : Nat)
    (payload : List Byte) (poison : List Bool) : State :=
  match replyPort s sl dst with
  | none => s
  | some p =>
    sendMsg s
      { port := p, dst := dst, lease := (leaseOn s p sl).getD 15, tc := tc, op := op, tag := tag, tepoch := tepoch,
        keyGen := keyGen, rKeyGen := 0, xlen := 0, arg := arg, win := win, enc := true, poison := poison,
        payload := payload }

/-- A RESP to an operation of another node (R230). -/
def respond (s : State) (sl src tag : Nat) (tepoch : BitVec 8) (rKeyGen : BitVec 16) (st : Status)
    (bytes : List Byte) (poison : List Bool) : State :=
  sendReply s sl src 1 0x20 tag tepoch rKeyGen (st.code.zeroExtend 64) 0 bytes poison

end Sys2Proof.Machine
end

