-- ==== Sys2Proof/Machine/YardBase.lean ====
section
/-! DEFINITION. Requests at the yards (R98 to R119, R135): request records, which sail owns what in a
yard, arrival, counters, and the delivery of returns. -/

namespace Sys2Proof.Machine

open Sys2Proof

/-! ### Request records (R113 to R115) -/

/-- Bits [hi:lo] of word `w` of a record or descriptor given as bytes. -/
def recField (l : List Byte) (w hi lo : Nat) : Nat := (leNat ((l.drop (8 * w)).take 8) >>> lo) % 2 ^ (hi - lo + 1)

/-- Word 0 of a request header (R113). -/
structure ReqHdr where
  yop : Nat
  table : Nat
  outFmt : Nat
  rm : Nat
  ovf : Bool
  idw32 : Bool
  wgt : Bool
  raw : Bool
  flush : Bool
  applied : Bool
  count : Nat
  pool : Nat
  rsv : Nat
deriving DecidableEq, Repr

def reqHdr (l : List Byte) : ReqHdr :=
  let f := recField l 0
  { yop := f 7 0, table := f 19 8, outFmt := f 23 20, rm := f 25 24, ovf := f 26 26 == 1, idw32 := f 27 27 == 1,
    wgt := f 28 28 == 1, raw := f 29 29 == 1, flush := f 30 30 == 1, applied := f 31 31 == 1, count := f 44 32,
    pool := f 47 45, rsv := f 63 48 }

/-- Round up to a multiple of 32. -/
def pad32 (n : Nat) : Nat := (n + 31) / 32 * 32

/-- The width in bytes of a plain row or gradient format (R108). -/
def fmtBytes (f : Nat) : Nat :=
  match f with
  | 0 => 4
  | 1 => 2
  | _ => 1

/-- The length of a record (R115). -/
def recordLen (h : ReqHdr) : Nat :=
  let lid := pad32 (h.count * if h.idw32 then 4 else 8)
  if h.count > 4096 then 32
  else match h.yop with
    | 0x01 => 32 + lid + (if h.wgt then pad32 (4 * h.count) else 0)
    | 0x02 => 32 + lid
    | 0x11 => if h.outFmt < 2 then 96 + pad32 (fmtBytes h.outFmt * h.count) else 32
    | _ => 32

/-- The fields of word 0 that an operation leaves unused are 0, and words 1 to 3 that it does not use are 0
(R114). -/
def unusedOk (h : ReqHdr) (l : List Byte) : Bool :=
  let w := fun i => recField l i 63 0
  let noTable := h.table == 0
  let noNum := h.outFmt == 0 && h.rm == 0 && !h.ovf
  let noIds := !h.idw32 && !h.raw
  let z := h.rsv == 0
  match h.yop with
  | 0x01 => z && !h.flush && !h.applied && w 1 == 0 && w 2 == 0 && w 3 == 0
  | 0x02 => z && !h.flush && !h.applied && !h.wgt && h.pool == 0 && w 1 == 0 && w 2 == 0 && w 3 == 0
  | 0x03 => z && !h.flush && !h.applied && !h.wgt && h.pool == 0 && noIds && decide (w 1 < 2 ^ 40) && w 2 == 0 && w 3 == 0
  | 0x10 => z && !h.flush && !h.applied && !h.wgt && h.pool == 0 && noIds && noTable && noNum && h.count == 0 &&
      w 1 == 0 && w 2 == 0 && w 3 == 0
  | 0x11 => z && !h.flush && !h.applied && !h.wgt && (!h.idw32 || decide (w 1 < 2 ^ 32)) &&
      w 2 % 2 ^ 16 < 512 && w 2 / 2 ^ 32 == 0 && w 3 == 0
  | 0x12 => z && !h.flush && !h.wgt && h.pool == 0 && noIds && noTable && noNum && h.count == 0 &&
      w 1 == 0 && w 2 % 2 ^ 16 < 512 && w 2 / 2 ^ 32 == 0 && w 3 == 0
  | 0x13 => z && !h.flush && !h.applied && !h.wgt && h.pool == 0 && noIds && noTable && noNum && h.count == 0 &&
      w 1 == 0 && w 2 % 2 ^ 16 < 512 && w 2 / 2 ^ 32 == 0 && w 3 == 0
  | 0x20 => z && !h.applied && !h.wgt && h.pool == 0 && noIds && noNum && h.count == 0 &&
      w 1 == 0 && w 2 == 0 && w 3 == 0
  | 0x21 => z && !h.flush && !h.applied && !h.wgt && h.pool == 0 && noIds && noTable && noNum && h.count == 0 &&
      decide (w 1 < 8) && w 2 == 0 && decide (w 3 < 2 ^ 32)
  | _ => false

/-- The header of a request is well formed as far as it can be judged without the table (R114, R116,
R119). -/
def headerOk (l : List Byte) : Bool :=
  let h := reqHdr l
  unusedOk h l && decide (h.count ≤ 4096) && h.rm != 3 &&
    match h.yop with
    | 0x01 => decide (h.rm < 2) && decide (h.outFmt < 4) && decide (h.pool < 4) && (h.wgt == (h.pool == 2))
    | 0x02 => decide (h.rm < 2) && decide (h.outFmt < 4)
    | 0x03 => decide (h.rm < 2) && decide (h.outFmt < 4)
    | 0x11 => decide (h.outFmt < 2) && decide (h.pool < 4)
    | _ => true

/-! ### Who owns what in a yard -/

/-- The yard of an in-package DRAM address (R98). -/
def yardOfAddr (a : Nat) : Nat := a / 2 ^ 32

/-- The lookup engines of a sail in a yard that are in service (R100, R394 kind 3). -/
def lookupEngines (s : State) (y sl : Nat) : List Nat :=
  (List.range 32).filter (fun e => s.ownerAt (offLookup + 32 * y + e) == some sl && !fenced s 3 (32 * y + e))

/-- The update engines of a sail in a yard that are in service, in increasing number (R134, R411, R424). -/
def updEngines (s : State) (y sl : Nat) : List Nat :=
  (List.range 8).filter (fun e => s.ownerAt (offUpd + 8 * y + e) == some sl && !fenced s 4 (8 * y + e))

/-- The table-cache ways of a sail in a yard (R103): those in service (kind 14 of the model's fences, R282) that no swap
takes away (R277). -/
def sailWays (s : State) (y sl : Nat) : List Nat :=
  (List.range 16).filter (fun w => s.ownerAt (offWay + 16 * y + w) == some sl && !fenced s 14 (16 * y + w) &&
    s.stays (offWay + 16 * y + w) sl)

/-! ### Requests -/

def State.yreq (s : State) (y id : Nat) : Option YReq := (s.yard y).reqs.find? (fun r => r.id == id)

def State.updReq (s : State) (y id : Nat) (f : YReq → YReq) : State :=
  s.updYard y (fun x => { x with reqs := x.reqs.map (fun r => if r.id = id then f r else r) })

/-- Change a sail's counters in a yard. -/
def bumpYard (s : State) (y sl : Nat) (f : YardCounters → YardCounters) : State :=
  s.updYard y (fun x => { x with cnt := x.cnt.upd YardCounters.zero sl f })

/-- Requests of a sail in flight in a yard (R135, R139). -/
def inFlight (s : State) (y sl : Nat) : Nat := ((s.yard y).reqs.filter (fun r => r.sail == sl)).length

/-- Change request number `seq` of core `lc`, in the program resident there or in a saved one. -/
def updReqOut (s : State) (lc seq : Nat) (f : ReqOut → ReqOut) : State :=
  let set := fun (p : Prog) => { p with reqs := p.reqs.map (fun r => if r.seq = seq then f r else r) }
  let saved := fun (s : State) => match s.clusterSail (lc / 34) with
    | none => s
    | some sl => s.updSail sl (fun x => { x with saved := x.saved.map (fun v =>
        if v.lc = lc then { v with prog := set v.prog } else v) })
  match s.prog lc with
  | some p => if p.reqs.any (fun r => r.seq == seq) then s.setProg lc (some (set p)) else saved s
  | none => saved s

/-- The return of request number `seq` has reached its core (R86, R90). -/
def giveReturn (s : State) (lc seq : Nat) (st : Status) (bytes : List Byte) (marks : List Bool) : State :=
  updReqOut s lc seq (fun r => if r.ret.isNone then { r with ret := some (st, bytes), marks := marks } else r)

/-- A request of the yard has left: its entry is free, and it counts once (R135, R139). -/
def retireReq (s : State) (y id : Nat) : State :=
  match s.yreq y id with
  | none => s
  | some r =>
    let s := s.updYard y (fun x => { x with reqs := x.reqs.filter (fun t => t.id != id) })
    bumpYard s y r.sail (fun c => { c with reqs := c.reqs + 1 })

/-- The return of a request is ready (R117, R155): to a core it goes in the order of its stream, to another
node it leaves as a RESP, and for TABLE_SYNC one piece of the command has ended. -/
def finishReq (s : State) (y id : Nat) (st : Status) (bytes : List Byte) (marks : List Bool := []) : State :=
  match s.yreq y id with
  | none => s
  | some r =>
    match r.from_ with
    | .core lc tag _ =>
      endpointReturn (s.updReq y id (fun r => { r with phase := .returned, out := bytes })) lc tag st bytes marks
    | .remote _ src tag tepoch _ rk =>
      retireReq (respond s r.sail src tag tepoch rk st (if st == .done then bytes else []) []) y id
    | .host q n =>
      let s := retireReq s y id
      let s := if st == .done then s else noteErr s q n st
      endPart s q n

/-- A POOL or GATHER adds its COUNT to the order slots of its context and table in the yard (R203). -/
def countOrders (s : State) (y sl ctx : Nat) (record : List Byte) : State :=
  let h := reqHdr record
  if h.yop == 0x01 || h.yop == 0x02 then
    s.updYard y (fun x => { x with orders := x.orders.map (fun p =>
      if p.2.sail == sl && p.2.ctx == ctx && p.2.table == h.table then
        (p.1, { p.2 with consumed := p.2.consumed + h.count })
      else p) })
  else s

/-- A request reaches a yard (R110, R135, R139): it waits in its entry; a reserved operation is malformed, and
a sail without an engine in service is refused at once (R100, R119). -/
def arrive (s : State) (y sl ctx q n : Nat) (from_ : ReqFrom) (record : List Byte) : State × Nat :=
  let id := (s.yard y).nextReq
  let r : YReq := { id := id, sail := sl, ctx := ctx, q := q, n := n, from_ := from_, record := record,
                    phase := .waiting, desc := [], rows := [], comb := 0, acc := [], out := [],
                    keyGen := 0, spans := [] }
  let s := countOrders (s.updYard y (fun x => { x with reqs := x.reqs ++ [r], nextReq := id + 1 })) y sl ctx record
  let m := inFlight s y sl
  let s := bumpYard s y sl (fun c => { c with peak := BitVec.ofNat 64 (max c.peak.toNat m) })
  (s, id)

end Sys2Proof.Machine
end

