-- ==== Sys2Proof/Machine/YardTable.lean ====
section
/-! DEFINITION. Table descriptors and hashing (R107 to R112): the parsed descriptor, its validity, the
addresses of rows, group headers and optimizer state.
Choices of the model here: log entry 22 (DEDUCED). -/

namespace Sys2Proof.Machine

open Sys2Proof

/-- A parsed table descriptor (R108). -/
structure Table where
  base : Nat
  rows : Nat
  d : Nat
  fmt : Nat
  cb4 : Bool
  glog2 : Nat
  hash : Nat
  seed : Nat
  stride : Nat
  waymask : Nat
  homeYard : Nat
  oor : Bool
  rdonly : Bool
  stateBase : Nat
  stateStride : Nat
  stateFmt : Nat
deriving DecidableEq, Repr

def tableOf (l : List Byte) : Table :=
  let f := recField l
  { base := f 0 55 0, rows := f 1 39 0, d := f 1 50 40, fmt := f 1 54 51, cb4 := f 1 55 55 == 1, glog2 := f 1 59 56,
    hash := f 1 63 60, seed := f 2 63 0, stride := f 3 12 0, waymask := f 3 31 16, homeYard := f 3 35 32,
    oor := f 3 36 36 == 1, rdonly := f 3 37 37 == 1, stateBase := f 4 55 0, stateStride := f 5 13 0,
    stateFmt := f 5 15 14 }

/-- The element format of a plain table (R108). -/
def Table.elemFmt (t : Table) : Option Fmt :=
  match t.fmt with
  | 0 => some .fp32 | 1 => some .bf16 | 2 => some .e4m3 | 3 => some .e5m2 | 9 => some .int8
  | _ => none

/-- The row size in bytes (R109). -/
def Table.rowBytes (t : Table) : Nat := if t.cb4 then t.d / 2 else t.d * fmtBytes t.fmt

/-- The limits of R108: reserved fields are 0 and every field is in range. -/
def descOk (l : List Byte) : Bool :=
  let f := recField l
  let t := tableOf l
  f 0 63 56 == 0 && f 3 15 13 == 0 && f 3 63 38 == 0 && f 4 63 56 == 0 && f 5 63 16 == 0 && f 6 63 0 == 0 &&
  f 7 63 0 == 0 && t.base % 64 == 0 && decide (1 ≤ t.rows) && t.d % 32 == 0 && decide (32 ≤ t.d) &&
  decide (t.d ≤ 1024) && t.elemFmt.isSome && decide (t.hash ≤ 2) && decide (t.stateFmt ≤ 1) &&
  t.stateBase % 64 == 0 && t.stateStride % 32 == 0 && decide (t.stateStride ≤ 8192) &&
  (if t.cb4 then t.fmt == 0 && decide (6 ≤ t.glog2) && decide (t.glog2 ≤ 12) && t.stride == 0
   else t.glog2 == 0 && t.stride % 32 == 0 && decide (t.rowBytes ≤ t.stride) && decide (t.stride ≤ 4096))

/-- H of R109: 32 + 2G rounded up to a multiple of 64. -/
def Table.headerBytes (t : Table) : Nat := (32 + 2 * 2 ^ t.glog2 + 63) / 64 * 64

/-- The address of the group header of row `r` of an LJ-CB4 table (R109). -/
def Table.headerVa (t : Table) (r : Nat) : Nat :=
  t.base + r / 2 ^ t.glog2 * (t.headerBytes + 2 ^ t.glog2 * t.d / 2)

/-- The address of row `r` (R109). -/
def Table.rowVa (t : Table) (r : Nat) : Nat :=
  if t.cb4 then t.headerVa r + t.headerBytes + r % 2 ^ t.glog2 * t.d / 2 else t.base + r * t.stride

/-- The bytes from BASE to the end of the last row: what an import must cover (R118, R228). -/
def Table.span (t : Table) : Nat := t.rowVa (t.rows - 1) + t.rowBytes - t.base

/-- The address of the optimizer state of row `r` (R109). -/
def Table.stateVa (t : Table) (r : Nat) : Nat := t.stateBase + r * t.stateStride

/-- The padding ID (R112). -/
def isPad (idw32 : Bool) (id : Nat) : Bool := if idw32 then id == 0xFFFFFFFF else id == 0xFFFFFFFFFFFFFFFF

/-- The MIX hash of R112. -/
def mixHash (id n seed : Nat) : Nat :=
  let m := 2 ^ 64
  let h := id ^^^ seed
  let h := h ^^^ (h >>> 33)
  let h := h * 0xA24BAED4963EE407 % m
  let h := h ^^^ (h >>> 29)
  let h := h * 0x9FB21C651E98DF25 % m
  let h := h ^^^ (h >>> 32)
  h * n / m

/-- The row of an ID that is not padding (R112). -/
def Table.rowOf (t : Table) (raw : Bool) (id : Nat) : Nat :=
  if raw then id
  else match t.hash with
    | 0 => id
    | 1 => id % t.rows
    | _ => mixHash id t.rows t.seed

/-- The address of descriptor `i` of a context, and whether it exists (R107). -/
def descVa (x : Ctx) (i : Nat) : Nat := x.tblBase.toNat / 64 * 64 + 64 * i
def descExists (x : Ctx) (i : Nat) : Bool := decide (i < min 4096 x.tblCount.toNat)

/-- The use under which a request's accesses are judged: that of its command (R191). -/
def reqUse (s : State) (ctx q n : Nat) : Use :=
  match s.cmd q n with
  | none => useNow s ctx
  | some _ => useOfCmd s q n

/-- What reading a descriptor gives (R110): its bytes, a page to wait for, or the status of the request. -/
inductive DescRes where
  | ok (l : List Byte)
  | hold (e : RangeE) (page : Nat)
  | bad (st : Status)
deriving DecidableEq, Repr

/-- Read a descriptor (R110); one that stands in a range of another node does not translate (log entry 22). -/
def readDesc (s : State) (u : Use) (i : Nat) : DescRes :=
  if !descExists (s.ctx u.ctx) i then .bad .malformed
  else
    match vread s u (descVa (s.ctx u.ctx) i) 64 with
    | .ok l => .ok l
    | .hold e p => .hold e p
    | .remote _ _ => .bad .faultTranslation
    | .bad st _ => .bad st

/-- Where the table's BASE translates: a node and address of another device, or none for this one (R111,
R118). A table whose BASE does not translate is taken for a local one (log entry 22). -/
def tableRemote (s : State) (u : Use) (t : Table) : Except Status (Option (Nat × Nat)) :=
  match mappingFor (s.ctx u.ctx) u t.base with
  | .error st => .error st
  | .ok e =>
    let g := e.target + (t.base - e.vstart)
    let node := g / 2 ^ 48 % 2 ^ 16
    if s.isOwnNode node then .ok none else .ok (some (node, g % 2 ^ 48))

/-- The bytes of a return before padding (R114): D values for POOL, COUNT rows for GATHER and DECODE. -/
def returnLen (h : ReqHdr) (t : Table) : Nat :=
  let row := t.d * fmtBytes h.outFmt
  pad32 (if h.yop = 0x01 then row else h.count * row)

end Sys2Proof.Machine
end

