-- ==== Sys2Proof/Machine/YardCache.lean ====
section
/-! DEFINITION. The table cache of a yard (R102 to R106) and the reads that a home yard makes for lookups and
update actions (R99).
Choices of the model here: log entry 22 (DEDUCED). -/

namespace Sys2Proof.Machine

open Sys2Proof

/-! ### Lines -/

/-- The local physical address of a memory key: the aperture address of a scratchpad byte (R173). -/
def lpaOf (s : State) (k : Nat) : Nat :=
  if k < 2 ^ 48 then k
  else
    let phys := (k - 2 ^ 48) / 2 ^ 19
    match s.logicalOf (phys / 36) (phys % 36) with
    | none => k
    | some lc => sramBase + lc / 34 * 0x2000000 + lc % 34 * 0x80000 + (k - 2 ^ 48) % 2 ^ 19

/-- The set of an address: p[21:6] XOR p[37:22] (R102). -/
def cacheSet (p : Nat) : Nat := (p / 64 % 65536) ^^^ (p / 2 ^ 22 % 65536)

/-- The key of line (way, set) of a yard's cache. -/
def lineKey (way set : Nat) : Nat := 65536 * way + set

/-- The way among `ways` whose line holds address `p` (R102). -/
def lineOf (y : Yard) (ways : List Nat) (p : Nat) : Option (Nat × Line) :=
  ways.findSome? (fun w =>
    match Tbl.look y.cache (lineKey w (cacheSet p)) with
    | some l => if l.tag == p / 64 then some (lineKey w (cacheSet p), l) else none
    | none => none)

/-- Whether the line of a way in a set is marked recently used. -/
def lineUsed (y : Yard) (p w : Nat) : Bool :=
  match Tbl.look y.cache (lineKey w (cacheSet p)) with
  | some l => l.used
  | none => false

/-- Place a line (R103): the lowest eligible way whose line is not recently used; when all are, every eligible
way's bit is cleared first. No eligible way: nothing is allocated. -/
def allocate (y : Yard) (eligible : List Nat) (sl p : Nat) (data : List Byte) : Yard :=
  match eligible with
  | [] => y
  | w0 :: _ =>
    let l : Line := { tag := p / 64, used := true, sail := sl, data := data }
    match eligible.find? (fun w => !lineUsed y p w) with
    | some w => { y with cache := y.cache.set Line.empty (lineKey w (cacheSet p)) l }
    | none =>
      let c := eligible.foldl (fun c w =>
        match Tbl.look c (lineKey w (cacheSet p)) with
        | some x => c.set Line.empty (lineKey w (cacheSet p)) { x with used := false }
        | none => c) y.cache
      { y with cache := c.set Line.empty (lineKey w0 (cacheSet p)) l }

/-- Drop every line of a yard that satisfies `f` of its way and address. -/
def dropLines (y : Yard) (f : Nat → Nat → Bool) : Yard :=
  { y with cache := y.cache.filter (fun c => !f (c.1 / 65536) (64 * c.2.tag)) }

/-- FLUSH: every line of every way of the sail, in every yard (R104). -/
def flushSail (s : State) (sl : Nat) : State :=
  { s with yards := s.yards.map (fun p => (p.1, dropLines p.2 (fun w _ => (sailWays s p.1 sl).contains w))) }

/-- Drop the lines whose addresses a span of local physical addresses covers (R105). -/
def dropSpan (s : State) (lo n : Nat) : State :=
  { s with yards := s.yards.map (fun p => (p.1, dropLines p.2 (fun _ a => decide (lo ≤ a + 63) && decide (a < lo + n)))) }

/-- A yard's own write updates a line that is present and does not allocate (R104). -/
def cacheWrite (s : State) (y sl key : Nat) (l : List Byte) : State :=
  (cut key l.length).foldl (fun s c =>
    let p := lpaOf s c.1
    match lineOf (s.yard y) (sailWays s y sl) p with
    | none => s
    | some (k, x) =>
      let o := p % 64
      let d := x.data.take o ++ (l.drop (c.1 - key)).take c.2 ++ x.data.drop (o + c.2)
      s.updYard y (fun yd => { yd with cache := yd.cache.set Line.empty k { x with data := d } })) s

/-! ### Reads through the home yard -/

/-- Read one 64-byte granule for a sail through the home yard: a hit in the sail's ways, else memory, whose
data is allocated unless it is poisoned (R102, R103, R105). A line whose granule has been poisoned since is not kept; a read with a stale
key generation returns poison (R184). The request arrived at `since` (R346). -/
def readGranule (s : State) (since : Word) (y sl mask base : Nat) (gen : BitVec 16) : State × List Byte × Bool :=
  let ways := sailWays s y sl
  let p := lpaOf s base
  let s := if anyPoison s base 64 then s.updYard y (fun x => dropLines x (fun _ a => a == p / 64 * 64)) else s
  match lineOf (s.yard y) ways p with
  | some (k, x) =>
    let s := s.updYard y (fun yd => { yd with cache := yd.cache.set Line.empty k { x with used := true } })
    (bumpYard s y sl (fun c => { c with hits := c.hits + 1 }), x.data, false)
  | none =>
    let data := readBytes s base 64
    let stale := staleAt s sl gen base
    let bad := anyPoison s base 64 || stale
    let s := spendFrom since (bumpYard s y sl (fun c => { c with misses := c.misses + 1 })) sl 0 base 64 false
    let s := if stale then noteStaleRead s base 64 else s
    if bad then (s, data, true)
    else (s.updYard y (fun yd => allocate yd (shareWays s y sl 0 (ways.filter (fun w => mask.testBit w))) sl p data),
      data, false)

/-- Read a span for a use through the home yard, granule by granule; the pages are resident. -/
def readSpan (s : State) (since : Word) (u : Use) (y sl mask : Nat) (gen : BitVec 16) : List (Nat × Nat) → State × List Byte × Bool
  | [] => (s, [], false)
  | (va, n) :: t =>
    match locate s u va .read with
    | .loc k e =>
      let g := readGranule (cacheRange (touchPage s u e va false) y sl u va) since y sl mask (k / 64 * 64) gen
      let r := readSpan g.1 since u y sl mask gen t
      (r.1, (g.2.1.drop (k % 64)).take n ++ r.2.1, g.2.2 || r.2.2)
    | _ => (s, [], true)

/-! ### Judging rows -/

/-- The home yard of a row (R99): the yard of its channel, else HOME_YARD of the descriptor. A row whose page is
not resident yet has no home. -/
def homeOf (s : State) (u : Use) (va : Nat) (t : Table) : Option Nat :=
  match locate s u va .read with
  | .loc k _ => if k < dramEnd then some (yardOfAddr k) else some t.homeYard
  | _ => none

/-- What is wrong with one span (R111, R119): permission, translation, a range boundary, another node. -/
def judgeSpan (s : State) (u : Use) (va n : Nat) (acc : Acc3) : Option Status :=
  match mappingFor (s.ctx u.ctx) u va with
  | .error st => some st
  | .ok e =>
    match locate s u va acc with
    | .bad st => some st
    | .remote _ _ _ => some .faultTranslation
    | _ =>
      if va + n > e.vend then some .faultTranslation
      else
        match locate s u (va + n - 1) acc with
        | .bad st => some st
        | _ => none

/-- The first status in the order of R119 among several. -/
def firstStatus (l : List Status) : Option Status :=
  [Status.malformed, .faultPermission, .faultTranslation, .faultFreedRange, .faultPoison].find? (l.contains ·)

/-- Judge spans of a request together; the first failure of the deciding status is recorded in
CTX_XLT_FAULT. -/
def judgeSpans (s : State) (u : Use) (l : List (Nat × Nat × Acc3)) : State × Option Status :=
  let bad := l.filterMap (fun x => (judgeSpan s u x.1 x.2.1 x.2.2).map (fun st => (st, x.1, x.2.2)))
  match firstStatus (bad.map (·.1)) with
  | none => (s, none)
  | some st =>
    match bad.find? (fun b => b.1 == st) with
    | none => (s, some st)
    | some b => (noteXlt s u.ctx b.2.1 st b.2.2, some st)

/-- Start the migrations that spans of a request need (R199); the answer says whether one of them is held. -/
def serveSpans (s : State) (u : Use) : List (Nat × Nat × Acc3) → State × Use × Bool
  | [] => (s, u, false)
  | (va, n, acc) :: t =>
    let r := serve s u va n acc
    let q := serveSpans r.1 r.2.1 t
    (q.1, q.2.1, r.2.2 || q.2.2)

end Sys2Proof.Machine
end

