-- ==== Sys2Proof/Machine/YardEngine.lean ====
section
/-! DEFINITION. Lookup engines (R110 to R119): taking requests, judging and listing rows, fetching rows, pooling,
gathering and decoding, the forwarding of lookups to another node; TBLSYNC; the window of background activity and
the peak counter.
Choices of the model here: log entry 22 (DEDUCED), log entry 26 (DESIGN CHOICE), log entry 65 (DESIGN CHOICE). -/

namespace Sys2Proof.Machine

open Sys2Proof

/-! ### Engines -/

def engineOf (y : Yard) (e : Nat) : Engine := y.eng.get Engine.empty e

def setEngineOf (s : State) (y e : Nat) (f : Engine → Engine) : State :=
  s.updYard y (fun x => { x with eng := x.eng.set Engine.empty e (f (engineOf x e)) })

/-- Whether an operation runs on a lookup engine. -/
def isLookup (yop : Nat) : Bool := yop == 0x01 || yop == 0x02 || yop == 0x03

/-- The oldest request of a sail in a yard that waits in its entry and satisfies `f`. -/
def oldestWaiting (s : State) (y sl : Nat) (f : YReq → Bool) : Option YReq :=
  (s.yard y).reqs.find? (fun r => r.sail == sl && r.phase == .waiting && f r)

/-- The sail's engines in service in a yard that are free (R110). -/
def freeEngines (s : State) (y sl : Nat) : List Nat :=
  (lookupEngines s y sl).filter (fun e =>
    (engineOf (s.yard y) e).cur.isNone && !s.rst.quiesced.contains (3, 32 * y + e) && s.stays (offLookup + 32 * y + e) sl)

/-- ENGINE_TAKES_REQUEST (R100, R110): the lowest free engine takes the oldest waiting request. -/
def takeRequest (y sl : Nat) (s : State) : State :=
  match oldestWaiting s y sl (fun _ => true) with
  | none => s
  | some r =>
    match (freeEngines s y sl).filter (fun e => !reservedFrom s 3 (32 * y + e) r.ctx) with
    | [] => s
    | e :: _ =>
      setEngineOf (s.updReq y r.id (fun r => { r with phase := .engine e })) y e (fun x => { x with cur := some r.id, since := s.time })

def execEngineTakesRequest (y sl : Nat) (s : State) : Out := unitCmd s (takeRequest y sl)

/-- The queue whose command a request belongs to, none for one of another node. -/
def YReq.ownQueue (r : YReq) : Option Nat :=
  match r.from_ with
  | .remote _ _ _ _ _ _ => none
  | _ => some r.q

/-- The time that an engine has worked on its request counts for the request's context (CTX_YARD_TIME). An update action takes no time of
its own here. -/
def chargeEngine (s : State) (y e : Nat) : State :=
  match (engineOf (s.yard y) e).cur.bind (s.yreq y) with
  | none => s
  | some r => s.updCtx r.ctx (fun x => { x with yardTime := x.yardTime + (s.time - (engineOf (s.yard y) e).since) })

/-- An engine is free again; a completed request is progress of the engine and of its queue (R414). -/
def freeEngine (s : State) (y e : Nat) : State :=
  let s := chargeEngine s y e
  let s := match (engineOf (s.yard y) e).cur.bind (s.yreq y) with
    | none => s
    | some r => match r.ownQueue with
      | none => s
      | some q => progress s 6 q
  setEngineOf s y e (fun x => { x with cur := none, progress := x.progress + 1 })

/-- An engine lets go of a request that waits elsewhere from now on: no yard operation holds a resource while it waits for another
(R136). -/
def releaseEngine (s : State) (y : Nat) (r : YReq) : State :=
  match r.phase with
  | .engine e => setEngineOf (chargeEngine s y e) y e (fun x => { x with cur := none })
  | _ => s

/-- A request that an engine has sequenced ends with a status. -/
def endReq (s : State) (y id : Nat) (st : Status) (bytes : List Byte) : State :=
  match s.yreq y id with
  | none => s
  | some r => match r.phase with
    | .engine e => finishReq (freeEngine s y e) y id st bytes
    | _ => finishReq s y id st bytes

/-- The request of an engine ends with a status. -/
def endLookup (s : State) (y e id : Nat) (st : Status) (bytes : List Byte) : State :=
  finishReq (freeEngine s y e) y id st bytes

/-! ### Descriptors (R110) -/

/-- Use a cached descriptor, which becomes the most recently used one, or read it and keep it. -/
def useDesc (s : State) (y e sl : Nat) (u : Use) (i : Nat) : State × DescRes :=
  let x := engineOf (s.yard y) e
  if !descExists (s.ctx u.ctx) i then (s, .bad .malformed)
  else
    match x.descs.find? (fun d => d.ctx == u.ctx && d.index == i) with
    | some d =>
      (setEngineOf s y e (fun x => { x with descs := x.descs.filter (fun c => c != d) ++ [d] }), .ok d.bytes)
    | none =>
      let r := serve s u (descVa (s.ctx u.ctx) i) 64 .read
      match readDesc r.1 r.2.1 i with
      | .ok l =>
        let d : DescEntry := { ctx := u.ctx, index := i, bytes := l }
        let s := cacheRange (touchSpan r.1 u (descVa (s.ctx u.ctx) i) 64) y sl u (descVa (s.ctx u.ctx) i)
        (setEngineOf s y e (fun x => { x with descs := (if x.descs.length ≥ 8 then x.descs.drop 1 else x.descs) ++ [d] }),
          .ok l)
      | .bad st => (noteXlt r.1 u.ctx (descVa (s.ctx u.ctx) i) st .read, .bad st)
      | h => (r.1, h)

/-! ### Listing the rows of a lookup -/

/-- The IDs of a lookup: the list of the record, or FIRST onward for DECODE (R114). -/
def lookupIds (h : ReqHdr) (record : List Byte) : List Nat :=
  if h.yop == 0x03 then (List.range h.count).map (fun i => recField record 1 39 0 + i)
  else
    let w := if h.idw32 then 4 else 8
    (List.range h.count).map (fun i => leNat ((record.drop (32 + w * i)).take w))

/-- What an ID names (R112, R116): padding, a row, or nothing the table has. -/
inductive RowName where
  | pad | row (r : Nat) | beyond
deriving DecidableEq, Repr

def nameOf (t : Table) (raw idw32 : Bool) (id : Nat) : RowName :=
  if isPad idw32 id then .pad
  else if t.rowOf raw id < t.rows then .row (t.rowOf raw id)
  else if t.oor then .pad else .beyond

/-- The rows a lookup names; none when one lies beyond the table (R119). -/
def lookupRows (h : ReqHdr) (t : Table) (record : List Byte) : Option (List (Option Nat)) :=
  let names := (lookupIds h record).map (fun i =>
    if h.yop == 0x03 then (if i < t.rows then RowName.row i else .beyond) else nameOf t h.raw h.idw32 i)
  if names.contains .beyond then none
  else some (names.map (fun n => match n with
    | .row r => some r
    | _ => none))

def rowReq (t : Table) (now : Word) : Option Nat → RowReq
  | none => { row := none, va := 0, hdrVa := 0, arrived := true, data := [], poison := false, asked := now }
  | some r => { row := some r, va := t.rowVa r, hdrVa := if t.cb4 then t.headerVa r else 0, arrived := false,
                data := [], poison := false, asked := now }

/-- The spans of a row as they are judged: the row, and the whole group header of an LJ-CB4 table (R111). -/
def judgedSpans (t : Table) (r : RowReq) : List (Nat × Nat × Acc3) :=
  match r.row with
  | none => []
  | some _ => (r.va, t.rowBytes, .read) :: (if t.cb4 then [(r.hdrVa, t.headerBytes, .read)] else [])

/-- The spans of a row as they are read: the row, the codebook, the row's scale (R29). -/
def readSpans (t : Table) (r : RowReq) : List (Nat × Nat × Acc3) :=
  match r.row with
  | none => []
  | some n => (r.va, t.rowBytes, .read) ::
      (if t.cb4 then [(r.hdrVa, 32, .read), (r.hdrVa + 32 + 2 * (n % 2 ^ t.glog2), 2, .read)] else [])

/-! ### Row arithmetic (R31, R47, R116) -/

def fp32Zero (d : Nat) : List Lane := List.replicate d 0

/-- The elements of a row as FP32 codes, with the flags of LJ-CB4 decoding (R31, R42). -/
def rowValues (t : Table) (data : List Byte) : List Lane × BitVec 5 :=
  if t.cb4 then
    let codes := leNat (data.take t.rowBytes)
    let book := leNat ((data.drop t.rowBytes).take 32)
    let scale := decodeElem .bf16 (leNat ((data.drop (t.rowBytes + 32)).take 2))
    let r := elems t.d (fun i =>
      let c := decodeElem .bf16 (packedElem 16 book (packedElem 4 codes i))
      let p := vMul c scale
      let o := toIeee .fp32 .rne p.1
      (o.1, o.2 ||| p.2))
    (r.1.map (BitVec.ofNat 32), r.2)
  else
    match t.elemFmt with
    | none => ([], 0)
    | some f =>
      let x := leNat data
      ((List.range t.d).map (fun i =>
        BitVec.ofNat 32 (toFloat .fp32 .rne .inf (decodeElem f (packedElem f.width x i))).1), 0)

/-- Combine a row into the accumulator of a bag (R47). -/
def combine (pool : Nat) (weight : Lane) (acc row : List Lane) (first : Bool) : List Lane × BitVec 5 :=
  let op := fun (a x : Lane) =>
    match pool with
    | 2 => floatElem .fma .fp32 .rne weight.toNat x.toNat a.toNat
    | 3 => floatElem .max .fp32 .rne a.toNat x.toNat 0
    | _ => floatElem .add .fp32 .rne a.toNat x.toNat 0
  if pool == 3 && first then (row, 0)
  else
    let l := (acc.zip row).map (fun p => op p.1 p.2)
    (l.map (fun o => BitVec.ofNat 32 o.1), l.foldl (fun f o => f ||| o.2) 0)

/-- The output format of a lookup (R113). -/
def outFmt (h : ReqHdr) : Fmt :=
  match h.outFmt with
  | 0 => .fp32
  | 1 => .bf16
  | 2 => .e4m3
  | _ => .e5m2

/-- FP32 codes in the output format (R42) as bytes, with flags. -/
def outBytes (h : ReqHdr) (l : List Lane) : List Byte × BitVec 5 :=
  let rm : Rnd := if h.rm = 1 then .rtz else .rne
  let r := elems l.length (fun i => convert .fp32 (outFmt h) rm h.ovf 0 (decodeElem .fp32 (l.getD i 0).toNat))
  (codeBytes (outFmt h).width r.1, r.2)

/-- Weight `k` of a weighted bag (R115). -/
def weightOf (h : ReqHdr) (record : List Byte) (k : Nat) : Lane :=
  let base := 32 + pad32 (h.count * if h.idw32 then 4 else 8)
  BitVec.ofNat 32 (leNat ((record.drop (base + 4 * k)).take 4))

/-- Rows of a request that are not padding, among the first `n`. -/
def realRows (r : YReq) (n : Nat) : Nat := ((r.rows.take n).filter (fun x => x.row.isSome)).length

/-- Combine the next row of a request: its accumulator or output, and the flags. -/
def combineRow (h : ReqHdr) (t : Table) (r : YReq) (x : RowReq) : YReq × BitVec 5 :=
  let k := r.comb
  let r' := { r with comb := k + 1 }
  match x.row with
  | none => if h.yop == 0x01 then (r', 0) else ({ r' with out := r.out ++ (outBytes h (fp32Zero t.d)).1 }, 0)
  | some _ =>
    let v := rowValues t x.data
    if h.yop == 0x01 then
      let c := combine h.pool (weightOf h r.record k) r.acc v.1 (realRows r k == 0)
      ({ r' with acc := c.1 }, v.2 ||| c.2)
    else
      let o := outBytes h v.1
      ({ r' with out := r.out ++ o.1 }, v.2 ||| o.2)

/-- Combine every row that is next in bag order and has arrived (R117). -/
def combineAll (h : ReqHdr) (t : Table) : Nat → YReq → BitVec 5 → YReq × BitVec 5
  | 0, r, f => (r, f)
  | n + 1, r, f =>
    match r.rows[r.comb]? with
    | none => (r, f)
    | some x =>
      if x.arrived && !x.poison then
        let c := combineRow h t r x
        combineAll h t n c.1 (f ||| c.2)
      else (r, f)

/-- The bytes that a finished lookup returns (R114, R116), with flags. -/
def lookupReturn (h : ReqHdr) (t : Table) (r : YReq) : List Byte × BitVec 5 :=
  if h.yop == 0x01 then
    let n := realRows r r.rows.length
    if n = 0 then outBytes h (fp32Zero t.d)
    else if h.pool == 1 then
      let c := (toFloat .fp32 .rne .inf (.ofInt n)).1
      let l := r.acc.map (fun a => floatElem .div .fp32 .rne a.toNat c 0)
      let o := outBytes h (l.map (fun x => BitVec.ofNat 32 x.1))
      (o.1, l.foldl (fun f x => f ||| x.2) o.2)
    else outBytes h r.acc
  else (r.out, 0)

/-- Combine what has arrived, and return when every row is combined or one of them is poisoned (R119). -/
def advanceLookup (s : State) (y e : Nat) (r : YReq) : State :=
  let h := reqHdr r.record
  let t := tableOf r.desc
  if r.rows.any (fun x => x.arrived && x.poison) then
    match r.rows.find? (fun x => x.arrived && x.poison) with
    | none => s
    | some x => endLookup (noteXlt s r.ctx x.va .faultPoison .read) y e r.id .faultPoison []
  else
    let c := combineAll h t r.rows.length r 0
    let s := raiseFlags s r.ctx c.2
    let s := bumpYard s y r.sail (fun n => { n with
      rows := n.rows + BitVec.ofNat 64 (realRows c.1 c.1.comb - realRows r r.comb) })
    let s := s.updReq y r.id (fun _ => c.1)
    if c.1.comb = c.1.rows.length then
      let o := lookupReturn h t c.1
      endLookup (raiseFlags s r.ctx o.2) y e r.id .done o.1
    else s

/-! ### The lookups -/

/-- Forward a lookup on another node's table (R118, R228): one whose sail holds no import that covers the table is refused, one without a free
tag waits in its entry again. -/
def forwardLookup (s : State) (y e : Nat) (r : YReq) (h : ReqHdr) (t : Table) (node a : Nat) : State :=
  match findImport s r.sail node a t.span (fun i => i.lkup) with
  | none => endLookup s y e r.id .faultPermission []
  | some (ih, i) =>
    match issueOp s .lkup r.sail r.ctx node i.win ih i.timeout 0 r.record.length (returnLen h t) i.ogen 0 r.record
        [] (.yard y r.id) with
    | .sent s' _ => freeEngine (s'.updReq y r.id (fun x => { x with phase := .remote })) y e
    | .stall => (releaseEngine s y r).updReq y r.id (fun x => { x with phase := .waiting })
    | .fail st => endLookup s y e r.id st []

/-- Begin a lookup on its engine: header, descriptor, return length, node, rows, permissions (R110, R111, R116,
R118, R119). A page that is not resident holds the read of the descriptor. -/
def beginLookup (s : State) (y e : Nat) (r : YReq) : State :=
  let h := reqHdr r.record
  let u := reqUse s r.ctx r.q r.n
  if !headerOk r.record then endLookup s y e r.id .malformed []
  else
    let d := useDesc s y e r.sail u h.table
    let s := d.1
    match d.2 with
    | .hold _ _ => s
    | .bad st => endLookup s y e r.id st []
    | .ok l =>
      let t := tableOf l
      if !descOk l || (h.yop != 0x01 && decide (returnLen h t > 65536)) then endLookup s y e r.id .malformed []
      else
        match tableRemote s u t with
        | .ok (some (node, a)) => forwardLookup s y e r h t node a
        | _ =>
          match lookupRows h t r.record with
          | none => endLookup s y e r.id .malformed []
          | some names =>
            let rows := names.map (rowReq t s.time)
            let j := judgeSpans s u (rows.flatMap (judgedSpans t))
            match j.2 with
            | some st => endLookup j.1 y e r.id st []
            | none =>
              let s := bumpYard j.1 y r.sail (fun c => { c with
                pads := c.pads + BitVec.ofNat 64 ((names.filter (fun n => n.isNone)).length) })
              let r' := { r with desc := l, rows := rows, comb := 0, out := [], keyGen := s.memGen r.sail,
                                 spans := rows.flatMap (fun x => (readSpans t x).map (fun p => (p.1, p.2.1))),
                                 acc := List.replicate t.d (0x80000000 : Lane) }
              advanceLookup (s.updReq y r.id (fun _ => r')) y e r'

/-- The request of an engine, while it has not begun. -/
def freshReq (s : State) (y e yop : Nat) : Option YReq :=
  match (engineOf (s.yard y) e).cur with
  | none => none
  | some id =>
    match s.yreq y id with
    | none => none
    | some r => if r.desc.isEmpty && (reqHdr r.record).yop == yop then some r else none

def beginOn (yop y e : Nat) (s : State) : State :=
  match freshReq s y e yop with
  | none => s
  | some r => beginLookup s y e r

def execPool (y e : Nat) (s : State) : Out := unitCmd s (beginOn 0x01 y e)
def execGather (y e : Nat) (s : State) : Out := unitCmd s (beginOn 0x02 y e)
def execDecode (y e : Nat) (s : State) : Out := unitCmd s (beginOn 0x03 y e)

/-! ### Rows (R99, R117, R126) -/

/-- Row `k` of the request that an engine works on, while it has not arrived. -/
def openRow (s : State) (y e k : Nat) : Option (YReq × RowReq) :=
  match (engineOf (s.yard y) e).cur with
  | none => none
  | some id =>
    match s.yreq y id with
    | none => none
    | some r =>
      match r.rows[k]? with
      | some x => if x.arrived then none else some (r, x)
      | none => none

/-- Whether a row is locked in its home yard by a COMMITTED group: lookups of it wait (R126). -/
def rowLocked (s : State) (y key : Nat) : Bool :=
  match Tbl.look (s.yard y).locks key with
  | none => false
  | some h => (s.group (h - 1)).st == .committed

/-- Change row `k` of a request. -/
def setRow (r : YReq) (k : Nat) (x : RowReq) : YReq := { r with rows := r.rows.set k x }

/-- A row that waits for something else than its read has its access timer start anew (R199). -/
def heldRow (s : State) (y : Nat) (r : YReq) (k : Nat) (x : RowReq) : State :=
  s.updReq y r.id (fun _ => setRow r k { x with asked := s.time })

/-- The home yard reads row `k` of an engine's request into the request: the state, and the row when it has
been read. A page that is not resident, or a lock of a committed group, holds the read. -/
def readRow (s : State) (y e k : Nat) (here : Bool) : State × Option (YReq × RowReq) :=
  match openRow s y e k with
  | none => (s, none)
  | some (r, x) =>
    if !x.data.isEmpty then (s, if here then some (r, x) else none)
    else
      let t := tableOf r.desc
      let u := reqUse s r.ctx r.q r.n
      let m := serveSpans s u (readSpans t x)
      if m.2.2 then (heldRow m.1 y r k x, none)
      else
        match homeOf m.1 m.2.1 x.va t, locate m.1 m.2.1 x.va .read with
        | some home, .loc key _ =>
          if rowLocked m.1 home key then (heldRow m.1 y r k x, none)
          else if (home == y) != here then (m.1, none)
          else
            let g := (readSpans t x).foldl (fun (a : State × List Byte × Bool) sp =>
              let q := readSpan a.1 x.asked m.2.1 home r.sail t.waymask r.keyGen (cut sp.1 sp.2.1)
              (q.1, a.2.1 ++ q.2.1, a.2.2 || q.2.2)) (m.1, [], false)
            (g.1, some (r, { x with data := g.2.1, poison := g.2.2 }))
        | _, _ => (m.1, none)

/-- FETCH_PORT_READ (R99): the home yard serves another yard's read; the row then waits for its arrival. -/
def fetchPort (y e k : Nat) (s : State) : State :=
  let g := readRow s y e k false
  match g.2 with
  | none => g.1
  | some (r, x) => g.1.updReq y r.id (fun _ => setRow r k { x with poison := x.poison })

/-- A response that comes after its access timer has expired is dropped and counted (R199, R413). -/
def dropLate (s : State) (a : AccessRef) : State :=
  if s.tiers.late.contains a then
    { s with tiers := { s.tiers with late := s.tiers.late.erase a, lateDrops := s.tiers.lateDrops + 1 } }
  else s

/-- ROW_FETCH_COMPLETE (R117): a row arrives, and what is next in bag order is combined. -/
def rowArrives (y e k : Nat) (s : State) : State :=
  let s := if (openRow s y e k).isNone then dropLate s (.row y e k) else s
  let g := readRow s y e k true
  match g.2 with
  | none => g.1
  | some (r, x) =>
    let r' := setRow r k { x with arrived := true }
    advanceLookup (g.1.updReq y r.id (fun _ => r')) y e r'

def execFetchPortRead (y e k : Nat) (s : State) : Out := unitCmd s (fetchPort y e k)
def execRowFetchComplete (y e k : Nat) (s : State) : Out := unitCmd s (rowArrives y e k)

/-! ### TBLSYNC (R104, R114) -/

/-- Drop a descriptor of a context from the caches of the sail's engines in a yard. -/
def dropDesc (s : State) (y sl ctx i : Nat) : State :=
  (List.range 32).foldl (fun s e =>
    if s.ownerAt (offLookup + 32 * y + e) == some sl && !(engineOf (s.yard y) e).descs.isEmpty then
      setEngineOf s y e (fun x => { x with descs := x.descs.filter (fun d => !(d.ctx == ctx && d.index == i)) })
    else s) s

/-- Whether a request is not sequenced yet: it waits in its entry or stands with an engine. -/
def YReq.unsequenced (r : YReq) : Bool :=
  match r.phase with
  | .waiting => true
  | .engine _ => true
  | _ => false

/-- A request of another kind than a lookup that an engine has taken and that is to be sequenced now: the requests of one stream are
sequenced in stream order (R124). -/
def waitingOp (s : State) (y id yop : Nat) : Option YReq :=
  match s.yreq y id with
  | none => none
  | some r =>
    let taken := match r.phase with
      | .engine _ => true
      | _ => false
    let earlier := fun (t : YReq) => decide (t.id < id) && t.unsequenced && !isLookup (reqHdr t.record).yop &&
      match t.from_, r.from_ with
      | .core a _ st, .core b _ st' => a == b && st == st'
      | _, _ => false
    if taken && (reqHdr r.record).yop == yop && !(s.yard y).reqs.any earlier then some r else none

def zeros32 : List Byte := List.replicate 32 0

def tblsyncState (y id : Nat) (s : State) : State :=
  match waitingOp s y id 0x20 with
  | none => s
  | some r =>
    if !headerOk r.record then endReq s y id .malformed []
    else
      let s := dropDesc s y r.sail r.ctx (reqHdr r.record).table
      let s := if (reqHdr r.record).flush then flushSail s r.sail else s
      endReq s y id .done zeros32

def execTblsync (y id : Nat) (s : State) : Out := unitCmd s (tblsyncState y id)

/-! ### YSEED (R134) -/

/-- The initial state of the generator of update engine `e`. -/
def updInit (e : Nat) : Lane := BitVec.ofNat 32 (0x9E3779B9 + 64 + e)

/-- The generator of a sail in an update engine; an unlisted one holds its initial state. -/
def updGen (s : State) (y e sl : Nat) : Lane :=
  match Tbl.look (s.yard y).gen (64 * e + sl) with
  | some x => x
  | none => updInit e

/-- 0 never stands in a generator. -/
def setUpdGen (s : State) (y e sl : Nat) (x : Lane) : State :=
  s.updYard y (fun d => { d with gen := d.gen.set 0 (64 * e + sl) (if x = 0 then updInit e else x) })

def yseedState (y id : Nat) (s : State) : State :=
  match waitingOp s y id 0x21 with
  | none => s
  | some r =>
    if !headerOk r.record then endReq s y id .malformed []
    else
      match (updEngines s y r.sail)[recField r.record 1 2 0]? with
      | none => endReq s y id .faultPermission []
      | some e =>
        endReq (setUpdGen s y e r.sail (BitVec.ofNat 32 (recField r.record 3 31 0))) y id .done zeros32

def execYseed (y id : Nat) (s : State) : Out := unitCmd s (yseedState y id)

/-! ### Windows and counters (R137, R140) -/

/-- The key of a unit whose background activity has a budget. -/
def budgetKey : BudgetUnit → Nat
  | .dramChannel c => c
  | .way y w => 1000 + 16 * y + w
  | .log i => 2000 + i
  | .yard y => 100000 + y
  | .gddrChannel c => 101000 + c
  | .cxlPort p => 102000 + p
  | .ryuPort p => 103000 + p
  | .masthead => 104000

/-- The background activities of a unit (R349): code, the budget's unit in the rig, its default per window in ns. -/
def activities (s : State) : BudgetUnit → List (Nat × Nat × Nat)
  | .dramChannel c => [(1, c, 100), (2, c, 50)]
  | .way y w => [(3, 16 * y + w, 100)]
  | .log i => [(4, i, 200)]
  | .yard y => [(5, y, 200)]
  | .gddrChannel c => [(6, c, 100), (7, c, 100)]
  | .cxlPort p => [(8, p, 50)]
  | .ryuPort p => if s.time.toNat / 10000 % 10 = 0 then [(9, p, 1000)] else []
  | .masthead => if s.time.toNat / 10000 % 10 = 0 then [(10, 0, 5000), (11, 0, 2000)] else []

/-- The routers of the unit whose background activity has a budget. -/
def budgetUnit : BudgetUnit → List Nat
  | .dramChannel c => yardUnit (c / 8)
  | .way y _ => yardUnit y
  | .log _ => []
  | .yard y => yardUnit y
  | .gddrChannel c => gddrUnit c
  | .cxlPort p => hostUnit p
  | .ryuPort p => ryuUnit p
  | .masthead => []

/-- One activity runs in a window: it stops at its budget, and what is left of its work is carried over (R137, R177, R349). How much comes up
is a free value (log entry 65). -/
def runActivity (s : State) (r : BudgetUnit) (a : Nat × Nat × Nat) : State :=
  let key := 16 * budgetKey r + a.1
  let x := s.tiers.work.get BgWork.none key
  let budget := (((s.unitRig (budgetUnit r)).map (fun g => g.budgetOf a.1 a.2.1 a.2.2))).getD a.2.2
  let left := x.left + Config.backgroundDemand s.free - budget
  let y : BgWork := { left := left, since := if left = 0 then none else some (x.since.getD s.time) }
  { s with free := s.free + 1, tiers := { s.tiers with work := s.tiers.work.set BgWork.none key y } }

/-- The channel whose calibration or retraining has been carried over for 1 s (R137, R177): a channel event in the error log. -/
def lateCalibration (s : State) (r : BudgetUnit) : State :=
  let late := fun (code okind c : Nat) =>
    let key := 16 * budgetKey r + code
    let x := s.tiers.work.get BgWork.none key
    match x.since with
    | none => s
    | some t => if (s.time - t).toNat < 1000000000 then s
      else logUnit { s with tiers := { s.tiers with work := s.tiers.work.set BgWork.none key { x with since := some s.time } } }
        1 0 okind c 0x09
  match r with
  | .dramChannel c => late 2 9 c
  | .gddrChannel c => late 7 10 c
  | _ => s

/-- BACKGROUND_WINDOW (R6, R137): a 10 µs window of the unit begins, once, and its activities run within their budgets. -/
def backgroundWindow (r : BudgetUnit) (s : State) : State :=
  let w := s.time.toNat / 10000
  if s.tiers.budget.get 0 (budgetKey r) < w then
    let s := { s with tiers := { s.tiers with budget := s.tiers.budget.set 0 (budgetKey r) w } }
    lateCalibration ((activities s r).foldl (fun s a => runActivity s r a) s) r
  else s

def execBackgroundWindow (r : BudgetUnit) (s : State) : Out := unitCmd s (backgroundWindow r)

/-- YRD_SAIL_PEAK_READ (R140): the peak becomes the number now in flight. -/
def peakRead (fn : HostFn) (y sl : Nat) (s : State) : State :=
  if decide (y < 16) && s.reaches fn sl then
    bumpYard s y sl (fun c => { c with peak := BitVec.ofNat 64 (inFlight s y sl) })
  else s

def execYrdSailPeakRead (fn : HostFn) (y sl : Nat) (s : State) : Out := unitCmd s (peakRead fn y sl)

end Sys2Proof.Machine
end

