-- ==== Sys2Proof/Machine/Ranges.lean ====
section
/-! DEFINITION. Range commands (R187 to R196): the checks of an entry, the invalidation point, tombstones, the
drain; dirty harvest (R206); shared objects (R328).
Choices of the model here: log entry 10 (DESIGN CHOICE), log entry 26 (DESIGN CHOICE), log entry 27 (DESIGN
CHOICE), log entry 67 (DESIGN CHOICE), log entry 70 (DESIGN CHOICE). -/

namespace Sys2Proof.Machine

open Sys2Proof

/-! ### Reading through the host port of a queue (R309) -/

/-- Whether `n` bytes at a bus address can be reached (R182). -/
def busOk (a n : Nat) : Bool := decide (a + n ≤ 2 ^ 46)

/-- The memory key of a bus address that can be reached on a host port (R182). -/
def busKey (port a : Nat) : Nat := (if port = 0 then hostBase else hostMid) + a % 2 ^ 46

/-- The host port of a queue: that of the function that enabled it. -/
def queuePort (s : State) (q : Nat) : Nat :=
  match (s.queue q).fn with
  | none => 0
  | some f => f.hostPort

/-- Whether the link of a host port works. -/
def hostUp (s : State) (p : Nat) : Bool := if p = 0 then s.hif.ports[0].linkUp else s.hif.ports[1].linkUp

/-- Read `n` bytes at a bus address for a command; none when the read fails on the link (R309) or cannot be reached (R182). -/
def busRead (s : State) (q a n : Nat) : Option (List Byte) :=
  if hostUp s (queuePort s q) && busOk a n then some (readBytes s (busKey (queuePort s q) a) n) else none

/-! ### Range entries (R187, R188) -/

/-- A parsed range entry. -/
def rangeOf (l : List Byte) : RangeE :=
  let f := recField l
  let b := fun i => f 3 i i == 1
  { vstart := 4096 * f 0 55 12, pages := f 1 43 0, target := f 2 63 0, r := b 0, w := b 1, x := b 2, dlog := b 3,
    mig := b 4, pool := b 5, shared := b 6, direct := b 7, pmap := f 4 55 0, dmap := f 5 55 0 }

/-- The reserved bits of a range entry are 0, and the map addresses are 8-byte aligned. -/
def rangeRsvOk (l : List Byte) : Bool :=
  let f := recField l
  f 0 11 0 == 0 && f 0 63 56 == 0 && f 1 63 44 == 0 && f 2 11 0 == 0 && f 3 63 8 == 0 && f 4 63 56 == 0 && f 5 63 56 == 0
    && f 6 63 0 == 0 && f 7 63 0 == 0 && f 4 2 0 == 0 && f 5 2 0 == 0

def RangeE.node (e : RangeE) : Nat := e.target / 2 ^ 48 % 2 ^ 16
def RangeE.lpa (e : RangeE) : Nat := e.target % 2 ^ 48
def RangeE.bytes (e : RangeE) : Nat := 4096 * e.pages

/-- Whether two ranges share an address. -/
def RangeE.overlaps (a b : RangeE) : Bool := decide (a.vstart < b.vend) && decide (b.vstart < a.vend)

/-- The region kinds of R171. -/
def regionNo (a : Nat) : Nat :=
  if a < dramEnd then 0 else if a < gddrEnd then 1 else if a < sramEnd then 2
  else if farBase ≤ a && a < farEnd then 3 else if hostBase ≤ a && a < hostMid then 4
  else if hostMid ≤ a && a < hostEnd then 5 else 6

/-- The units that a span touches, at a unit size. -/
def unitsOf (a n size : Nat) : List Nat :=
  if n = 0 then [] else (List.range ((a + n - 1) / size - a / size + 1)).map (fun i => a / size + i)

/-- Whether a span lies in one region and touches no unmapped address (R171, R173, R180). -/
def spanMapped (s : State) (a n : Nat) : Bool :=
  let k := regionNo a
  k == regionNo (a + n - 1) && match k with
    | 2 => (unitsOf a n 0x80000).all (fun u => (regionOf (0x80000 * u)).isSome)
    | 3 => (unitsOf a n (2 ^ 30)).all (fun u => farPopulated s (u - farBase / 2 ^ 30))
    | 6 => false
    | _ => true

/-- Whether a sail owns every resource of a mapped span (R188). -/
def spanOwned (s : State) (sl a n : Nat) : Bool :=
  match regionNo a with
  | 0 => (unitsOf a n (2 ^ 29)).all (fun u => s.ownsAddr sl (2 ^ 29 * u))
  | 1 => (unitsOf a n (2 ^ 30)).all (fun u => s.ownsAddr sl (2 ^ 30 * u))
  | 2 => (unitsOf a n 0x80000).all (fun u => s.ownsAddr sl (0x80000 * u))
  | 3 => (unitsOf a n (2 ^ 30)).all (fun u => s.ownsAddr sl (2 ^ 30 * u))
  | _ => s.ownsAddr sl a

/-- Whether a bitmap or page map of `n` bytes lies wholly in a plain range with R and W. -/
def mapFits (l : List RangeE) (va n : Nat) : Bool :=
  l.any (fun e => e.r && e.w && !e.mig && !e.dlog && decide (e.vstart ≤ va) && decide (va + n ≤ e.vend))

def pmapBytes (e : RangeE) : Nat := 8 * (e.bytes / 65536)
def dmapBytes (e : RangeE) : Nat := 8 * ((e.pages + 63) / 64)

/-- Whether the page map or the dirty bitmap of another live range lies in a range. -/
def holdsMaps (l : List RangeE) (e : RangeE) : Bool :=
  l.any (fun o => o.vstart != e.vstart &&
    ((o.mig && decide (e.vstart ≤ o.pmap) && decide (o.pmap < e.vend)) ||
     (o.dlog && decide (e.vstart ≤ o.dmap) && decide (o.dmap < e.vend))))

/-- The live shared object that holds a span (R328). -/
def sharedAt (s : State) (sl a n : Nat) : Option (Nat × SharedObj) :=
  (s.sail sl).shared.find? (fun p => decide (p.2.base ≤ a) && decide (a + n ≤ p.2.base + 4096 * p.2.pages))

/-- Whether a span overlaps a live shared object of the sail. -/
def sharedHit (s : State) (sl a n : Nat) : Bool :=
  (s.sail sl).shared.any (fun p => decide (p.2.base < a + n) && decide (a < p.2.base + 4096 * p.2.pages))

/-- The form of a new entry among the other live ranges `l` (R188, the rows of MALFORMED). -/
def entryOk (s : State) (l : List RangeE) (e : RangeE) : Bool :=
  let loc := s.isOwnNode e.node
  decide (1 ≤ e.pages) && decide (e.vend ≤ 2 ^ 56) && decide (e.lpa + e.bytes ≤ 2 ^ 48) && !l.any (fun o => o.overlaps e) &&
  (e.mig || (!e.direct && e.pmap == 0)) && (e.dlog || e.dmap == 0) &&
  (!loc || spanMapped s e.lpa e.bytes) && decide (l.length < 65536) &&
  (!e.mig || (e.vstart % 65536 == 0 && e.bytes % 65536 == 0 && e.lpa % 65536 == 0 &&
    (!loc || regionNo e.lpa == 3) && l.any (fun o => o.pool))) &&
  (!e.pool || (!l.any (fun o => o.pool) && loc && decide (regionNo e.lpa ≤ 1))) && !(e.shared && e.w) &&
  (!e.mig || mapFits l e.pmap (pmapBytes e)) && (!e.dlog || mapFits l e.dmap (dmapBytes e))

/-- The ownership of a new entry (R188, R328). -/
def entryOwned (s : State) (sl : Nat) (e : RangeE) : Bool :=
  if s.isOwnNode e.node then
    spanOwned s sl e.lpa e.bytes &&
    (!e.shared || match sharedAt s sl e.lpa e.bytes with
      | some (_, o) => o.hostRef
      | none => false) &&
    !(e.w && sharedHit s sl e.lpa e.bytes)
  else !e.shared

/-! ### The invalidation point (R191 to R195) -/

/-- Whether a command stamped below `m` of a context has neither started translation nor completed. -/
def oldCommand (s : State) (c : Nat) (m : Word) : Bool :=
  s.queues.any (fun p => p.2.ctx == c && p.2.st != .idle &&
    (p.2.cmds.any (fun k => k.xlat.isNone && !k.isCompleted && decide (k.stamp.toNat < m.toNat)) ||
     p.2.stamps.any (fun t => decide (t.2.toNat < m.toNat) && t.1 != p.2.head && decide ((t.1 - p.2.head).toNat < 2 ^ 31))))

/-- Whether a command that started translation before the invalidation point of MSEQ `m` is still in flight (R192, step 3), other than
those that `skip` names. -/
def oldUse (s : State) (c : Nat) (m : Word) (skip : Nat → Nat → Bool) : Bool :=
  s.queues.any (fun p => p.2.ctx == c && p.2.cmds.any (fun k =>
    !k.isCompleted && !skip p.1 k.n && match k.xlat with
      | none => false
      | some e => decide (e.toNat < m.toNat)))

/-- The tombstones of a context that some command stamped below their MSEQ may still meet (R195). -/
def heldTombs (s : State) (c : Nat) : List Tomb := (s.ctx c).tombs.filter (fun t => oldCommand s c t.mseq)

/-- Discard the other tombstones (R195). -/
def pruneTombs (s : State) (c : Nat) : State := s.updCtx c (fun x => { x with tombs := heldTombs s c })

/-- Add tombstones; past 1,024 the oldest is discarded and its MSEQ becomes the floor (R195). -/
def addTombs (x : Ctx) (m : Word) : List RangeE → Ctx
  | [] => x
  | e :: t =>
    let tb : Tomb := { mseq := m, old := e }
    let x' : Ctx := { x with tombs := x.tombs ++ [tb] }
    match x'.tombs with
    | o :: l => addTombs (if x'.tombs.length > 1024 then { x' with tombs := l, floor := o.mseq } else x') m t
    | [] => addTombs x' m t

/-- The spans of local memory that the removed ranges of a context cover (R105, R192): their targets, and of a MIG range the pool pages
that hold its resident pages. -/
def coveredLines (s : State) (c : Nat) (spans : List RangeE) : List (Nat × Nat) :=
  spans.flatMap (fun e =>
    let u := useNow s c
    let pages := if e.mig && !e.direct then (List.range (e.bytes / 65536)).filterMap (fun p =>
        let ent := pageEntry s u e p
        let pp := ent / 256 % 2 ^ 24
        match (s.ctx c).poolRange with
        | none => none
        | some o => if ent % 2 = 1 && decide (pp < (s.ctx c).poolPages) then some (o.lpa + 65536 * pp, 65536) else none)
      else []
    (if s.isOwnNode e.node then [(e.lpa, e.bytes)] else []) ++ pages)

/-- Point I (R192, steps 1 and 2): MSEQ advances, the removed ranges become tombstones and stay the mapping of the uses in flight, the
table takes its new content, the caches drop them, and the drain begins. `lines` are spans whose lines go in step 5 besides those of the
removed ranges. -/
def invalidate (s : State) (c q n : Nat) (removed : List RangeE) (table : List RangeE) (newRefs : List RangeE)
    (lines : List (Nat × Nat) := []) (sync : Bool := false) : State :=
  let s := pruneTombs s c
  let lines := lines ++ coveredLines s c removed
  let m := (s.ctx c).mseq + 1
  let s := s.updCtx c (fun x =>
    let y := addTombs { x with mseq := m } m removed
    { y with
        ranges := table
        past := x.past ++ removed.map (fun e => { mseq := m, old := e })
        drain := some { q := q, n := n, at_ := s.time, mseq := m, spans := removed, lines := lines, sync := sync, newRefs := newRefs } })
  (dropTranslations s c removed sync).updCmd q n (fun k => { k with phase := .executing })

/-- Insert a range by VSTART (R190). -/
def insertRange (e : RangeE) : List RangeE → List RangeE
  | [] => [e]
  | o :: t => if e.vstart < o.vstart then e :: o :: t else o :: insertRange e t

/-- Read and parse the entry that a command names; an error status otherwise. -/
def entryOf (s : State) (q : Nat) (k : CmdRec) : Except Status (List Byte) :=
  match busRead s q (bytesOf k.raw 8 15) 64 with
  | none => .error .faultTranslation
  | some l => .ok l

/-- Run a range command once it is started and no other one of its context drains (R192). -/
def rangeCmd (op q n : Nat) (f : State → Nat → Nat → CmdRec → State) (s : State) : State :=
  match startedAs s q n op with
  | none => s
  | some k =>
    let c := s.queueCtx q
    match s.ctxSail c with
    | none => s
    | some sl => if (s.ctx c).drain.isSome then s else f s c sl k

def rangeMapState (q n : Nat) : State → State :=
  rangeCmd 0x10 q n (fun s c sl k =>
    match entryOf s q k with
    | .error st => complete s q n st
    | .ok l =>
      let e := rangeOf l
      let old := (s.ctx c).ranges
      if !rangeRsvOk l || !entryOk s old e then complete s q n .malformed
      else if !entryOwned s sl e then complete s q n .faultPermission
      else invalidate s c q n [] (insertRange e old) [e])

def rangeUnmapState (q n : Nat) : State → State :=
  rangeCmd 0x11 q n (fun s c _ k =>
    let old := (s.ctx c).ranges
    match old.find? (fun e => e.vstart == bytesOf k.raw 8 15) with
    | none => complete s q n .malformed
    | some e =>
      if holdsMaps old e then complete s q n .malformed
      else invalidate s c q n [e] (old.filter (fun o => o != e)) [])

/-- Whether a modified range still holds the maps that lie in it: R, W, span and TARGET stay. -/
def keepsMaps (o e : RangeE) : Bool :=
  (!o.r || e.r) && (!o.w || e.w) && o.vstart == e.vstart && o.pages == e.pages && o.target == e.target

def rangeModifyState (q n : Nat) : State → State :=
  rangeCmd 0x12 q n (fun s c sl k =>
    match entryOf s q k with
    | .error st => complete s q n st
    | .ok l =>
      let e := rangeOf l
      let all := (s.ctx c).ranges
      match all.find? (fun o => o.vstart == e.vstart) with
      | none => complete s q n .malformed
      | some o =>
        let rest := all.filter (fun x => x != o)
        if !rangeRsvOk l || !entryOk s rest e || (holdsMaps all o && !keepsMaps o e) then complete s q n .malformed
        else if !entryOwned s sl e then complete s q n .faultPermission
        else invalidate s c q n [o] (insertRange e rest) [e])

def rangeSyncState (q n : Nat) : State → State :=
  rangeCmd 0x13 q n (fun s c _ _ => invalidate s c q n [] (s.ctx c).ranges [] [] true)

def execRangeMap (q n : Nat) (s : State) : Out := unitCmd s (rangeMapState q n)
def execRangeUnmap (q n : Nat) (s : State) : Out := unitCmd s (rangeUnmapState q n)
def execRangeModify (q n : Nat) (s : State) : Out := unitCmd s (rangeModifyState q n)
def execRangeSync (q n : Nat) (s : State) : Out := unitCmd s (rangeSyncState q n)

/-! ### The end of the drain (R105, R192) -/

/-- Put a shared object back, or drop one that has neither the host's reference nor another (R328). -/
def putShared (l : List (Nat × SharedObj)) (h : Nat) (o : SharedObj) : List (Nat × SharedObj) :=
  if !o.hostRef && o.refs == 0 then l.filter (fun p => p.1 != h)
  else l.map (fun p => if p.1 == h then (h, o) else p)

/-- Change the reference count of the shared object that holds a SHARED range; an object without references
ends (R328). -/
def shareRef (s : State) (sl : Nat) (e : RangeE) (add : Bool) : State :=
  if !e.shared then s
  else
    match sharedAt s sl e.lpa e.bytes with
    | none => s
    | some (h, o) =>
      let o' := { o with refs := if add then o.refs + 1 else o.refs - 1 }
      s.updSail sl (fun x => { x with shared := putShared x.shared h o' })

/-- Drop what the yards hold of a context's removed spans: lines, and descriptors that the spans cover; `all` drops every descriptor of
the context (R105, R110, R192). -/
def dropCached (s : State) (c : Nat) (spans : List RangeE) (lines : List (Nat × Nat)) (all : Bool) : State :=
  let s := lines.foldl (fun s x => dropSpan s x.1 x.2) s
  { s with yards := s.yards.map (fun p => (p.1, { p.2 with
      eng := p.2.eng.map (fun g => (g.1, { g.2 with descs := g.2.descs.filter (fun d =>
        !(d.ctx == c && (all || spans.any (fun e => e.covers (descVa (s.ctx c) d.index))))) })) })) }

/-- Whether a context's epochs before MSEQ `m` hold no use (R192, steps 3 and 4): commands other than those that `skip` names, DMA
descriptors, requests at the yards, commit groups to apply, migrations, Ryurun operations. -/
def epochEmpty (s : State) (c : Nat) (m : Word) (skip : Nat → Nat → Bool) : Bool :=
  let old := fun (e : Word) => decide (e.toNat < m.toNat)
  !oldUse s c m skip &&
  !s.dma.any (fun p => p.2.descs.any (fun d => d.ctx == c && old d.epoch)) &&
  !s.yards.any (fun p => p.2.reqs.any (fun r => r.ctx == c && r.phase != .returned && old (reqUse s c r.q r.n).epoch)) &&
  !s.groups.any (fun p => p.2.ctx == c && p.2.st == .committed && old p.2.epoch) &&
  !(s.ctx c).migs.any (fun x => old x.epoch) &&
  !s.ryu.tags.any (fun p => match p.2.op with
    | none => false
    | some o => o.ctx == c && old o.epoch)

/-- Whether the old epoch of a draining context is empty; the range command itself is no use of it. -/
def oldEpochEmpty (s : State) (c : Nat) (d : DrainSt) : Bool := epochEmpty s c d.mseq (fun q n => q == d.q && n == d.n)

/-- RANGE_DRAIN_END (R192, steps 5 and 6): the effective point; no access reaches an old target through the removed spans any more
(R193). -/
def rangeDrainEnd (c : Nat) (s : State) : State :=
  match (s.ctx c).drain, s.ctxSail c with
  | some d, some sl =>
    if oldEpochEmpty s c d then
      let s := dropCached s c d.spans d.lines d.sync
      let s := d.spans.foldl (fun s e => shareRef s sl e false) s
      let s := d.newRefs.foldl (fun s e => shareRef s sl e true) s
      let s := s.updCtx c (fun x => { x with drain := none, past := x.past.filter (fun t => decide (d.mseq.toNat < t.mseq.toNat)) })
      complete (pruneTombs s c) d.q d.n .done
    else s
  | _, _ => s

def execRangeDrainEnd (c : Nat) (s : State) : Out := unitCmd s (rangeDrainEnd c)

/-! ### Ranges that lose their resource at a swap (R197) -/

/-- Remove the ranges of a context that satisfy `f`, at a swap: point I of their drain (R192). -/
def removeRanges (s : State) (c : Nat) (f : RangeE → Bool) : State :=
  let l := (s.ctx c).ranges.filter f
  if l.isEmpty then s
  else
    let s := pruneTombs s c
    let lines := coveredLines s c l
    let m := (s.ctx c).mseq + 1
    let s := s.updCtx c (fun x =>
      let y := addTombs { x with mseq := m } m l
      { y with
          ranges := x.ranges.filter (fun e => !f e)
          past := x.past ++ l.map (fun e => { mseq := m, old := e })
          rigDrain := some { mseq := m, spans := l, lines := lines } })
    dropTranslations s c l false

/-- Whether every program of a command is saved: paused by a swap, it is no use in flight until it resumes (log entry 26). -/
def cmdSaved (s : State) (sl q n : Nat) : Bool :=
  (s.sail sl).saved.any (fun v => v.prog.q == q && v.prog.n == n) &&
    !s.cores.any (fun x => match x.2.prog with
      | none => false
      | some p => p.q == q && p.n == n)

/-- Whether the old epoch of the ranges that a swap removed from a context is empty. -/
def rigDrainEmpty (s : State) (sl c : Nat) : Bool :=
  match (s.ctx c).rigDrain with
  | none => true
  | some d => epochEmpty s c d.mseq (cmdSaved s sl)

/-- The effective point of the ranges that a swap removed from a context (R192, R197): what a paused program still names of them is
judged as R194 states. -/
def rigDrainEnd (s : State) (sl c : Nat) : State :=
  match (s.ctx c).rigDrain with
  | none => s
  | some d =>
    let s := d.spans.foldl (fun s e => shareRef s sl e false) (dropCached s c d.spans d.lines false)
    s.updCtx c (fun x => { x with rigDrain := none, past := x.past.filter (fun t => t.mseq != d.mseq) })

/-! ### DIRTY_HARVEST (R206) -/

/-- What DIRTY_HARVEST finds wrong with a piece of its destination before it exchanges anything: it does not translate, no import covers
it (R228), or it lies on another node and no Ryurun write reaches it, which moves units of 32 bytes (log entry 67). -/
def harvestFault (s : State) (u : Use) (sl : Nat) (p : Nat × Nat) : Option (Status × Nat) :=
  match locate s u p.1 .write with
  | .bad st => some (st, p.1)
  | .remote node a _ =>
    if p.1 % 32 != 0 || p.2 % 32 != 0 then some (.malformed, p.1)
    else if (findImport s sl node a p.2 (fun i => i.write)).isNone then some (.faultPermission, p.1)
    else none
  | _ => none

/-- Exchange the words of a piece with zero: the words from `w` on, `n` of them (R206). -/
def clearWords (s : State) (u : Use) (e : RangeE) (w n : Nat) : State :=
  (List.range n).foldl (fun s i => writeMap s u (e.dmap + 8 * (w + i)) 0) s

/-- Copy the words of the pieces of a destination in order, each exchanged with zero as it is copied; a piece on another node leaves as a
Ryurun write, and waits while no tag is free. `w` is the word of the bitmap that the first piece holds. -/
def harvestPieces (s : State) (u : Use) (e : RangeE) (sl q n : Nat) : Nat → List (Nat × Nat) → State
  | _, [] => endPart s q n
  | w, (va, len) :: t =>
    let k := len / 8
    let old := (List.range k).flatMap (fun i => leBytes 8 (readMap s u (e.dmap + 8 * (w + i))))
    let done := fun (s : State) => (clearWords s u e w k).updCmd q n (fun c => { c with aux := c.aux + BitVec.ofNat 32 k })
    match locate s u va .write with
    | .loc key o => harvestPieces (writeAt (done s) u va key o old false) u e sl q n (w + k) t
    | .remote node a o =>
      match issueAccess s true sl u.ctx node a len old [] (.harvest q n) with
      | .sent s1 _ =>
        let s2 := (dirtyMark (done s1) u o va).updCmd q n (fun c => { c with parts := c.parts + 1 })
        harvestPieces s2 u e sl q n (w + k) t
      | .stall => s
      | .fail st => endPart (noteErr s q n st) q n
    | _ => endPart s q n

/-- DIRTY_HARVEST (R206): the whole destination is translated before any word is exchanged; AUX counts the words copied. -/
def harvestState (q n : Nat) (s : State) : State :=
  match s.cmd q n, s.ctxSail (s.queueCtx q) with
  | some k, some sl =>
    if k.opcode != 0x18 || !(k.phase == .started || k.phase == .executing) || heldBack s q n then s
    else
      let c := s.queueCtx q
      let first := bytesOf k.raw 16 23
      let count := bytesOf k.raw 24 27
      let dst := bytesOf k.raw 32 39
      let left := fun (done : Nat) => cut (dst + 8 * done) (8 * (count - done))
      let s0 := startXlat s q n
      let named := fun (e : RangeE) => e.vstart == bytesOf k.raw 8 15 && e.dlog
      let range := if k.phase == .executing then
          ((s.ctx c).past.find? (fun t => named t.old && decide ((useOfCmd s0 q n).epoch.toNat < t.mseq.toNat))).map (·.old)
        else none
      match range <|> (s.ctx c).ranges.find? named with
      | none => complete s q n .malformed
      | some e =>
        if k.phase == .executing then
          if k.aux.toNat < count then harvestPieces s (useOfCmd s q n) e sl q n (first + k.aux.toNat) (left k.aux.toNat) else s
        else if first + count > (e.pages + 63) / 64 || dst % 8 != 0 then complete s q n .malformed
        else
          let m := serve s0 (useOfCmd s0 q n) dst (8 * count) .write
          if m.2.2 then m.1
          else
            match (left 0).findSome? (harvestFault m.1 m.2.1 sl) with
            | some (st, va) => complete (noteXlt m.1 c va st .write) q n st
            | none =>
              let s := m.1.updCmd q n (fun c => { c with phase := .executing, parts := 1 })
              harvestPieces s m.2.1 e sl q n first (left 0)
  | _, _ => s

def execDirtyHarvest (q n : Nat) (s : State) : Out := unitCmd s (harvestState q n)

/-! ### Shared objects (R328) -/

/-- The lowest handle that no shared object of a sail has. -/
def freeShared (x : Sail) : Nat := ((List.range 16).find? (fun h => !x.shared.any (fun p => p.1 == h))).getD 0

def sharedCreateState (q n : Nat) (s : State) : State :=
  match startedAs s q n 0x30, s.ctxSail (s.queueCtx q) with
  | some k, some sl =>
    let g := bytesOf k.raw 8 15
    let pages := bytesOf k.raw 16 23
    let a := g % 2 ^ 48
    let x := s.sail sl
    if g % 4096 != 0 || pages = 0 || x.shared.length ≥ 16 then complete s q n .malformed
    else
      let writable := (sailCtxs s sl).any (fun c => (s.ctx c).ranges.any (fun e =>
        e.w && s.isOwnNode e.node && decide (e.lpa < a + 4096 * pages) && decide (a < e.lpa + e.bytes)))
      if !s.isOwnNode (g / 2 ^ 48 % 2 ^ 16) || !spanMapped s a (4096 * pages) || !spanOwned s sl a (4096 * pages) || writable then
        complete s q n .faultPermission
      else
        let o : SharedObj := { base := a, pages := pages, hostRef := true, refs := 0 }
        let h := freeShared x
        complete (setAux (s.updSail sl (fun x => { x with shared := x.shared ++ [(h, o)] })) q n h) q n .done
  | _, _ => s

def sharedReleaseState (q n : Nat) (s : State) : State :=
  match startedAs s q n 0x31, s.ctxSail (s.queueCtx q) with
  | some k, some sl =>
    let h := bytesOf k.raw 8 9
    match (s.sail sl).shared.find? (fun p => p.1 == h && p.2.hostRef) with
    | none => complete s q n .malformed
    | some (_, o) =>
      let s := s.updSail sl (fun x => { x with shared := putShared x.shared h { o with hostRef := false } })
      complete s q n .done
  | _, _ => s

def execSharedCreate (q n : Nat) (s : State) : Out := unitCmd s (sharedCreateState q n)
def execSharedRelease (q n : Nat) (s : State) : Out := unitCmd s (sharedReleaseState q n)

end Sys2Proof.Machine
end

