-- ==== Sys2Proof/Machine/CleatBase.lean ====
section
/-! DEFINITION. Cleat records (R247 to R249), cleat messages as this device sends them (R250), and the copying of an
offered state (R252).
Choices of the model here: log entry 34 (DESIGN CHOICE). -/

namespace Sys2Proof.Machine

open Sys2Proof

/-! ### Records -/

/-- The anchor of a cleat. -/
def anchorOf (id : Word) : Nat := id.toNat / 2 ^ 48

/-- The record of a cleat: the anchor's own (`anchor`), or the one of a party that holds or receives the state. -/
def State.cleat (s : State) (id : Word) (anchor : Bool) : Option Cleat :=
  s.ryu.cleats.find? (fun r => r.id == id && r.anchor == anchor)

/-- Free a record. -/
def dropCleat (s : State) (id : Word) (anchor : Bool) : State :=
  { s with ryu := { s.ryu with cleats := s.ryu.cleats.filter (fun r => !(r.id == id && r.anchor == anchor)) } }

/-- Write a record in place of the one with its name and role. -/
def putCleat (s : State) (r : Cleat) : State :=
  let t := dropCleat s r.id r.anchor
  { t with ryu := { t.ryu with cleats := t.ryu.cleats ++ [r] } }

/-- The records of a sail against its quota (R258). -/
def cleatRoom (s : State) (sl : Nat) : Bool :=
  decide ((s.ryu.cleats.filter (fun r => r.sail == sl)).length < ((s.desc sl).map (·.cleats)).getD 0)

/-- An empty record of a sail. -/
def Cleat.blank (id : Word) (epoch : BitVec 32) (st : CleatSt) (sl : Nat) (now : Word) : Cleat :=
  { id := id, epoch := epoch, st := st, anchor := false, mirrored := false, mirrorLost := false, replayed := false,
    sail := sl, peer := 0xFFFF, next := 0xFFFF, mirrorNode := 0xFFFF, owner := 0xFFFF, win := 0, addr := 0, len := 0,
    q := 0, n := 0, at_ := now, timer := none, paused := none, mirrorOk := false, committed := false, acked := false, entry := none,
    job := none, src := 0, asked := 0, got := 0 }

/-- A record in a new state, stamped with the time of the transition; a timer runs in OFFERED, ACCEPTED and
COMMITTING (R253). -/
def Cleat.enter (r : Cleat) (st : CleatSt) (now : Word) : Cleat :=
  let runs := st == .offered || st == .accepted || st == .committing
  { r with st := st, at_ := now, timer := if runs then some now else none, paused := none }

/-- The number of a state in a record, by its row in the table of R249; a receiver that still copies has no record. -/
def CleatSt.code : CleatSt → Nat
  | .open_ => 0 | .committing => 1 | .held => 2 | .offered => 3 | .accepted => 4 | .refused => 5 | .mirror => 6 | .track => 7
  | .copying => 5

/-- The 64 bytes of a record (R248). -/
def Cleat.bytes (r : Cleat) (cmdId : Nat) : List Byte :=
  let bit := fun (x : Bool) (i : Nat) => if x then 2 ^ i else 0
  leBytes 8 r.id.toNat ++ leBytes 4 r.epoch.toNat ++ leBytes 1 r.st.code ++
  leBytes 1 (bit r.anchor 0 + bit r.mirrored 1 + bit r.mirrorLost 2 + bit r.replayed 3) ++ leBytes 2 r.sail ++ leBytes 2 r.peer ++
  leBytes 2 r.mirrorNode ++ leBytes 2 r.owner ++ leBytes 2 r.win ++ leBytes 8 r.addr.toNat ++ leBytes 8 r.len.toNat ++
  (if r.anchor then leBytes 4 r.q ++ leBytes 4 cmdId else leBytes 8 0) ++ leBytes 8 r.at_.toNat ++ leBytes 8 0

/-- The COMMAND_ID of an anchor's command. -/
def cleatCmdId (s : State) (r : Cleat) : Nat := ((s.cmd r.q r.n).map (fun c => bytesOf c.raw 2 3)).getD 0

/-! ### Messages -/

/-- The import of a sail through which it reaches the state window of a node (R225, R250). -/
def stateImport (s : State) (sl node : Nat) : Option Import :=
  (s.ryu.imports.find? (fun p => p.2.sail == sl && p.2.ready && !p.2.closing && p.2.node == node && p.2.state)).map (·.2)

/-- The payload of a cleat message: CLEAT_ID, state address, state length, mirror node. -/
def cleatPayload (r : Cleat) : List Byte :=
  leBytes 8 r.id.toNat ++ leBytes 8 r.addr.toNat ++ leBytes 8 r.len.toNat ++ leBytes 8 r.mirrorNode

/-- Send a cleat message about a record to a node (R250). A message to this device itself leaves on no port. -/
def sendCleat (s : State) (r : Cleat) (dst op sub : Nat) (epoch : BitVec 32) : State :=
  let i := stateImport s r.sail dst
  let arg := BitVec.ofNat 64 (epoch.toNat + 2 ^ 32 * sub)
  let win := (i.map (·.win)).getD 0
  let gen := (i.map (·.ogen)).getD 0
  if dst == s.ryu.node then
    sendMsg s { port := 32, dst := dst, lease := 15, tc := 2, op := op, tag := 0, tepoch := 0, keyGen := gen, rKeyGen := 0,
                xlen := 0, arg := arg, win := win, enc := true, poison := [], payload := cleatPayload r }
  else sendReply s r.sail dst 2 op 0 0 gen arg win (cleatPayload r) []

/-- Answer a message whose EPOCH is below the record's with STALE (R252), on the leases of the sail on whose lease it came. -/
def answerStale (s : State) (r : Cleat) (sl dst : Nat) : State :=
  let s := sendCleat s { r with sail := sl } dst 0x38 0 r.epoch
  { s with ryu := { s.ryu with stale := satInc s.ryu.stale } }

/-- Ask the fabric manager to place a node for a cleat (R259). -/
def askPlace (s : State) (id : Word) (role : PlaceRole) : State := sendFm s (.place id role)

/-! ### Copying an offered state (R252) -/

/-- Pieces of a state of `len` bytes. -/
def cleatPieces (len : Word) : Nat := (len.toNat + 4095) / 4096

/-- Bytes of piece `i`, a multiple of 32. -/
def pieceLen (len : Word) (i : Nat) : Nat := min 4096 (pad32 (len.toNat - 4096 * i))

/-- The receiver accepts (R252, step 2): ACCEPT goes to the releaser and to the anchor. -/
def acceptCleat (s : State) (r : Cleat) : State :=
  let r := r.enter .accepted s.time
  let s := sendCleat (putCleat s r) r r.peer 0x36 0 r.epoch
  if anchorOf r.id == r.peer then s else sendCleat s r (anchorOf r.id) 0x36 0 r.epoch

/-- The receiver cannot copy the state: it answers DECLINE and gives the copying up, of which there is no record yet (R252). -/
def declineCleat (s : State) (r : Cleat) : State := sendCleat (dropCleat s r.id r.anchor) r r.peer 0x37 1 r.epoch

/-- Issue reads of an offered state until all have been issued or no tag is free: the record, and the failure of a
read that cannot be issued. -/
def cleatReads : Nat → State → Cleat → State × Cleat × Option Status
  | 0, s, r => (s, r, none)
  | f + 1, s, r =>
    if r.asked ≥ cleatPieces r.len then (s, r, none)
    else
      let a := r.src.toNat % 2 ^ 48 + 4096 * r.asked
      let c := match Tbl.look s.ryu.exports r.win with
        | none => 0
        | some e => e.creator
      match issueAccess s false r.sail c r.peer a (pieceLen r.len r.asked) [] [] (.cleat r.id r.asked) with
      | .sent s1 _ => cleatReads f s1 { r with asked := r.asked + 1 }
      | .stall => (s, r, none)
      | .fail st => (s, r, some st)

/-- Go on with the copying of an offered state; when the last piece has arrived, accept. -/
def cleatPump (s : State) (r : Cleat) : State :=
  let x := cleatReads (cleatPieces r.len + 1) s r
  match x.2.2 with
  | some _ => declineCleat x.1 x.2.1
  | none => if x.2.1.got ≥ cleatPieces x.2.1.len then acceptCleat x.1 x.2.1 else putCleat x.1 x.2.1

/-- A read of an offered state ends: its bytes stand in the state window, or the receiver declines. -/
def cleatPiece (s : State) (id : Word) (i : Nat) (st : Status) (bytes : List Byte) (marks : List Bool) : State :=
  match s.cleat id false with
  | none => s
  | some r =>
    if r.st != .copying then s
    else if st != .done || marks.contains true || bytes.length != pieceLen r.len i then declineCleat s r
    else
      match memKey s (r.addr.toNat % 2 ^ 48 + 4096 * i) with
      | none => declineCleat s r
      | some k => cleatPump (store s k bytes) { r with got := r.got + 1 }

/-! ### Phase 1 and the mirror (R250, R251) -/

/-- The executor sends COMMIT. -/
def sendCommit (s : State) (r : Cleat) : State :=
  let r' := r.enter .committing s.time
  sendCleat (putCleat s r') r' (anchorOf r.id) 0x33 0 r.epoch

/-- The owner goes on without its mirror (R256); an executor that waits for it commits. -/
def loseMirror (s : State) (r : Cleat) : State :=
  let r' := { r with mirrorLost := true }
  if !r.anchor && r.st == .open_ && r.job.isNone then sendCommit s r' else putCleat s r'

/-- Issue the writes of a state to its mirror's window until all have been issued or no tag is free. -/
def mirrorWrites : Nat → State → Cleat → State × Cleat × Option Status
  | 0, s, r => (s, r, none)
  | f + 1, s, r =>
    if r.asked ≥ cleatPieces r.len then (s, r, none)
    else
      let a := r.addr.toNat % 2 ^ 48 + 4096 * r.asked
      let n := pieceLen r.len r.asked
      let c := match Tbl.look s.ryu.exports r.win with
        | none => 0
        | some e => e.creator
      match stateImport s r.sail r.mirrorNode, memKey s a with
      | some i, some k =>
        match issueAccess s true r.sail c r.mirrorNode (i.gbase + 4096 * r.asked) n (readBytes s k n) (unitMarks s k n)
            (.mirror r.id r.asked) with
        | .sent s1 _ => mirrorWrites f s1 { r with asked := r.asked + 1 }
        | .stall => (s, r, none)
        | .fail st => (s, r, some st)
      | _, _ => (s, r, some .faultPermission)

/-- Go on with the writes to the mirror; when all have completed, MIRROR_PUT leaves (R250). A mirror that cannot be written is lost. -/
def mirrorPump (s : State) (r : Cleat) : State :=
  let x := mirrorWrites (cleatPieces r.len + 1) s r
  match x.2.2 with
  | some _ => loseMirror x.1 x.2.1
  | none =>
    let y := x.2.1
    let n := cleatPieces y.len
    if n ≤ y.got && y.asked = n then
      let y' := { y with asked := n + 1 }
      sendCleat (putCleat x.1 y') y' y'.mirrorNode 0x31 0 y'.epoch
    else putCleat x.1 y

/-- A write to the mirror ends. -/
def mirrorPiece (s : State) (id : Word) (st : Status) : State :=
  match s.cleat id false with
  | none => s
  | some r =>
    if r.st != .open_ || r.mirrorLost then s
    else if st == .done then mirrorPump s { r with got := r.got + 1 }
    else loseMirror s r

/-- Phase 1 has run to its end: a mirrored state goes to the mirror first, then COMMIT is sent (R251). -/
def phaseEnd (s : State) (r : Cleat) : State :=
  if r.mirrored && !r.mirrorOk && !r.mirrorLost then mirrorPump s r else sendCommit s r

end Sys2Proof.Machine
end

