-- ==== Sys2Proof/Machine/Update.lean ====
section
/-! DEFINITION. The arithmetic of update actions (R132 to R134), the form of requests, and what a yard answers to a request at once
(R100, R119).
Choices of the model here: log entry 22 (DEDUCED). -/

namespace Sys2Proof.Machine

open Sys2Proof

/-- A computation on FP32 codes with the flags it has raised. -/
abbrev F32 := Nat × BitVec 5

/-- A constant. -/
def fc (x : Nat) : F32 := (x, 0)

/-- One FP32 operation rounded once under RNE. -/
def fop (op : VOp) (a b c : F32) : F32 :=
  let r := floatElem op .fp32 .rne a.1 b.1 c.1
  (r.1, a.2 ||| b.2 ||| c.2 ||| r.2)

def fadd (a b : F32) : F32 := fop .add a b (fc 0)
def fsub (a b : F32) : F32 := fop .sub a b (fc 0)
def fmul (a b : F32) : F32 := fop .mul a b (fc 0)
def fdiv (a b : F32) : F32 := fop .div a b (fc 0)
def ffma (a b c : F32) : F32 := fop .fma a b c

/-- Exact square root of a value to 100 more bits than FP32 holds, with a sticky bit. -/
def vSqrt (a : Val) : Val × Bool × BitVec 5 :=
  match a with
  | .nan => (.nan, false, 0)
  | .inf n => if n then (.nan, false, fNV) else (.inf false, false, 0)
  | .fin n m e =>
    if m = 0 then (.fin n 0 0, false, 0)
    else if n then (.nan, false, fNV)
    else
      let m' := if e % 2 = 0 then m else 2 * m
      let e' := if e % 2 = 0 then e else e - 1
      let x := m' <<< 200
      let r := isqrt x
      (.fin false r (e' / 2 - 100), r * r ≠ x, 0)

/-- Correctly rounded square root. -/
def fsqrt (a : F32) : F32 :=
  let r := vSqrt (decodeElem .fp32 a.1)
  let o := toIeee .fp32 .rne r.1 r.2.1
  (o.1, a.2 ||| r.2.2 ||| o.2)

/-- Slot `i` of the parameter block (R132). -/
def param (record : List Byte) (i : Nat) : Nat := leNat ((record.drop (32 + 4 * i)).take 4)

/-- How many parameter slots an optimizer uses; the rest must be 0. -/
def usedSlots (kind : Nat) : Nat :=
  match kind with
  | 0 => 2
  | 1 => 3
  | 2 => 9
  | _ => 0

def paramsOk (kind : Nat) (record : List Byte) : Bool :=
  (List.range 16).all (fun i => decide (i < usedSlots kind) || param record i == 0)

/-- State elements of a row (R132): one for row-wise Adagrad, 2 D for Adam. -/
def stateElems (kind d : Nat) : Nat :=
  match kind with
  | 1 => 1
  | 2 => 2 * d
  | _ => 0

/-- The update of R132 on FP32 codes: new row and new state, with flags. -/
def updateMath (kind : Nat) (p : Nat → Nat) (w st g : List Nat) : List Nat × List Nat × BitVec 5 :=
  let pc := fun i => fc (p i)
  let pack := fun (l : List F32) => (l.map (·.1), l.foldl (fun f x => f ||| x.2) (0 : BitVec 5))
  let wg := w.zip g
  match kind with
  | 0 =>
    let r := pack (wg.map (fun x => fsub (fc x.1) (fmul (pc 0) (ffma (pc 1) (fc x.1) (fc x.2)))))
    (r.1, [], r.2)
  | 1 =>
    let acc := g.foldl (fun a x => ffma (fc x) (fc x) a) (fc 0)
    let d := fc (toFloat .fp32 .rne .inf (.ofInt w.length)).1
    let s := fadd (fc (st.headD 0)) (fdiv acc d)
    let den := fadd (fsqrt s) (pc 2)
    let r := pack (wg.map (fun x =>
      fsub (fc x.1) (fdiv (fmul (pc 0) (ffma (pc 1) (fc x.1) (fc x.2))) den)))
    (r.1, [s.1], r.2 ||| den.2)
  | 2 =>
    let d := w.length
    let mv := (List.range d).map (fun i => (st.getD i 0, st.getD (d + i) 0))
    let all := (wg.zip mv).map (fun x =>
      let m := ffma (pc 3) (fc x.2.1) (fmul (pc 4) (fc x.1.2))
      let v := ffma (pc 5) (fc x.2.2) (fmul (pc 6) (fmul (fc x.1.2) (fc x.1.2)))
      let t := fdiv (fmul m (pc 7)) (fadd (fsqrt (fmul v (pc 8))) (pc 2))
      (fsub (fc x.1.1) (fmul (pc 0) (ffma (pc 1) (fc x.1.1) t)), m, v))
    let r := pack (all.map (·.1))
    (r.1, all.map (fun x => x.2.1.1) ++ all.map (fun x => x.2.2.1), r.2)
  | _ => (g, [], 0)

/-- Convert FP32 codes to a format under RM and OVF; under SR the generator steps once for each element, except
for FP32, which is exact (R133, R134): the generator, the codes, the flags. -/
def convList (f : Fmt) (rm : Nat) (ovf : Bool) (gen : Lane) : List Nat → Lane × List Nat × BitVec 5
  | [] => (gen, [], 0)
  | x :: t =>
    let step := rm == 2 && f != .fp32
    let gen' := if step then srNext gen else gen
    let rnd : Rnd := if rm = 1 then .rtz else if step then .sr (srWord gen') else .rne
    let o := convert .fp32 f rnd ovf 0 (decodeElem .fp32 x)
    let r := convList f rm ovf gen' t
    (r.1, o.1 :: r.2.1, o.2 ||| r.2.2)

/-- The elements of bytes in a format, widened to FP32. -/
def widen (f : Fmt) (n : Nat) (l : List Byte) : List Nat :=
  let x := leNat l
  (List.range n).map (fun i => (toFloat .fp32 .rne .inf (decodeElem f (packedElem f.width x i))).1)

/-- The format of optimizer state (R108). -/
def Table.stFmt (t : Table) : Fmt := if t.stateFmt = 0 then .fp32 else .bf16

/-- The bytes of a row's state. -/
def stateBytes (kind : Nat) (t : Table) : Nat := stateElems kind t.d * (t.stFmt.width / 8)

/-- New row and state bytes of an action (R132 to R134): the generator, the row, the state, the flags. -/
def updateRow (record : List Byte) (t : Table) (gen : Lane) (row st : List Byte) :
    Lane × List Byte × List Byte × BitVec 5 :=
  let h := reqHdr record
  let f := (t.elemFmt).getD .fp32
  let gf : Fmt := if h.outFmt = 0 then .fp32 else .bf16
  let g := widen gf t.d (record.drop 96)
  let n := stateElems h.pool t.d
  let r := updateMath h.pool (param record) (widen f t.d row) (widen t.stFmt n st) g
  let a := convList f h.rm h.ovf gen r.1
  let b := convList t.stFmt h.rm h.ovf a.1 r.2.1
  (b.1, codeBytes f.width a.2.1, codeBytes t.stFmt.width b.2.1, r.2.2 ||| a.2.2 ||| b.2.2)

/-! ### The form of a request (R119, first row) -/

/-- The ID of an UPDATE (R114). -/
def updateId (h : ReqHdr) (record : List Byte) : Nat := if h.idw32 then recField record 1 31 0 else recField record 1 63 0

/-- Whether the table of a request lies on another node (R111); a BASE that does not translate counts as this one (log entry 22). -/
def isRemoteTable (s : State) (u : Use) (t : Table) : Bool :=
  match tableRemote s u t with
  | .ok (some _) => true
  | _ => false

/-- Whether an UPDATE breaks the form that its table asks for (R118, R119, R132, R133). -/
def updateMalformed (s : State) (u : Use) (record desc : List Byte) : Bool :=
  let h := reqHdr record
  let t := tableOf desc
  !descOk desc || h.count != t.d || t.cb4 || t.fmt == 9 || isRemoteTable s u t || !paramsOk h.pool record ||
    (stateBytes h.pool t != 0 && t.stateBase == 0) || nameOf t h.raw h.idw32 (updateId h record) == .beyond

/-- Whether a lookup breaks the form that its table asks for (R115, R118, R119). -/
def lookupMalformed (s : State) (u : Use) (record desc : List Byte) : Bool :=
  let h := reqHdr record
  let t := tableOf desc
  !descOk desc || (h.yop != 0x01 && decide (returnLen h t > 65536)) ||
    (!isRemoteTable s u t && (lookupRows h t record).isNone)

/-- What the form of a request says of it: MALFORMED, or the failure of the read of its descriptor (R110, R119). -/
def formStatus (s : State) (r : YReq) : Option Status :=
  let h := reqHdr r.record
  let u := reqUse s r.ctx r.q r.n
  if !headerOk r.record then some .malformed
  else if isLookup h.yop || h.yop == 0x11 then
    match readDesc s u h.table with
    | .bad st => some st
    | .hold _ _ => none
    | .ok l =>
      if (if h.yop == 0x11 then updateMalformed s u r.record l else lookupMalformed s u r.record l) then some .malformed else none
  else none

/-- What a yard answers to a request as it arrives, if it answers at once: MALFORMED for a reserved operation, FAULT_PERMISSION for
a sail without a lookup engine in service, unless its form decides first (R100, R119). -/
def atOnce (s : State) (y : Nat) (r : YReq) : Option Status :=
  let known := [0x01, 0x02, 0x03, 0x10, 0x11, 0x12, 0x13, 0x20, 0x21].contains (reqHdr r.record).yop
  if !known then some .malformed
  else if (lookupEngines s y r.sail).isEmpty then some ((formStatus s r).getD .faultPermission)
  else none

/-- Settle a request that is answered at once. -/
def settleArrival (s : State) (y id : Nat) : State :=
  match s.yreq y id with
  | none => s
  | some r =>
    match atOnce s y r with
    | some st => finishReq s y id st []
    | none => s

end Sys2Proof.Machine
end

