-- ==== Sys2Proof/Machine/Commit.lean ====
section
/-! DEFINITION. Commit groups (R121 to R131): handles, actions, intent logs, the commit point, apply, retire,
the hold timer, and the end of groups at resets.
Choices of the model here: log entry 22 (DEDUCED), log entry 23 (DESIGN CHOICE). -/

namespace Sys2Proof.Machine

open Sys2Proof

/-! ### Quota and handles (R121, R122) -/

/-- The commit-group quota and hold limit in µs of a sail (R121, R129). -/
def cgQuota (s : State) (sl : Nat) : Nat := ((s.desc sl).map (·.cgQuota)).getD 0
def cgHold (s : State) (sl : Nat) : Nat :=
  let h := ((s.desc sl).map (·.cgHold)).getD 0
  if h = 0 then 1000 else h

/-- The open groups of a sail: handles that are not free. -/
def openGroups (s : State) (sl : Nat) : Nat :=
  (s.groups.filter (fun p => p.2.st != .free && p.2.sail == sl)).length

/-- The lowest free handle of 512. -/
def freeHandle (s : State) : Option Nat := (List.range 512).find? (fun h => (s.group h).st == .free)

/-- HANDLE and GEN as a return carries them (R114). -/
def handleBytes (h : Nat) (gen : BitVec 16) : List Byte := leBytes 32 (h + 65536 * gen.toNat)

/-- Open a group for a CG_BEGIN (R124, steps 1 and 2). -/
def openGroup (s : State) (y : Nat) (r : YReq) (h : Nat) : State :=
  let g : Group := { Group.empty with gen := (s.group h).gen, st := .open_, ctx := r.ctx, sail := r.sail, q := r.q,
                                      n := r.n, stamp := (reqUse s r.ctx r.q r.n).stamp, epoch := (reqUse s r.ctx r.q r.n).epoch, coord := y, begun := s.time }
  endReq (s.setGroup h g) y r.id .done (handleBytes h g.gen)

/-- CG_BEGIN (R121): a handle of the quota, a wait for one, or the refusal of a sail without a quota. -/
def cgBeginState (y id : Nat) (s : State) : State :=
  match waitingOp s y id 0x10 with
  | none => s
  | some r =>
    if !headerOk r.record then endReq s y id .malformed []
    else if cgQuota s r.sail = 0 then endReq s y id .faultPermission []
    else
      let wait := (releaseEngine s y r).updReq y id (fun r => { r with phase := .quota })
      if openGroups s r.sail ≥ cgQuota s r.sail then wait
      else match freeHandle s with
        | none => wait
        | some h => openGroup s y r h

/-- CG_BEGIN_QUOTA_GRANT (R121): the oldest CG_BEGIN of the sail that waits in this yard opens its group. -/
def quotaGrant (y sl : Nat) (s : State) : State :=
  match (s.yard y).reqs.find? (fun r => r.sail == sl && r.phase == .quota) with
  | none => s
  | some r =>
    if openGroups s sl ≥ cgQuota s sl then s
    else match freeHandle s with
      | none => s
      | some h => openGroup s y r h

def execCgBegin (y id : Nat) (s : State) : Out := unitCmd s (cgBeginState y id)
def execCgBeginQuotaGrant (y sl : Nat) (s : State) : Out := unitCmd s (quotaGrant y sl)

/-! ### Group states (R122, R123) -/

/-- HANDLE and GEN in word 2 of a request (R114). -/
def handleOf (record : List Byte) : Nat := recField record 2 8 0
def genOf (record : List Byte) : BitVec 16 := BitVec.ofNat 16 (recField record 2 31 16)

/-- What R122 answers to a request that names a group, before its state: none when the group is OPEN or DOOMED
and the request reaches it rightly. A handle that no group holds counts as ended (log entry 23). -/
def groupRefusal (s : State) (y ctx : Nat) (record : List Byte) : Option Status :=
  let g := s.group (handleOf record)
  if g.st == .free || g.gen != genOf record then some .txnConflict
  else if g.coord != y then some .malformed
  else if g.ctx != ctx then some .faultPermission
  else if g.ended then some .malformed
  else if g.st == .open_ || g.st == .doomed then none
  else some .txnConflict

/-- Doom an OPEN group; the first cause stays (R123, R139). -/
def doom (s : State) (h : Nat) (c : DoomCause) : State :=
  let g := s.group h
  if g.st == .open_ then s.setGroup h { g with st := .doomed, cause := some (g.cause.getD c) } else s

/-- Count an ABORTED group once, by the first cause that doomed or ended it (R139). -/
def countAbort (s : State) (g : Group) : State :=
  bumpYard s g.coord g.sail (fun c =>
    match g.cause with
    | some .conflict => { c with conflict := satInc c.conflict }
    | some .logFull => { c with logFull := satInc c.logFull }
    | some .expired => { c with expired := satInc c.expired }
    | some .explicit => { c with explicit := satInc c.explicit }
    | _ => c)

/-! ### Intent logs (R127, R128) -/

/-- The intent log of a sail in a yard. -/
def logOf (s : State) (sl y : Nat) : Option LogEntry :=
  match s.unitRig (yardUnit y) with
  | none => none
  | some r => r.logs.find? (fun l => l.sail == sl && l.yard == y)

/-- Free space of a log in bytes: from where the next record goes to the oldest one whose space is not reclaimed (R127). -/
def logRoom (s : State) (sl y : Nat) : Nat :=
  match logOf s sl y with
  | none => 0
  | some l =>
    let size := 2 ^ l.log2
    (((s.yard y).logRecs.get [] sl).map (fun x => (x.off + size - (s.yard y).logHead.get 0 sl) % size)).foldl min size

/-- What of that an action may take: the commit, abort and retire records of the sail's groups always find room (log entry 23). -/
def actionRoom (s : State) (sl y : Nat) : Nat := logRoom s sl y - 128 * cgQuota s sl

def pad64 (n : Nat) : Nat := (n + 63) / 64 * 64

/-- A log record (R128). -/
def logBytes (h : Nat) (gen : BitVec 16) (kind idx mask a b : Nat) (row st : List Byte) (time : Word) : List Byte :=
  let head := leBytes 2 h ++ leBytes 2 gen.toNat ++ leBytes 1 kind ++ leBytes 1 idx ++ leBytes 2 mask ++ leBytes 8 a ++
    leBytes 8 b ++ leBytes 4 row.length ++ leBytes 4 st.length ++ leBytes 8 time.toNat
  let data := row ++ st
  head ++ leBytes 4 (crc32 (head ++ data)).toNat ++ List.replicate 20 0 ++ data ++
    List.replicate (pad64 data.length - data.length) 0

/-- Append a record of a group to a sail's log in a yard; records follow one another and wrap around (R127). -/
def appendLog (s : State) (sl y h : Nat) (gen : BitVec 16) (l : List Byte) : State :=
  match logOf s sl y with
  | none => s
  | some e =>
    let size := 2 ^ e.log2
    let head := (s.yard y).logHead.get 0 sl
    let n := min l.length (size - head)
    let s1 := store s (e.addr + head) (l.take n)
    let s2 := store s1 e.addr (l.drop n)
    s2.updYard y (fun x => { x with
      logHead := x.logHead.set 0 sl ((head + l.length) % size)
      logRecs := x.logRecs.upd [] sl (fun r => r ++ [{ off := head, len := l.length, handle := h, gen := gen }]) })

/-- Give back the log space of a group's records (R127). -/
def reclaim (s : State) (sl h : Nat) (gen : BitVec 16) : State :=
  { s with yards := s.yards.map (fun p => (p.1, { p.2 with
      logRecs := p.2.logRecs.upd [] sl (fun l => l.filter (fun x => !(x.handle == h && x.gen == gen))) })) }

/-- A commit, abort or retire record in the coordinator's log. -/
def groupRecord (s : State) (h : Nat) (g : Group) (kind mask a : Nat) : State :=
  appendLog s g.sail g.coord h g.gen (logBytes h g.gen kind 0 mask a 0 [] [] s.time)

/-! ### UPDATE at the coordinator (R124, steps 3 and 4) -/

def setAction (g : Group) (i : Nat) (f : Action → Action) : Group :=
  { g with actions := g.actions.map (fun a => if a.idx = i then f a else a) }

/-- A numbered action that failed at the coordinator or at its home yard: it completes with its status and dooms
the group (R124). -/
def failAction (s : State) (h i y id : Nat) (st : Status) (c : DoomCause) : State :=
  let s := s.setGroup h (setAction (s.group h) i (fun a => { a with st := .failed }))
  endReq (doom s h c) y id st []

/-- What the coordinator finds when it judges an UPDATE: the read of its descriptor failed, it is refused, padding, held for a
page, or an action of a row. -/
inductive UpdJudge where
  | desc (st : Status)
  | bad (st : Status)
  | pad
  | hold
  | go (desc : List Byte) (row rowLpa stateLpa home : Nat)

/-- Judge an UPDATE (R110, R111, R118, R119, R132, R133): the form and the table, padding, permission,
the home yard's engines, translation. -/
def judgeUpdate (s : State) (r : YReq) : State × UpdJudge :=
  let h := reqHdr r.record
  let u := reqUse s r.ctx r.q r.n
  if !headerOk r.record then (s, .bad .malformed)
  else if !descExists (s.ctx r.ctx) h.table then (s, .bad .malformed)
  else
    let m := serve s u (descVa (s.ctx r.ctx) h.table) 64 .read
    match readDesc m.1 m.2.1 h.table with
    | .hold _ _ => (m.1, .hold)
    | .bad st => (noteXlt m.1 r.ctx (descVa (s.ctx r.ctx) h.table) st .read, .desc st)
    | .ok l =>
      let t := tableOf l
      let n := stateBytes h.pool t
      if updateMalformed m.1 u r.record l then (m.1, .bad .malformed)
      else
        match nameOf t h.raw h.idw32 (updateId h r.record) with
        | .beyond => (m.1, .bad .malformed)
        | .pad => if t.rdonly then (m.1, .bad .faultPermission) else (m.1, .pad)
        | .row k =>
          let va := t.rowVa k
          let sv := t.stateVa k
          let spans := [(va, t.rowBytes, Acc3.read), (va, t.rowBytes, .write)] ++
            (if n = 0 then [] else [(sv, n, .read), (sv, n, .write)])
          let w := serveSpans m.1 m.2.1 spans
          if t.rdonly then (m.1, .bad .faultPermission)
          else
            let j := judgeSpans w.1 w.2.1 spans
            match j.2 with
            | some .faultPermission => (j.1, .bad .faultPermission)
            | _ =>
              if w.2.2 && j.2.isNone then (w.1, .hold)
              else
                match homeOf w.1 w.2.1 va t with
                | none => (j.1, .bad (j.2.getD .faultTranslation))
                | some home =>
                  if (updEngines s home r.sail).isEmpty then (w.1, .bad .faultPermission)
                  else
                    match j.2 with
                    | some st => (j.1, .bad st)
                    | none =>
                      let key := fun a => match locate w.1 w.2.1 a .write with
                        | .loc k _ => k
                        | _ => 0
                      (w.1, .go l k (key va) (if n = 0 then 0 else key sv) home)

/-- What completes an UPDATE that its group does not take (R119, R122, R124): the first of the group's answer and of what is
wrong with the UPDATE itself; a descriptor that cannot be read comes before both. -/
def refusedUpdate (s : State) (r : YReq) (st : Status) : State × Status :=
  let j := judgeUpdate s r
  match j.2 with
  | .desc d => (j.1, d)
  | .bad b =>
    let rank := fun (x : Status) => [Status.malformed, .faultPermission, .faultTranslation, .faultFreedRange, .faultPoison].idxOf x
    if rank b ≤ rank st then (j.1, b) else (s, st)
  | _ => (s, st)

/-- An action that the coordinator numbers. -/
def numbered (s : State) (y id : Nat) (r : YReq) (i : Nat) : Action :=
  { idx := i, req := id, row := 0, rowVa := 0, rowLpa := 0, stateVa := 0, stateLpa := 0, home := y, newRow := [], newState := [],
    logBytes := 0, keyGen := s.memGen r.sail, st := .failed }

def addAction (s : State) (h : Nat) (a : Action) : State :=
  s.setGroup h { s.group h with actions := (s.group h).actions ++ [a] }

/-- A request that an engine holds fails with a status; an UPDATE of an OPEN group is numbered and dooms it (R124). -/
def failRequest (s : State) (y id : Nat) (st : Status) : State :=
  match s.yreq y id with
  | none => s
  | some r =>
    let h := handleOf r.record
    let g := s.group h
    if (reqHdr r.record).yop == 0x11 && (groupRefusal s y r.ctx r.record).isNone && g.st == .open_ && decide (g.actions.length < 64) then
      failAction (addAction s h (numbered s y id r g.actions.length)) h g.actions.length y id st .other
    else endReq s y id st []

/-- UPDATE is sequenced at its coordinator (R121, R122, R124). -/
def updateState (y id : Nat) (s : State) : State :=
  match waitingOp s y id 0x11 with
  | none => s
  | some r =>
    let h := handleOf r.record
    let g := s.group h
    let refuse := fun (st : Status) =>
      let x := refusedUpdate s r st
      endReq x.1 y id x.2 []
    match groupRefusal s y r.ctx r.record with
    | some st => refuse st
    | none =>
      if g.st == .doomed then refuse .txnConflict
      else if g.actions.length ≥ 64 then endReq (doom s h .other) y id .malformed []
      else
        let i := g.actions.length
        let a := numbered s y id r i
        let j := judgeUpdate s r
        let fail := fun (st : Status) => failAction (addAction j.1 h a) h i y id st .other
        match j.2 with
        | .hold => j.1
        | .desc st => fail st
        | .bad st => fail st
        | .pad =>
          let s := bumpYard (addAction j.1 h { a with st := .padding }) y r.sail (fun c => { c with pads := c.pads + 1 })
          endReq s y id .done (leBytes 32 i)
        | .go l k rl stl home =>
          let t := tableOf l
          let x : Action := { a with row := k, rowVa := t.rowVa k, rowLpa := rl, stateVa := t.stateVa k, stateLpa := stl,
                                     home := home, st := .forwarded }
          let s := addAction j.1 h x
          (releaseEngine s y r).updReq y id (fun r => { r with
            phase := .action h i
            desc := l
            spans := (x.rowVa, t.rowBytes) :: (if x.stateLpa = 0 then [] else [(x.stateVa, stateBytes (reqHdr r.record).pool t)]) })

def execUpdate (y id : Nat) (s : State) : Out := unitCmd s (updateState y id)

/-! ### Actions at the home yard (R124, step 5; R125) -/

/-- Lay the bytes `w` of address `b` over the bytes `l` of address `a`. -/
def overlay (a : Nat) (l : List Byte) (b : Nat) (w : List Byte) : List Byte :=
  l.zipIdx.map (fun x => if b ≤ a + x.2 && a + x.2 < b + w.length then w.getD (a + x.2 - b) x.1 else x.1)

/-- The staged writes of a group's actions, in order. -/
def stagedWrites (g : Group) : List (Nat × List Byte) :=
  (g.actions.filter (fun a => a.st == .logged || a.st == .durable)).flatMap (fun a =>
    [(a.rowLpa, a.newRow), (a.stateLpa, a.newState)])

/-- What an action reads of a span: its group's staged bytes, or memory through the cache of the home yard with the staged bytes
laid over it (R103, R104, R124). -/
def actionRead (s : State) (y sl mask : Nat) (g : Group) (gen : BitVec 16) (key n : Nat) : State × List Byte × Bool :=
  let own := stagedWrites g
  let whole := own.any (fun w => decide (w.1 ≤ key) && decide (key + n ≤ w.1 + w.2.length))
  let lay := fun (l : List Byte) => own.foldl (fun l w => overlay key l w.1 w.2) l
  if whole then (s, lay (List.replicate n 0), false)
  else
    let r := (cut key n).foldl (fun (a : State × List Byte × Bool) c =>
      let q := readGranule a.1 s.time y sl mask (c.1 / 64 * 64) gen
      (q.1, a.2.1 ++ (q.2.1.drop (c.1 % 64)).take c.2, a.2.2 || q.2.2)) (s, [], false)
    (r.1, lay r.2.1, r.2.2)

/-- The update engines of a sail that take actions: those that no swap takes away (R277). -/
def updatingEngines (s : State) (y sl : Nat) : List Nat := (updEngines s y sl).filter (fun e => s.stays (offUpd + 8 * y + e) sl)

/-- The update engine of an action (R134): index r mod n among the sail's engines in the home yard. -/
def actionEngine (s : State) (home sl row : Nat) : Nat :=
  let l := updatingEngines s home sl
  l.getD (row % (max 1 l.length)) 0

/-- Compute and log an action whose row's lock is free or its group's own. -/
def logAction (s : State) (h : Nat) (g : Group) (a : Action) (r : YReq) : State :=
  let t := tableOf r.desc
  let sn := stateBytes (reqHdr r.record).pool t
  let rd := actionRead s a.home g.sail t.waymask g a.keyGen a.rowLpa t.rowBytes
  let sd := if sn = 0 then (rd.1, [], false) else actionRead rd.1 a.home g.sail t.waymask g a.keyGen a.stateLpa sn
  let row := rd.2
  let st := sd.2
  let s := sd.1
  if row.2 || st.2 then
    failAction (noteXlt s r.ctx (if row.2 then a.rowVa else a.stateVa) .faultPoison .read) h a.idx g.coord a.req
      .faultPoison .other
  else
    let size := 64 + pad64 (t.rowBytes + sn)
    if actionRoom s g.sail a.home < size then failAction s h a.idx g.coord a.req .txnConflict .logFull
    else
      let e := actionEngine s a.home g.sail a.row
      let x := updateRow r.record t (updGen s a.home e g.sail) row.1 st.1
      let s := raiseFlags (setUpdGen s a.home e g.sail x.1) r.ctx x.2.2.2
      let s := appendLog s g.sail a.home h g.gen
        (logBytes h g.gen 0x01 a.idx 0 (lpaOf s a.rowLpa) (if sn = 0 then 0 else lpaOf s a.stateLpa) x.2.1 x.2.2.1 s.time)
      let s := s.updYard a.home (fun d => { d with locks := d.locks.set 0 a.rowLpa (h + 1)
                                                   updProgress := d.updProgress.upd 0 e (· + 1) })
      let s := progress (bumpYard s a.home g.sail (fun c => { c with actions := c.actions + 1 })) 6 g.q
      s.setGroup h (setAction (s.group h) a.idx (fun a =>
        { a with newRow := x.2.1, newState := x.2.2.1, logBytes := size, st := .logged }))

/-- The group that holds a row's lock in its home yard. -/
def lockHolder (s : State) (y key : Nat) : Option Nat := (Tbl.look (s.yard y).locks key).map (· - 1)

/-- An action that waits for a lock waits in the order in which it came. -/
def waitForLock (s : State) (h : Nat) (a : Action) : State :=
  let s := s.updYard a.home (fun x => { x with waits := if x.waits.contains (h, a.idx) then x.waits else x.waits ++ [(h, a.idx)] })
  s.setGroup h (setAction (s.group h) a.idx (fun a => { a with st := .waitLock }))

/-- An action reaches the row's lock (R125); one whose request a recovery step has taken away ends. On a row that an ABORTED group
still locks it waits (log entry 23). -/
def runAction (s : State) (h : Nat) (a : Action) : State :=
  let g := s.group h
  match s.yreq g.coord a.req with
  | none => s.setGroup h (setAction g a.idx (fun a => { a with st := .failed }))
  | some r =>
    match lockHolder s a.home a.rowLpa with
    | none => logAction s h g a r
    | some o =>
      if o = h then logAction s h g a r
      else if (s.group o).st == .open_ || (s.group o).st == .doomed then
        failAction s h a.idx g.coord a.req .txnConflict .conflict
      else waitForLock s h a

/-- CG_ACTION (R124): a forwarded action is carried out at its home yard; it waits while a swap takes the last engine that could do it
(R277), and while its engine is quiesced (R394). -/
def cgActionState (h i : Nat) (s : State) : State :=
  match (s.group h).actions.find? (fun a => a.idx == i) with
  | none => s
  | some a =>
    let sl := (s.group h).sail
    if a.st == .forwarded && !(decide (0 < (updEngines s a.home sl).length) && (updatingEngines s a.home sl).isEmpty) &&
      !s.rst.quiesced.contains (4, 8 * a.home + actionEngine s a.home sl a.row) then runAction s h a
    else s

def execCgAction (h i : Nat) (s : State) : Out := unitCmd s (cgActionState h i)

/-- INTENT_LOG_DURABLE (R124): the action returns DONE with its index through the coordinator. -/
def logDurable (h i : Nat) (s : State) : State :=
  let g := s.group h
  match g.actions.find? (fun a => a.idx == i) with
  | none => s
  | some a =>
    if a.st == .logged then
      finishReq (s.setGroup h (setAction g i (fun a => { a with st := .durable }))) g.coord a.req .done (leBytes 32 i)
    else s

def execIntentLogDurable (h i : Nat) (s : State) : Out := unitCmd s (logDurable h i)

/-- LOCK_RELEASED_RESUME (R125): the actions that wait for a row's lock reach it again, in the order in which they came; the first takes
a lock that is free, and what stays waiting waits for a COMMITTED group again. -/
def lockResume (y row : Nat) (s : State) : State :=
  (s.yard y).waits.foldl (fun s w =>
    match (s.group w.1).actions.find? (fun a => a.idx == w.2 && a.st == .waitLock && a.home == y && a.rowLpa == row) with
    | none => s
    | some a =>
      let s := runAction s w.1 a
      if (s.group w.1).actions.any (fun b => b.idx == w.2 && b.st == .waitLock) then s
      else s.updYard y (fun x => { x with waits := x.waits.filter (fun v => v != w) })) s

def execLockReleasedResume (y row : Nat) (s : State) : Out := unitCmd s (lockResume y row)

/-! ### The end of a group (R123, R124, steps 6 to 10) -/

/-- Whether nothing of an action is still to happen before the group's outcome is carried out. -/
def ActSt.settled : ActSt → Bool
  | .durable => true
  | .padding => true
  | .failed => true
  | .applied => true
  | _ => false

/-- Abort a group: it is counted, its abort record is written, and a CG_COMMIT of it that waits completes with
TXN_CONFLICT. -/
def abortGroup (s : State) (h : Nat) : State :=
  let g := s.group h
  if g.st == .open_ || g.st == .doomed then
    let s := groupRecord (countAbort (s.setGroup h { g with st := .aborted, commitReq := none }) g) h g 0x03 0 0
    match g.commitReq with
    | none => s
    | some id => finishReq s g.coord id .txnConflict []
  else s

/-- CG_COMMIT is sequenced (R122, R124, step 6): a DOOMED group aborts at once. -/
def cgCommitState (y id : Nat) (s : State) : State :=
  match waitingOp s y id 0x12 with
  | none => s
  | some r =>
    if !headerOk r.record then endReq s y id .malformed []
    else
      match groupRefusal s y r.ctx r.record with
      | some st => endReq s y id st []
      | none =>
        let h := handleOf r.record
        let g := s.group h
        let s := s.setGroup h { g with ended := true, commitReq := some id }
        let s := (releaseEngine s y r).updReq y id (fun r => { r with phase := .commit h })
        if g.st == .doomed then abortGroup s h else s

/-- CG_ABORT (R122). -/
def cgAbortState (y id : Nat) (s : State) : State :=
  match waitingOp s y id 0x13 with
  | none => s
  | some r =>
    if !headerOk r.record then endReq s y id .malformed []
    else
      match groupRefusal s y r.ctx r.record with
      | some st => endReq s y id st []
      | none =>
        let h := handleOf r.record
        let g := s.group h
        let s := s.setGroup h { g with ended := true, cause := some (g.cause.getD .explicit) }
        endReq (abortGroup s h) y id .done zeros32

def execCgCommit (y id : Nat) (s : State) : Out := unitCmd s (cgCommitState y id)
def execCgAbort (y id : Nat) (s : State) : Out := unitCmd s (cgAbortState y id)

/-- The return of CG_COMMIT: the commit time stamp and the number of actions (R114). -/
def commitBytes (g : Group) : List Byte := leBytes 8 g.commitTime.toNat ++ leBytes 24 g.actions.length

/-- Whether the CG_COMMIT of a group asked for the apply to finish first. -/
def wantsApplied (s : State) (g : Group) : Bool :=
  match g.commitReq with
  | none => false
  | some id => match s.yreq g.coord id with
    | none => false
    | some r => (reqHdr r.record).applied

/-- Return DONE for the CG_COMMIT of a group. -/
def commitReturn (s : State) (h : Nat) : State :=
  let g := s.group h
  match g.commitReq with
  | none => s
  | some id => finishReq (s.setGroup h { g with commitReq := none }) g.coord id .done (commitBytes g)

/-- Whether every action has been applied or has nothing to apply. -/
def Group.applied (g : Group) : Bool :=
  g.actions.all (fun a => a.st == .applied || a.st == .padding || a.st == .failed)

/-- The yards that take part in a group (R128). -/
def yardMask (g : Group) : Nat := g.actions.foldl (fun m a => if a.st == .durable then m ||| 2 ^ a.home else m) 0

/-- COMMIT_POINT (R124, steps 7 and 8): once every action is durable, a doomed group aborts, any other commits; the
command of the group can no longer be replayed (R426). -/
def commitPointState (h : Nat) (s : State) : State :=
  let g := s.group h
  if g.commitReq.isNone || !(g.actions.all (fun a => a.st.settled)) then s
  else if g.st == .doomed then abortGroup s h
  else if g.st == .open_ then
    let s := groupRecord s h g 0x02 (yardMask g) g.actions.length
    let s := s.setGroup h { g with st := .committed, commitTime := s.time }
    let s := noReplay (bumpYard s g.coord g.sail (fun c => { c with commits := c.commits + 1 })) g.q g.n
    if wantsApplied s g && !g.applied then s else commitReturn s h
  else s

def execCommitPoint (h : Nat) (s : State) : Out := unitCmd s (commitPointState h)

/-- Write staged bytes into memory and into a present line (R104, R124, step 9), with the dirty marks of the
range they were reached through (R205). -/
def applyWrite (s : State) (u : Use) (y sl : Nat) (gen : BitVec 16) (va key : Nat) (l : List Byte) : State :=
  if l.isEmpty then s
  else
    let s := match mappingFor (s.ctx u.ctx) u va with
      | .error _ => s
      | .ok e => touchPage (dirtyMark s u e va) u e va true
    if staleAt s sl gen key then dropSpan (staleWrite s key l.length) key l.length
    else cacheWrite (spend (store s key l) sl 1 key l.length true) y sl key l

/-- The use to which the writes of a group belong (R192, R205). -/
def groupUse (g : Group) : Use := { ctx := g.ctx, stamp := g.stamp, epoch := g.epoch }

/-- Carry out the outcome of a group for one action at its home yard. -/
def applyAction (s : State) (h : Nat) (a : Action) : State :=
  let g := s.group h
  let u := groupUse g
  let s := if g.st == .committed then
      applyWrite (applyWrite s u a.home g.sail a.keyGen a.rowVa a.rowLpa a.newRow) u a.home g.sail a.keyGen a.stateVa
        a.stateLpa a.newState
    else s
  let s := if lockHolder s a.home a.rowLpa == some h then
      s.updYard a.home (fun d => { d with locks := d.locks.erase a.rowLpa })
    else s
  let e := actionEngine s a.home g.sail a.row
  let s := if g.st == .committed then
      progress (s.updYard a.home (fun d => { d with updProgress := d.updProgress.upd 0 e (· + 1) })) 6 g.q
    else s
  s.setGroup h (setAction (s.group h) a.idx (fun a => { a with st := .applied }))

/-- CG_APPLY (R124, step 9): a home yard applies, or discards, what it has staged of a group, then releases the
locks; an ABORTED group's actions that are still under way come first. -/
def cgApplyState (h y : Nat) (s : State) : State :=
  let g := s.group h
  let here := g.actions.filter (fun a => a.home == y)
  if (g.st == .committed || g.st == .aborted) && here.all (fun a => a.st.settled) then
    let s := (here.filter (fun a => a.st == .durable)).foldl (fun s a => applyAction s h a) s
    if g.st == .committed && (s.group h).applied then commitReturn s h else s
  else s

def execCgApply (h y : Nat) (s : State) : Out := unitCmd s (cgApplyState h y)

/-- Free a handle: the log space of the group's records is reclaimed, and the generation advances (R122, R127). -/
def freeGroup (s : State) (h : Nat) : State :=
  let g := s.group h
  let s := reclaim s g.sail h g.gen
  s.setGroup h { Group.empty with gen := g.gen + 1 }

/-- GROUP_RETIRE (R124, step 10). -/
def retireGroup (h : Nat) (s : State) : State :=
  let g := s.group h
  if (g.st == .committed || g.st == .aborted) && g.applied && g.commitReq.isNone then
    settleCtx (freeGroup (groupRecord s h g 0x04 0 0) h) g.ctx
  else s

def execGroupRetire (h : Nat) (s : State) : Out := unitCmd s (retireGroup h)

/-- HOLD_TIMER_EXPIRY (R129): due at every whole multiple of the limit after CG_BEGIN; it dooms an OPEN group and
aborts a DOOMED one. A CG_COMMIT sequenced before it has won. -/
def holdTimer (h : Nat) (s : State) : State :=
  let g := s.group h
  let due := g.begun.toNat + 1000 * cgHold s g.sail * (g.expiries + 1)
  if g.st == .free || s.time.toNat < due then s
  else
    let s := s.setGroup h { g with expiries := g.expiries + 1 }
    if g.ended then s
    else if g.st == .open_ then doom s h .expired
    else if g.st == .doomed then abortGroup (s.setGroup h { s.group h with byTimer := true }) h
    else s

def execHoldTimerExpiry (h : Nat) (s : State) : Out := unitCmd s (holdTimer h)

/-! ### Resets (R121, R130) -/

/-- The handles of the groups that satisfy `f`. -/
def groupsOf (s : State) (f : Group → Bool) : List Nat := (s.groups.filter (fun p => p.2.st != .free && f p.2)).map (·.1)

/-- Abort the OPEN and DOOMED groups that satisfy `f` (R130); they are counted in no field (R139). -/
def endGroups (s : State) (f : Group → Bool) : State :=
  (groupsOf s f).foldl (fun s h =>
    let g := s.group h
    if g.st == .open_ || g.st == .doomed then
      abortGroup (s.setGroup h { g with byTimer := true, cause := some .other }) h
    else s) s

/-- The CG_BEGINs that wait for quota and satisfy `f` open no group and complete with a status (R121). -/
def endQuotaWaits (s : State) (f : YReq → Bool) (st : Status) : State :=
  s.yards.foldl (fun s p =>
    (p.2.reqs.filter (fun r => r.phase == .quota && f r)).foldl (fun s r => finishReq s p.1 r.id st []) s) s

/-- The bytes of a record in a sail's log, and whether some of them are poisoned. -/
def logRecord? (s : State) (e : LogEntry) (x : LogSlot) : List Byte × Bool :=
  let n := min x.len (2 ^ e.log2 - x.off)
  (readBytes s (e.addr + x.off) n ++ readBytes s e.addr (x.len - n),
    anyPoison s (e.addr + x.off) n || anyPoison s e.addr (x.len - n))

/-- Field of a record: `n` bytes from byte `a` on. -/
def logField (l : List Byte) (a n : Nat) : Nat := leNat ((l.drop a).take n)

/-- Whether the CRC of a record holds (R128). -/
def logOk (l : List Byte) : Bool :=
  logField l 40 4 == (crc32 (l.take 40 ++ (l.drop 64).take (logField l 24 4 + logField l 28 4))).toNat

/-- The records of a group that a yard's scan finds in a sail's log; one whose CRC fails is absent (R130). -/
def scanned (s : State) (sl y h : Nat) (gen : BitVec 16) : List (List Byte) :=
  match logOf s sl y with
  | none => []
  | some e => ((s.yard y).logRecs.get [] sl).filterMap (fun x =>
      if x.handle == h && x.gen == gen then
        let l := logRecord? s e x
        if !l.2 && logOk l.1 && logField l.1 0 2 == h && logField l.1 2 2 == gen.toNat then some l.1 else none
      else none)

/-- Apply an action from its record. -/
def applyRecord (s : State) (g : Group) (y : Nat) (l : List Byte) : State :=
  match g.actions.find? (fun a => a.idx == logField l 5 1) with
  | none => s
  | some a =>
    let u := groupUse g
    let put := fun (s : State) (va lpa : Nat) (d : List Byte) => match memKey s lpa with
      | none => s
      | some k => applyWrite s u y g.sail a.keyGen va k d
    let nr := logField l 24 4
    put (put s a.rowVa (logField l 8 8) ((l.drop 64).take nr)) a.stateVa (logField l 16 8) ((l.drop (64 + nr)).take (logField l 28 4))

/-- The scan of a sail's intent logs after a reset that keeps DRAM (R130): a group with a commit record and no retire record is
applied from its action records and retired, any other is discarded and leaves no change in memory. A coordinator without a log
of the sail has the group's state alone (log entry 23). -/
def scanLogs (s : State) (sl : Nat) : State :=
  (groupsOf s (fun g => g.sail == sl)).foldl (fun s h =>
    let g := s.group h
    let has := fun (k : Nat) => (scanned s sl g.coord h g.gen).any (fun l => logField l 4 1 == k)
    let committed := if (logOf s sl g.coord).isSome then has 0x02 && !has 0x04 else g.st == .committed
    let t := if committed then
        groupRecord ((List.range 16).foldl (fun t y =>
          ((scanned s sl y h g.gen).filter (fun l => logField l 4 1 == 0x01)).foldl (fun t l => applyRecord t g y l) t) s) h g 0x04 0 0
      else s
    freeGroup { t with yards := t.yards.map (fun p => (p.1, { p.2 with
      locks := p.2.locks.filter (fun l => l.2 != h + 1), waits := p.2.waits.filter (fun w => w.1 != h) })) } h) s

end Sys2Proof.Machine
end

