-- ==== Sys2Proof/Machine/VecRun.lean ====
section
/-! DEFINITION. The execution of work in a core's vector queue (R69 to R72). Faults of vector memory
accesses are judged at issue (R93), so work in the queue cannot fault.
Choices of the model here: log entry 18 (DEDUCED). -/

namespace Sys2Proof.Machine

open Sys2Proof

/-- The address of lane `k` of a strided access, and of a gathered one (R71). -/
def strideAddr (base x : Word) (k : Nat) : Word := base + BitVec.ofNat 64 k * x
def gatherAddr (base : Word) (idx : BitVec 2048) (k : Nat) : Word := base + (laneOf idx k).signExtend 64

/-- The lane addresses of a VMEM operation; the contiguous forms name one span of 256 bytes. -/
def vmLane (op : VmOp) (base x : Word) (idx : BitVec 2048) (k : Nat) : Word :=
  match op with
  | .vlds => strideAddr base x k
  | .vsts => strideAddr base x k
  | .vgath => gatherAddr base idx k
  | .vscat => gatherAddr base idx k
  | _ => base + BitVec.ofNat 64 (4 * k)

/-- Whether a VMEM operation stores. -/
def VmOp.stores : VmOp → Bool
  | .vst => true
  | .vsts => true
  | .vscat => true
  | _ => false

/-- Load 64 lanes. -/
def loadLanes (s : State) (b : Nat) (addr : Nat → Word) : BitVec 2048 :=
  ofLanes (fun k => BitVec.ofNat 32 (readNat s (b + (addr k).toNat) 4))

/-- Store 64 lanes in increasing lane order, so that the highest lane of an address stands (R71). -/
def storeLanes (s : State) (b : Nat) (addr : Nat → Word) (v : BitVec 2048) : State :=
  (List.range 64).foldl (fun s k => store s (b + (addr k).toNat) (leBytes 4 (laneOf v k).toNat)) s

/-- Execute one piece of vector work: the state with its memory and flags, and the program. -/
def runVec (s : State) (k : Nat) (p : Prog) (w : VecWork) : State × Prog :=
  match w with
  | .alu op f sa =>
    match Fmt.ofCode f.fmt with
    | none => (s, p)
    | some fm =>
      let r := aluVector op fm (vecRnd f.rm) f.sat sa (p.vreg f.va) (p.vreg f.vb) (p.vreg f.vc)
      (raiseFlags s p.ctx r.2, p.setV f.vd r.1)
  | .mem op f base x =>
    match s.spadBase k with
    | none => (s, p)
    | some b =>
      let idx := p.vreg f.x
      match op with
      | .vst => (store s (b + base.toNat) (vecBytes 256 (p.vreg f.v)), p)
      | .vld => (s, p.setV f.v (ofBytes (readBytes s (b + base.toNat) 256)))
      | _ =>
        if op.stores then (storeLanes s b (vmLane op base x idx) (p.vreg f.v), p)
        else (s, p.setV f.v (loadLanes s b (vmLane op base x idx)))
  | .cvt f =>
    match Fmt.ofCode f.sf, Fmt.ofCode f.df with
    | some sf, some df =>
      let vs := (List.range 64).map (fun i => decodeElem sf (packedElem sf.width (p.vreg f.va).toNat i))
      let r := cvtList sf df f.rm f.ovf f.shift.toNat p 0 vs
      (raiseFlags s p.ctx r.2.2, r.1.setV f.vd (packVec df.width r.2.1))
    | _, _ => (s, p)
  | .mxq f =>
    match Fmt.ofCode f.df with
    | none => (s, p)
    | some df =>
      let v := fun i => decodeElem .fp32 (laneOf (p.vreg f.va) i).toNat
      let r0 := mxBlock df f.rm p 0 ((List.range 32).map v)
      let r1 := mxBlock df f.rm r0.1 32 ((List.range 32).map (fun i => v (32 + i)))
      let q := r1.1.setV f.vd (packVec df.width (r0.2.2.1 ++ r1.2.2.1))
      (raiseFlags s p.ctx (r0.2.2.2 ||| r1.2.2.2),
        q.setS f.sd (BitVec.ofNat 64 (r0.2.1 + 256 * r1.2.1)))
  | .seed f => (s, (List.range 64).foldl (fun p i => p.seedLane i (laneOf (p.vreg f.va) i)) p)
  | .seedr f => (s, p.setV f.vd (ofLanes p.gen))

/-- Execute the head of the vector queue of core `k`. -/
def vecHead (s : State) (k : Nat) : State :=
  match s.prog k with
  | none => s
  | some p =>
    match p.vecQ with
    | [] => s
    | w :: t =>
      let r := runVec s k { p with vecQ := t } w.work
      r.1.setProg k (some r.2)

/-- Execute up to `n` pieces of the vector queue. -/
def drainVecN : Nat → State → Nat → State
  | 0, s, _ => s
  | n + 1, s, k => drainVecN n (vecHead s k) k

/-- Complete the vector queue of core `k`, which holds at most 8 pieces. -/
def drainVec (s : State) (k : Nat) : State :=
  match s.prog k with
  | none => s
  | some p => drainVecN p.vecQ.length s k

end Sys2Proof.Machine
end

