-- ==== Sys2Proof/Machine/CoreExec.lean ====
section
/-! DEFINITION. Issue of core instructions (R51, R52, R64), the PC and the loop stack (R66), core faults
(R92 to R96), the end of a faulting command on its cores (R95), waiting instructions (R87).
Choices of the model here: log entry 10 (DESIGN CHOICE), log entry 11 (DESIGN CHOICE), log entry 16 (DEDUCED),
log entry 21 (DESIGN CHOICE), log entry 43 (DESIGN CHOICE), log entry 59 (DESIGN CHOICE), log entry 62 (DESIGN
CHOICE). -/

namespace Sys2Proof.Machine

open Sys2Proof

/-! ### The PC -/

/-- The instruction after `pc`, and the loop stack, innermost loop first, when the instruction at `pc` has
executed without a branch (R66). -/
def stepLoops (pc : BitVec 56) : List LoopFrame → BitVec 56 × List LoopFrame
  | [] => (pc + 8, [])
  | f :: t =>
    if f.last = pc then
      if f.count.toNat > 1 then (f.first, { f with count := f.count - 1 } :: t)
      else stepLoops pc t
    else (pc + 8, f :: t)

/-- A core that goes on has left its yield point, and nothing waits (R87). Cycles count with the clock (Clock.lean). -/
def Prog.leaveYield (p : Prog) : Prog := { p with atYield := false, waiting := none }

/-- Go on with the instruction after this one. -/
def Prog.advance (p : Prog) : Prog :=
  let r := stepLoops p.pc p.loops
  { p.leaveYield with pc := r.1, loops := r.2 }

/-- Go on at a branch target. -/
def Prog.jump (p : Prog) (t : BitVec 56) : Prog := { p.leaveYield with pc := t }

/-- Whether a target lies outside the body of some active loop (R66). -/
def Prog.leavesLoop (p : Prog) (t : BitVec 56) : Bool :=
  p.loops.any (fun f => decide (t.toNat < f.first.toNat) || decide (f.last.toNat < t.toNat))

/-- PC + 8 × OFF. -/
def Prog.target (p : Prog) (off : BitVec 32) : BitVec 56 := p.pc + 8 * off.signExtend 56

/-! ### Faults -/

/-- Cause codes and statuses of R92. -/
def CoreCause.code : CoreCause → BitVec 8
  | .illegalInstruction => 0x01 | .misaligned => 0x02 | .spadRange => 0x03 | .cbRange => 0x04
  | .descriptor => 0x05 | .streamUnbound => 0x06 | .yieldOverdue => 0x07 | .fetch _ => 0x08
  | .poison => 0x09 | .semRange => 0x0A | .semHolds => 0x0B | .semRevoked => 0x0C

def CoreCause.status : CoreCause → Status
  | .cbRange => .faultPermission
  | .semRange => .faultPermission
  | .fetch st => st
  | .poison => .faultPoison
  | .semRevoked => .semRevoked
  | _ => .malformed

/-- Record a fault in CTX_CORE_FAULT and CTX_CORE_FAULT_PC (R96): only while VALID is 0. -/
def recordCoreFault (s : State) (c : Nat) (cause : CoreCause) (lcore : Nat) (pc : BitVec 56) : State :=
  s.updCtx c (fun x =>
    if x.cf.valid then { x with cf := { x.cf with more := true } }
    else { x with cf := { cause := cause.code, lcore := BitVec.ofNat 12 lcore, status := cause.status.code,
                          valid := true, more := false, pc := pc } })

/-- The program stops at its next instruction boundary (R95): no instruction waits any more, stream and
transfer work that has not started is discarded, requests that have not left their queue among it, and matrix and vector work
stays queued to complete. -/
def Prog.stop (p : Prog) : Prog :=
  { p with stopped := true, waiting := none, atYield := false, strmQ := [], recvs := [], xferQ := [],
           reqs := p.reqs.filter (fun r => r.at_ != .queue) }

/-- The streams on which a SEND of the program has started and has not handed over its last byte. -/
def Prog.startedSends (p : Prog) : List (BitVec 4) :=
  p.strmQ.filterMap (fun w => match w.work with
    | .send f _ len n => if 0 < n && decide (n < len) then some f.st else none
    | _ => none)

/-- Stop the program on core `k`. -/
def stopCore (s : State) (k : Nat) : State :=
  match s.prog k with
  | none => s
  | some p =>
    let s := p.startedSends.foldl (fun s st => truncate s k st) s
    (dropWaiters s k).setProg k (some p.stop)

/-- The cores on which a copy of a command is resident. -/
def coresOf (s : State) (q n : Nat) : List Nat :=
  s.cores.filterMap (fun x => match x.2.prog with
    | some g => if g.q == q && g.n == n then some x.1 else none
    | none => none)

/-- A stopped program whose queues are empty and whose requests have returned has ended (R95). -/
def Prog.isDone (p : Prog) : Bool := p.stopped && p.vecQ.isEmpty && p.matQ.isEmpty && p.reqs.isEmpty

/-- End the program on core `k` if it is stopped and nothing of it is outstanding. -/
def settle (s : State) (k : Nat) : State :=
  match s.prog k with
  | none => s
  | some p => if p.isDone then endCopy s k else s

/-- A saved copy that is stopped ends once its requests have returned. -/
def settleSaved (s : State) (sl q n : Nat) : State :=
  let fin := (savedOf s sl q n).filter (fun v => v.prog.isDone)
  let s := s.updSail sl (fun x => { x with
    saved := x.saved.filter (fun v => !(v.prog.q == q && v.prog.n == n && v.prog.isDone)) })
  fin.foldl (fun s v => settleCtx (endPart s q n) v.prog.ctx) s

/-- Every core of a command's core set stops issuing (R95). -/
def stopCommand (s : State) (q n : Nat) : State :=
  let l := coresOf s q n
  let s := l.foldl stopCore s
  let s := regrant s
  let s := match s.ctxSail (s.queueCtx q) with
    | none => s
    | some sl =>
      let s := (savedOf s sl q n).foldl (fun s v => v.prog.startedSends.foldl (fun s st => truncate s v.lc st) s) s
      let s := s.updSail sl (fun x => { x with saved := x.saved.map (fun v =>
        if v.prog.q == q && v.prog.n == n then { v with prog := v.prog.stop } else v) })
      settleSaved s sl q n
  l.foldl settle s

/-- A core fault of the program on core `k` at address `pc` (R92 to R96). -/
def coreFaultAt (s : State) (k : Nat) (pc : BitVec 56) (cause : CoreCause) : State :=
  match s.prog k with
  | none => s
  | some p =>
    let s := recordCoreFault s p.ctx cause p.lcore pc
    let s := noteErr s p.q p.n cause.status
    stopCommand s p.q p.n

/-- A precise fault: the instruction has no effect (R93). -/
def coreFault (s : State) (k : Nat) (p : Prog) (cause : CoreCause) : State := coreFaultAt s k p.pc cause

/-! ### Issue -/

/-- Whether the program on a core issues instructions: it has not stopped, nothing waits, no save runs, and
it does not stand at a yield point with a pre-emption request pending (R89). -/
def CoreSlot.issues (x : CoreSlot) (p : Prog) : Bool :=
  !p.stopped && p.waiting.isNone && !x.saving && !(p.atYield && x.preempt.isSome)

/-- What fetching the instruction at the PC does (R92, FETCH): `ok` gives the memory key of its word. -/
inductive FetchRes where
  | ok (key : Nat)
  | fail (st : Status)
  | hold
deriving DecidableEq, Repr

/-- The line of a core's instruction cache that holds an address of a context (R97). -/
def cachedLine (s : State) (k c pc : Nat) : Option ICacheLine :=
  (s.core k).icache.find? (fun l => l.ctx == c && l.va == pc / 256 * 256)

/-- A fetch fills the line that it misses (R97), unless a granule of it is poisoned (R186); `key` is the memory key of the word at `pc`. -/
def fillLine (s : State) (k c pc key : Nat) : State :=
  match cachedLine s k c pc with
  | some _ => s
  | none => if anyPoison s (key - pc % 256) 256 then s else s.setCore k { s.core k with
      icache := (s.core k).icache ++ [{ ctx := c, va := pc / 256 * 256, bytes := readBytes s (key - pc % 256) 256 }] }

/-- Fetch the instruction word at the PC of core `k` through the context's ranges (R189): a page that is not resident
holds the fetch. An X range whose target is another node fails translation and notes nothing (log entry 62). -/
def fetch (s0 : State) (k : Nat) (p : Prog) : State × FetchRes :=
  let s := startXlat s0 p.q p.n
  let u := useOfCmd s p.q p.n
  let r := serve s u p.pc.toNat 8 .fetch
  if r.2.2 then (r.1, .hold)
  else
    match locate r.1 r.2.1 p.pc.toNat .fetch with
    | .bad st => (noteXlt r.1 p.ctx p.pc.toNat st .fetch, .fail st)
    | .loc key _ =>
      if anyPoison r.1 key 8 then (noteXlt r.1 p.ctx p.pc.toNat .faultPoison .fetch, .fail .faultPoison)
      else
        let t := cacheRange r.1 (mastOf (k / 34)) ((r.1.clusterSail (k / 34)).getD 64) u p.pc.toNat
        (fillLine t k p.ctx p.pc.toNat key, .ok key)
    | _ => (r.1, .fail .faultTranslation)

/-- The words that a core may execute at an address whose word in memory stands at `key` (R97): that word, and the one in its
instruction cache. -/
def wordsAt (s : State) (k c pc key : Nat) : List CoreWord :=
  BitVec.ofNat 64 (readNat s key 8) ::
    match cachedLine s k c pc with
    | none => []
    | some l => [BitVec.ofNat 64 (leNat ((l.bytes.drop (pc % 256)).take 8))]

/-- What the words at the PC make of the instruction that a command names (R61 to R63). -/
inductive Spelt where
  | this
  | illegal
  | other
deriving DecidableEq, Repr

/-- The command's instruction is one that the words spell; else a word that spells none is illegal (R62). -/
def speltBy (c : CoreRef) (i : Instr) (l : List CoreWord) : Spelt :=
  if l.any (fun w => decodeWord c w == some i) then .this
  else if l.any (fun w => (decodeWord c w).isNone) then .illegal
  else .other

/-- Make the instruction wait (R87). At a yield point the count of R88 returns to 0. -/
def waitOn (s : State) (k : Nat) (p : Prog) (why : WaitFor) (i : Instr) (yieldPoint : Bool) : State :=
  s.setProg k (some { p with
    waiting := some { why := why, i := i }
    yieldCount := if yieldPoint then 0 else p.yieldCount })

/-- Whether an instruction that waits for `w` forms a yield point (R52, R87). -/
def WaitFor.isYield : WaitFor → Bool
  | .vectorQueue => false
  | .matrixQueue => false
  | .fence m => m.getLsbD 2 || m.getLsbD 3
  | _ => true

/-- Whether the program on a core stands at a yield point that an instruction forms (R87). -/
def Prog.atYieldPoint (p : Prog) : Bool :=
  p.atYield || match p.waiting with
    | none => false
    | some w => w.why.isYield

/-- A progress event of core `k` (R414). -/
def bumpCore (s : State) (k : Nat) : State :=
  s.setCore k { s.core k with progress := (s.core k).progress + 1 }

/-- An instruction that does not wait has been issued: a progress event of its core (R414). -/
def countIssue (s : State) (k : Nat) : State :=
  match s.prog k with
  | none => bumpCore s k
  | some p => if p.waiting.isNone then bumpCore s k else s

/-- Issue one instruction on core `c` whose program is `p`: YIELD_OVERDUE, FETCH and ILLEGAL_INSTRUCTION in
the order of R465, the last decided before the predicate is tested (R64); then the effect, which is given
the program. A core whose words at the PC spell another instruction does not issue this one. -/
def issueOn (s : State) (c : CoreRef) (p : Prog) (g : Pred) (i : Instr) (illegal : State → Prog → Bool)
    (eff : State → Nat → Prog → State) : State :=
  let k := c.key
  if p.yieldCount ≥ 32768 then coreFault s k p .yieldOverdue
  else
    let f := fetch s k p
    match f.2 with
    | .hold => waitOn f.1 k p .page i true
    | .fail st => coreFault f.1 k p (.fetch st)
    | .ok key =>
      match speltBy c i (wordsAt f.1 k p.ctx p.pc.toNat key) with
      | .other => s
      | .illegal => coreFault f.1 k p .illegalInstruction
      | .this =>
        if illegal f.1 p then coreFault f.1 k p .illegalInstruction
        else if p.allows g then countIssue (eff f.1 k p) k
        else countIssue (f.1.setProg k (some p.advance)) k

/-- Whether the island of a core's physical core has been stopped by its undervoltage comparator (R435). -/
def coreStopped (s : State) (k : Nat) : Bool :=
  match physOf s (k / 34) (k % 34) with
  | none => false
  | some p => s.pwr.stopped.contains (.core (k / 34) (p % 36))

/-- The issue of an instruction to a core: nothing happens where no program issues or the core stands still. -/
def issueState (c : CoreRef) (g : Pred) (i : Instr) (illegal : State → Prog → Bool)
    (eff : State → Nat → Prog → State) (s : State) : State :=
  if c.cluster < 64 ∧ c.core < 34 then
    match s.prog c.key with
    | none => s
    | some p => if (s.core c.key).issues p && !coreStopped s c.key then issueOn s c p g i illegal eff else s
  else s

/-- An instruction of a core program as a command. -/
def issue (s : State) (c : CoreRef) (g : Pred) (i : Instr) (illegal : State → Prog → Bool)
    (eff : State → Nat → Prog → State) : Out := unitCmd s (issueState c g i illegal eff)

/-- The effect of an instruction that only changes its program and goes on. -/
def plain (f : Prog → Prog) (s : State) (k : Nat) (p : Prog) : State := s.setProg k (some (f p).advance)

end Sys2Proof.Machine
end

