-- ==== Sys2Proof/Machine/Control.lean ====
section
/-! DEFINITION. Control flow, yield and halt: class CTRL (R66, R67, R87).
Choices of the model here: log entry 16 (DEDUCED), log entry 21 (DESIGN CHOICE), log entry 69 (DESIGN CHOICE). -/

namespace Sys2Proof.Machine

open Sys2Proof

/-- A relative branch that the body of an active loop does not allow is illegal (R66). -/
def relOp (s : State) (c : CoreRef) (g : Pred) (i : Instr) (off : BitVec 32) (upd : Prog → Prog) : Out :=
  issue s c g i (fun _ p => p.leavesLoop (p.target off))
    (fun s k p => s.setProg k (some ((upd p).jump (p.target off))))

/-- A branch to a register: bits [2:0] of the address must be 0 (R66). The PC takes bits [55:0] (log entry 69). -/
def regBranch (s : State) (c : CoreRef) (g : Pred) (i : Instr) (a : BitVec 5) : Out :=
  issue s c g i (fun _ p => p.leavesLoop ((p.sreg a).extractLsb' 0 56))
    (fun s k p =>
      if (p.sreg a).toNat % 8 ≠ 0 then coreFault s k p .misaligned
      else s.setProg k (some (p.jump ((p.sreg a).extractLsb' 0 56))))

/-- LOOP: the body runs from PC + 8 to PC + 8 × OFF, s[A] times (R66). -/
def startLoop (a : BitVec 5) (off : BitVec 32) (p : Prog) : Prog :=
  if p.sreg a = 0 then
    let r := stepLoops (p.target off) p.loops
    { p.leaveYield with pc := r.1, loops := r.2 }
  else
    { p.leaveYield with
      pc := p.pc + 8
      loops := { first := p.pc + 8, last := p.target off, count := p.sreg a } :: p.loops }

/-- YIELD sets LIVE and forms a yield point: the count of R88 returns to 0 (R66, R87). -/
def yieldAt (live : BitVec 8) (p : Prog) : Prog :=
  { { p with live := live }.advance with yieldCount := 0, atYield := true }

/-- Nothing of the program is queued or outstanding: what HALT waits for (R67). -/
def Prog.idle (p : Prog) : Bool :=
  p.matQ.isEmpty && p.vecQ.isEmpty && p.strmQ.isEmpty && p.recvs.isEmpty && p.xferQ.isEmpty && p.reqs.isEmpty

/-- The error of the lowest stream number that holds one (R95). -/
def lowestErr (l : List StrmErr) : Option Status :=
  (l.foldl (fun a e => match a with
    | none => some e
    | some b => if e.st.toNat < b.st.toNat then some e else some b) none).map (·.status)

/-- Keep the stream error of the lowest LCORE (R95). -/
def noteHalt (s : State) (p : Prog) : State :=
  match lowestErr p.errs with
  | none => s
  | some e => s.updCmd p.q p.n (fun c => { c with haltErr := match c.haltErr with
      | none => some (p.lcore, e)
      | some x => if p.lcore < x.1 then some (p.lcore, e) else some x })

/-- HALT: a FENCE on all four unit classes, then the program ends on its core (R67). -/
def haltEff (i : Instr) (s : State) (k : Nat) (p : Prog) : State :=
  if p.idle then endCopy (noteHalt s p) k else waitOn s k p .haltFence i true

def execNop (c : CoreRef) (g : Pred) (f : CtrlFields) (s : State) : Out :=
  issue s c g (.nop c g f) (fun _ _ => false) (plain (fun p => p))
def execBr (c : CoreRef) (g : Pred) (f : CtrlFields) (s : State) : Out :=
  relOp s c g (.br c g f) f.off (fun p => p)
def execBrr (c : CoreRef) (g : Pred) (f : CtrlFields) (s : State) : Out := regBranch s c g (.brr c g f) f.a
def execCall (c : CoreRef) (g : Pred) (f : CtrlFields) (s : State) : Out :=
  relOp s c g (.call c g f) f.off (fun p => p.setS f.b ((p.pc + 8).zeroExtend 64))
def execRet (c : CoreRef) (g : Pred) (f : CtrlFields) (s : State) : Out := regBranch s c g (.ret c g f) f.a
def execLoop (c : CoreRef) (g : Pred) (f : CtrlFields) (s : State) : Out :=
  issue s c g (.loop c g f) (fun _ p => f.off.slt 1 || decide (p.loops.length ≥ 4))
    (fun s k p => s.setProg k (some (startLoop f.a f.off p)))
def execYield (c : CoreRef) (g : Pred) (f : CtrlFields) (s : State) : Out :=
  issue s c g (.yield c g f) (fun _ _ => decide (f.live.toNat > 128))
    (fun s k p => s.setProg k (some (yieldAt f.live p)))
def execHalt (c : CoreRef) (g : Pred) (f : CtrlFields) (s : State) : Out :=
  issue s c g (.halt c g f) (fun _ _ => false) (haltEff (.halt c g f))

end Sys2Proof.Machine
end

