-- ==== Sys2Proof/Machine/Matrix.lean ====
section
/-! DEFINITION. The matrix unit: class MAT at issue and the execution of its queue (R33 to R37, R73 to
R78). Legality and alignment are judged at issue, descriptors, ranges and poison in the unit (R93).
Choices of the model here: log entry 15 (DEDUCED), log entry 69 (DESIGN CHOICE). -/

namespace Sys2Proof.Machine

open Sys2Proof

/-! ### Accumulators -/

/-- An accumulator whose element at key 32 m + n is `f (32 m + n)`. -/
def Acc.build (tag : AccTag) (f : Nat → Lane) : Acc :=
  { tag := tag
    el := (List.range 1024).filterMap (fun i => if f i = 0 then none else some (i, f i)) }

def Acc.elem (a : Acc) (i : Nat) : Lane := a.el.get 0 i

/-- The tag that FMT 0x0 or 0xE names (R73). -/
def tagOf (c : BitVec 4) : Option AccTag :=
  match c.toNat with
  | 0 => some .fp32
  | 14 => some .int32
  | _ => none

/-- The tag of an accumulator once the queued matrix work before this instruction is done. -/
def effTag (p : Prog) (a : BitVec 2) : AccTag :=
  p.matQ.foldl (fun t w =>
    match w.work with
    | .mma f da db _ =>
      if f.acc = a && f.z then
        match (matDesc da).fmt, (matDesc db).fmt with
        | some x, some y => (pairTag x y).getD t
        | _, _ => t
      else t
    | .mzero f => if f.acc = a then (tagOf f.fmt).getD t else t
    | .mld f _ => if f.acc = a then (tagOf f.fmt).getD t else t
    | .mst _ _ _ => t) (p.accum a).tag

/-! ### MMA (R33 to R37, R73, R75 to R77) -/

/-- The largest K of a pair (R77). -/
def largestK (a b : Fmt) : Nat :=
  match a, b with
  | .bf16, _ => 2048
  | .e2m1, _ => 8192
  | .mxfp4, _ => 8192
  | .int4, _ => 8192
  | .int2, _ => 16384
  | .bp1, _ => 16384
  | _, _ => 4096

/-- Whether one operand with K indices breaks R75 or R77: a reserved bit, alignment, AUX, extent. The extent is that of the K rows that
are read (log entry 69). -/
def descBad (d : MatDesc) (f : Fmt) (k : Nat) : Bool :=
  let n := 4 * f.width * k
  d.rsv || d.base % 64 != 0 || decide (d.base + n > 0x80000) ||
    (if f == .bp2 then d.aux % 64 != 0 || decide (d.aux + n > 0x80000)
     else if f.isMx then decide (d.aux + k > 0x80000)
     else d.aux != 0)

/-- The K of an MMA is legal for its pair (R77). -/
def kLegal (a b : Fmt) (k : Nat) : Bool :=
  decide (1 ≤ k) && decide (k ≤ largestK a b) && (!a.isMx || k % 32 == 0)

/-- The spans of scratchpad that an operand reads (R76). -/
def descSpans (d : MatDesc) (f : Fmt) (k : Nat) : List (Nat × Nat) :=
  let n := 4 * f.width * k
  if f == .bp2 then [(d.base, n), (d.aux, n)]
  else if f.isMx then [(d.base, n), (d.aux, k)]
  else [(d.base, n)]

/-- An operand as read: the packed elements, plane 1 of a BP2 operand, the scale bytes. -/
structure OperandData where
  fmt : Fmt
  el : Nat
  plane1 : Nat
  scale : Nat
deriving DecidableEq, Repr

def readOperand (s : State) (b : Nat) (d : MatDesc) (f : Fmt) (k : Nat) : OperandData :=
  let n := 4 * f.width * k
  { fmt := f, el := readNat s (b + d.base) n
    plane1 := if f == .bp2 then readNat s (b + d.aux) n else 0
    scale := if f.isMx then readNat s (b + d.aux) k else 0 }

/-- Element of row or column `m` at index `k`, at position 32 k + m (R76). -/
def OperandData.elem (o : OperandData) (m k : Nat) : Val :=
  let i := 32 * k + m
  if o.fmt == .bp2 then
    decodeElem .bp2 (packedElem 1 o.el i + 2 * packedElem 1 o.plane1 i)
  else decodeElem o.fmt (packedElem o.fmt.width o.el i)

/-- The scale exponent of row or column `m` in block `j` (R25, R76). -/
def OperandData.scaleAt (o : OperandData) (m j : Nat) : Option Int := scaleExp (packedElem 8 o.scale (32 * j + m))

/-- The exact sum of a group under R36: the value and NV. -/
def groupSum (l : List (Val × BitVec 5)) : Val × BitVec 5 :=
  let nv := l.foldl (fun f x => f ||| x.2) 0
  let up := l.any (fun x => x.1 == .inf false)
  let dn := l.any (fun x => x.1 == .inf true)
  let nan := l.any (fun x => x.1 == .nan)
  let f := if up && dn then fNV else nv
  if nan || (up && dn) then (.nan, f)
  else if up then (.inf false, f)
  else if dn then (.inf true, f)
  else (l.foldl (fun a x => match a with
    | none => some x.1
    | some v => some (vAdd v x.1).1) none |>.getD (.fin false 0 0), f)

/-- Scale a value by 2^x. -/
def Val.scale (v : Val) (x : Int) : Val :=
  match v with
  | .fin n m e => .fin n m (e + x)
  | v => v

/-- One group of an FP32 accumulation: K indices `k0` to `k0 + n − 1` of element (m, n) (R34, R35). The product of a negative MXINT8
code and 0 counts as −0 where every term of the sum is a zero (log entry 69). -/
def floatGroup (a b : OperandData) (m n k0 len : Nat) (acc : Lane) : Lane × BitVec 5 :=
  let c := decodeElem .fp32 acc.toNat
  let go := fun (x : Int) =>
    let terms := (List.range len).map (fun i =>
      let r := vMul (a.elem m (k0 + i)) (b.elem n (k0 + i))
      (r.1.scale x, r.2))
    let t := groupSum ((c, 0) :: terms)
    let o := toIeee .fp32 .rne t.1
    (BitVec.ofNat 32 o.1, t.2 ||| o.2)
  if a.fmt.isMx then
    match a.scaleAt m (k0 / 32), b.scaleAt n (k0 / 32) with
    | some x, some y => go (x + y)
    | _, _ => (BitVec.ofNat 32 (nanCode .fp32), 0)
  else go 0

/-- The integer value of an element. -/
def Val.toInt : Val → Int
  | .fin n m _ => signed n m
  | _ => 0

/-- One group of an INT32 accumulation: exact, then clamped with IS (R37). -/
def intGroup (a b : OperandData) (m n k0 len : Nat) (acc : Lane) : Lane × BitVec 5 :=
  let v := (List.range len).foldl (fun t i => t + (a.elem m (k0 + i)).toInt * (b.elem n (k0 + i)).toInt) acc.toInt
  let c := clampInt 32 v
  (BitVec.ofInt 32 c.1, if c.2 then fIS else 0)

/-- All groups of element (m, n) in increasing K (R34). -/
def mmaElem (tag : AccTag) (a b : OperandData) (k m n : Nat) (acc : Lane) : Lane × BitVec 5 :=
  (List.range ((k + 31) / 32)).foldl (fun r j =>
    let len := min 32 (k - 32 * j)
    let q := match tag with
      | .fp32 => floatGroup a b m n (32 * j) len r.1
      | .int32 => intGroup a b m n (32 * j) len r.1
    (q.1, r.2 ||| q.2)) (acc, 0)

/-- The accumulator after an MMA, and the flags. -/
def mmaAll (tag : AccTag) (a b : OperandData) (k : Nat) (acc : Acc) : Acc × BitVec 5 :=
  let r := elems 1024 (fun i =>
    let q := mmaElem tag a b k (i / 32) (i % 32) (acc.elem i)
    (q.1.toNat, q.2))
  let v := packElems 32 r.1
  (Acc.build tag (fun i => BitVec.ofNat 32 (packedElem 32 v i)), r.2)

/-! ### MST (R74) -/

/-- The targets of R74 for an accumulator tag. -/
def mstLegal (t : AccTag) (c : BitVec 4) : Bool :=
  match t, Fmt.ofCode c with
  | .fp32, some f => f.isFloat || f.isSmallInt || f.isMx
  | .int32, some f => f == .int32 || f == .fp32 || f.isSmallInt
  | _, none => false

/-- The source format of an accumulator. -/
def AccTag.fmt : AccTag → Fmt
  | .fp32 => .fp32
  | .int32 => .int32

/-- The 1,024 elements converted in increasing 32 m + n (R40, R74). -/
def mstPlain (p : Prog) (a : Acc) (f : MatFields) (dst : Fmt) : Prog × List Nat × BitVec 5 :=
  if dst == a.tag.fmt then (p, (List.range 1024).map (fun i => (a.elem i).toNat), 0)
  else
    cvtList a.tag.fmt dst f.rm f.ovf 0 p 0
      ((List.range 1024).map (fun i => decodeElem a.tag.fmt (a.elem i).toNat))

/-- The 32 rows of an MX target: generators, scale bytes, element codes, flags. -/
def mstMx (p : Prog) (a : Acc) (f : MatFields) (dst : Fmt) : Prog × List Nat × List Nat × BitVec 5 :=
  (List.range 32).foldl (fun r m =>
    let b := mxBlock dst f.rm r.1 (32 * m) ((List.range 32).map (fun n => decodeElem .fp32 (a.elem (32 * m + n)).toNat))
    (b.1, r.2.1 ++ [b.2.1], r.2.2.1 ++ b.2.2.1, r.2.2.2 ||| b.2.2.2)) (p, [], [], 0)

/-- Whether an MST writes scales. -/
def mstIsMx (f : MatFields) : Bool :=
  match Fmt.ofCode f.fmt with
  | some x => x.isMx
  | none => false

/-- Bytes of element data an MST writes. -/
def mstLen (f : MatFields) : Nat :=
  match Fmt.ofCode f.fmt with
  | some x => 128 * x.width
  | none => 0

/-! ### The queue -/

/-- Execute matrix work: a fault of R93, or the state and the program with its post. -/
def runMat (s : State) (k : Nat) (p : Prog) (w : MatWork) : Except CoreCause (State × Prog) :=
  match s.spadBase k with
  | none => .ok (s, p)
  | some base =>
    match w with
    | .mma f da db kw =>
      let x := matDesc da
      let y := matDesc db
      let n := kw.toNat
      match x.fmt, y.fmt with
      | some fa, some fb =>
        match pairTag fa fb with
        | none => .error .descriptor
        | some tag =>
          if descBad x fa n || descBad y fb n || !kLegal fa fb n then .error .descriptor
          else if (descSpans x fa n ++ descSpans y fb n).any (fun t => anyPoison s (base + t.1) t.2) then
            .error .poison
          else
            let acc := if f.z then { tag := tag, el := [] } else p.accum f.acc
            let r := mmaAll tag (readOperand s base x fa n) (readOperand s base y fb n) n acc
            .ok (raiseFlags s p.ctx r.2, (p.setAcc f.acc r.1).post f.post f.evt)
      | _, _ => .error .descriptor
    | .mzero f =>
      match tagOf f.fmt with
      | none => .ok (s, p)
      | some t => .ok (s, (p.setAcc f.acc { tag := t, el := [] }).post f.post f.evt)
    | .mld f a =>
      if !spadFits a 4096 then .error .spadRange
      else if anyPoison s (base + a.toNat) 4096 then .error .poison
      else
        match tagOf f.fmt with
        | none => .ok (s, p)
        | some t =>
          let v := readNat s (base + a.toNat) 4096
          .ok (s, (p.setAcc f.acc (Acc.build t (fun i => BitVec.ofNat 32 (packedElem 32 v i)))).post f.post f.evt)
    | .mst f da db =>
      match Fmt.ofCode f.fmt with
      | none => .ok (s, p)
      | some dst =>
        let a := p.accum f.acc
        match fullRange s p da (mstLen f), (if dst.isMx then fullRange s p db 32 else none) with
        | some e, _ => .error e
        | none, some e => .error e
        | none, none =>
          match fullKey s k p da with
          | none => .ok (s, p)
          | some key =>
            if dst.isMx then
              let r := mstMx p a f dst
              let s1 := store s key (codeBytes dst.width r.2.2.1)
              let s2 := match fullKey s k p db with
                | none => s1
                | some sk => store s1 sk (codeBytes 8 r.2.1)
              .ok (raiseFlags s2 p.ctx r.2.2.2, r.1.post f.post f.evt)
            else
              let r := mstPlain p a f dst
              .ok (raiseFlags (store s key (codeBytes dst.width r.2.1)) p.ctx r.2.2, r.1.post f.post f.evt)

/-- Execute the head of the matrix queue of core `k`; a fault discards what is queued behind it (R95). -/
def matHead (s : State) (k : Nat) : State :=
  match s.prog k with
  | none => s
  | some p =>
    match p.matQ with
    | [] => s
    | w :: t =>
      match runMat s k { p with matQ := t } w.work with
      | .ok r => r.1.setProg k (some r.2)
      | .error e => coreFaultAt (s.setProg k (some { p with matQ := [] })) k w.pc e

/-- Complete the matrix queue of core `k`, which holds at most 2 instructions. -/
def drainMat (s : State) (k : Nat) : State := matHead (matHead s k) k

/-! ### Issue -/

/-- Place matrix work in its queue, or stall while the queue is full (R52). -/
def matIssue (i : Instr) (w : Prog → MatWork) (s : State) (k : Nat) (p : Prog) : State :=
  if p.matQ.length ≥ 2 then waitOn s k p .matrixQueue i false
  else
    let q : Queued MatWork := { work := w p, pc := p.pc }
    s.setProg k (some { p with matQ := p.matQ ++ [q] }.advance)

/-- An MMA with Z = 0 whose pair accumulates in another type than the accumulator's tag (R73). -/
def mmaTagBad (f : MatFields) (p : Prog) : Bool :=
  match (matDesc (p.sreg f.da)).fmt, (matDesc (p.sreg f.db)).fmt with
  | some x, some y =>
    match pairTag x y with
    | some t => !f.z && effTag p f.acc != t
    | none => false
  | _, _ => false

def execMma (c : CoreRef) (g : Pred) (f : MatFields) (s : State) : Out :=
  issue s c g (.mma c g f) (fun _ p => f.rsv != 0 || mmaTagBad f p)
    (matIssue (.mma c g f) (fun p => .mma f (p.sreg f.da) (p.sreg f.db) (p.sreg f.ks)))
def execMzero (c : CoreRef) (g : Pred) (f : MatFields) (s : State) : Out :=
  issue s c g (.mzero c g f) (fun _ _ => f.rsv != 0 || (tagOf f.fmt).isNone)
    (matIssue (.mzero c g f) (fun _ => .mzero f))
def execMld (c : CoreRef) (g : Pred) (f : MatFields) (s : State) : Out :=
  issue s c g (.mld c g f) (fun _ _ => f.rsv != 0 || (tagOf f.fmt).isNone)
    (matIssue (.mld c g f) (fun p => .mld f (p.sreg f.da)))
def execMst (c : CoreRef) (g : Pred) (f : MatFields) (s : State) : Out :=
  issue s c g (.mst c g f)
    (fun _ p => f.rsv != 0 || f.rm == 3 || !mstLegal (effTag p f.acc) f.fmt || badSpace (p.sreg f.da) ||
      (mstIsMx f && badSpace (p.sreg f.db)))
    (fun s k p =>
      if mstIsMx f && (p.sreg f.db).toNat % 32 != 0 then coreFault s k p .misaligned
      else matIssue (.mst c g f) (fun p => .mst f (p.sreg f.da) (p.sreg f.db)) s k p)

end Sys2Proof.Machine
end

