-- ==== Sys2Proof/Machine/Scalar.lean ====
section
/-! DEFINITION. Scalar ALU instructions: classes SALU and SIMM (R65). -/

namespace Sys2Proof.Machine

open Sys2Proof

/-- The reserved fields of a form are 0 (R62). -/
def aluRsvOk : AluForm → Bool
  | .reg _ _ _ r => r == 0
  | .imm _ _ _ => true


/-- Operands A and B of a form: B is the sign-extended immediate in class SIMM (R65). -/
def aluA (f : AluForm) (p : Prog) : Word :=
  match f with
  | .reg _ a _ _ => p.sreg a
  | .imm _ a _ => p.sreg a

def aluB (f : AluForm) (p : Prog) : Word :=
  match f with
  | .reg _ _ b _ => p.sreg b
  | .imm _ _ i => i.signExtend 64

def aluD : AluForm → BitVec 5
  | .reg d _ _ _ => d
  | .imm d _ _ => d


/-- The predicate that a 5-bit field names, when its bits [4:3] are 0. -/
def predField (x : BitVec 5) : BitVec 3 := x.extractLsb' 0 3
def isPred (x : BitVec 5) : Bool := decide (x.toNat < 8)

/-- An operation s[D] ← f(A, B) in both classes. -/
def aluOp (s : State) (c : CoreRef) (g : Pred) (i : Instr) (f : AluForm) (op : Word → Word → Word) : Out :=
  issue s c g i (fun _ _ => !aluRsvOk f)
    (plain (fun p => p.setS (aluD f) (op (aluA f p) (aluB f p))))

/-- A compare p[D] ← r(A, B) in both classes; bits [4:3] of D must be 0 (R63). -/
def cmpOp (s : State) (c : CoreRef) (g : Pred) (i : Instr) (f : AluForm) (r : Word → Word → Bool) : Out :=
  issue s c g i (fun _ _ => !aluRsvOk f || !isPred (aluD f))
    (plain (fun p => p.setP (predField (aluD f)) (r (aluA f p) (aluB f p))))

/-- A predicate operation; only in class SALU (R65). -/
def predOp (s : State) (c : CoreRef) (g : Pred) (i : Instr) (f : AluForm) (bZero : Bool)
    (r : Bool → Bool → Bool) : Out :=
  match f with
  | .reg d a b rsv =>
    issue s c g i (fun _ _ => rsv != 0 || !isPred d || !isPred a || !isPred b || (bZero && b != 0))
      (plain (fun p => p.setP (predField d) (r (p.preg (predField a)) (p.preg (predField b)))))
  | .imm _ _ _ => issue s c g i (fun _ _ => true) (fun s _ _ => s)

/-- An operation of class SIMM alone: s[D] ← f(s[D], IMM). -/
def immOp (s : State) (c : CoreRef) (g : Pred) (i : Instr) (f : AluForm) (op : Word → BitVec 40 → Word) : Out :=
  match f with
  | .reg _ _ _ _ => issue s c g i (fun _ _ => true) (fun s _ _ => s)
  | .imm d _ x => issue s c g i (fun _ _ => false) (plain (fun p => p.setS d (op (p.sreg d) x)))

/-! The results of R65. -/

def mulhu (a b : Word) : Word := BitVec.ofNat 64 (a.toNat * b.toNat / 2 ^ 64)
def divu (a b : Word) : Word := if b = 0 then BitVec.allOnes 64 else a / b
def remu (a b : Word) : Word := if b = 0 then a else a % b
def shamt (b : Word) : Nat := b.toNat % 64

def execAdd (c : CoreRef) (g : Pred) (f : AluForm) (s : State) : Out := aluOp s c g (.add c g f) f (· + ·)
def execSub (c : CoreRef) (g : Pred) (f : AluForm) (s : State) : Out := aluOp s c g (.sub c g f) f (· - ·)
def execMul (c : CoreRef) (g : Pred) (f : AluForm) (s : State) : Out := aluOp s c g (.mul c g f) f (· * ·)
def execMulhu (c : CoreRef) (g : Pred) (f : AluForm) (s : State) : Out := aluOp s c g (.mulhu c g f) f mulhu
def execDivu (c : CoreRef) (g : Pred) (f : AluForm) (s : State) : Out := aluOp s c g (.divu c g f) f divu
def execRemu (c : CoreRef) (g : Pred) (f : AluForm) (s : State) : Out := aluOp s c g (.remu c g f) f remu
def execAnd (c : CoreRef) (g : Pred) (f : AluForm) (s : State) : Out := aluOp s c g (.and c g f) f (· &&& ·)
def execOr (c : CoreRef) (g : Pred) (f : AluForm) (s : State) : Out := aluOp s c g (.or c g f) f (· ||| ·)
def execXor (c : CoreRef) (g : Pred) (f : AluForm) (s : State) : Out := aluOp s c g (.xor c g f) f (· ^^^ ·)
def execSll (c : CoreRef) (g : Pred) (f : AluForm) (s : State) : Out :=
  aluOp s c g (.sll c g f) f (fun a b => a <<< shamt b)
def execSrl (c : CoreRef) (g : Pred) (f : AluForm) (s : State) : Out :=
  aluOp s c g (.srl c g f) f (fun a b => a >>> shamt b)
def execSra (c : CoreRef) (g : Pred) (f : AluForm) (s : State) : Out :=
  aluOp s c g (.sra c g f) f (fun a b => a.sshiftRight (shamt b))
def execMin (c : CoreRef) (g : Pred) (f : AluForm) (s : State) : Out :=
  aluOp s c g (.min c g f) f (fun a b => if a.slt b then a else b)
def execMax (c : CoreRef) (g : Pred) (f : AluForm) (s : State) : Out :=
  aluOp s c g (.max c g f) f (fun a b => if a.slt b then b else a)
def execMinu (c : CoreRef) (g : Pred) (f : AluForm) (s : State) : Out :=
  aluOp s c g (.minu c g f) f (fun a b => if a.ult b then a else b)
def execMaxu (c : CoreRef) (g : Pred) (f : AluForm) (s : State) : Out :=
  aluOp s c g (.maxu c g f) f (fun a b => if a.ult b then b else a)
def execCeq (c : CoreRef) (g : Pred) (f : AluForm) (s : State) : Out := cmpOp s c g (.ceq c g f) f (fun a b => a == b)
def execCne (c : CoreRef) (g : Pred) (f : AluForm) (s : State) : Out := cmpOp s c g (.cne c g f) f (fun a b => a != b)
def execClt (c : CoreRef) (g : Pred) (f : AluForm) (s : State) : Out := cmpOp s c g (.clt c g f) f (fun a b => a.slt b)
def execCltu (c : CoreRef) (g : Pred) (f : AluForm) (s : State) : Out := cmpOp s c g (.cltu c g f) f (fun a b => a.ult b)
def execCge (c : CoreRef) (g : Pred) (f : AluForm) (s : State) : Out := cmpOp s c g (.cge c g f) f (fun a b => !a.slt b)
def execCgeu (c : CoreRef) (g : Pred) (f : AluForm) (s : State) : Out := cmpOp s c g (.cgeu c g f) f (fun a b => !a.ult b)
def execPand (c : CoreRef) (g : Pred) (f : AluForm) (s : State) : Out := predOp s c g (.pand c g f) f false (· && ·)
def execPor (c : CoreRef) (g : Pred) (f : AluForm) (s : State) : Out := predOp s c g (.por c g f) f false (· || ·)
def execPnot (c : CoreRef) (g : Pred) (f : AluForm) (s : State) : Out := predOp s c g (.pnot c g f) f true (fun a _ => !a)
def execLi (c : CoreRef) (g : Pred) (f : AluForm) (s : State) : Out := immOp s c g (.li c g f) f (fun _ x => x.signExtend 64)
def execLih (c : CoreRef) (g : Pred) (f : AluForm) (s : State) : Out :=
  immOp s c g (.lih c g f) f (fun d x => (x.extractLsb' 0 24 ++ d.extractLsb' 0 40 : BitVec 64))

end Sys2Proof.Machine
end

