-- ==== Sys2Proof/Machine/Smem.lean ====
section
/-! DEFINITION. Scalar scratchpad accesses: class SMEM (R68). They take effect in program order with the
vector accesses before them (R81).
Choices of the model here: log entry 18 (DEDUCED). -/

namespace Sys2Proof.Machine

open Sys2Proof

/-- The address of an SMEM instruction. -/
def smemAddr (f : SmemFields) (p : Prog) : Word := offAddr (p.sreg f.a) f.off

/-- Alignment and range of an access of `n` bytes, then the access itself after the earlier vector work. -/
def smemEff (f : SmemFields) (n : Nat) (act : State → Nat → Prog → Nat → State) (s : State) (k : Nat)
    (p : Prog) : State :=
  let a := smemAddr f p
  if a.toNat % n ≠ 0 then coreFault s k p .misaligned
  else if !spadFits a n then coreFault s k p .spadRange
  else
    let s := drainVec s k
    match s.prog k, spadAt s k a with
    | some p, some key => act s k p key
    | _, _ => s

/-- A load of `n` bytes; a poisoned granule faults (R55). -/
def loadOp (s : State) (c : CoreRef) (g : Pred) (i : Instr) (f : SmemFields) (n : Nat)
    (ext : Nat → Word) : Out :=
  issue s c g i (fun _ _ => f.rsv != 0) (smemEff f n (fun s k p key =>
    if anyPoison s key n then coreFault s k p .poison
    else s.setProg k (some (p.setS f.d (ext (readNat s key n))).advance)))

/-- A store of the low `n` bytes of s[D]. -/
def storeOp (s : State) (c : CoreRef) (g : Pred) (i : Instr) (f : SmemFields) (n : Nat) : Out :=
  issue s c g i (fun _ _ => f.rsv != 0) (smemEff f n (fun s k p key =>
    (store s key (leBytes n (p.sreg f.d).toNat)).setProg k (some p.advance)))

/-- Sign extension of a `w`-bit number. -/
def sext (w : Nat) (x : Nat) : Word := BitVec.ofInt 64 (decodeInt w x)

def execLd8u (c : CoreRef) (g : Pred) (f : SmemFields) (s : State) : Out :=
  loadOp s c g (.ld8u c g f) f 1 (BitVec.ofNat 64)
def execLd16u (c : CoreRef) (g : Pred) (f : SmemFields) (s : State) : Out :=
  loadOp s c g (.ld16u c g f) f 2 (BitVec.ofNat 64)
def execLd32u (c : CoreRef) (g : Pred) (f : SmemFields) (s : State) : Out :=
  loadOp s c g (.ld32u c g f) f 4 (BitVec.ofNat 64)
def execLd64 (c : CoreRef) (g : Pred) (f : SmemFields) (s : State) : Out :=
  loadOp s c g (.ld64 c g f) f 8 (BitVec.ofNat 64)
def execLd8s (c : CoreRef) (g : Pred) (f : SmemFields) (s : State) : Out :=
  loadOp s c g (.ld8s c g f) f 1 (sext 8)
def execLd16s (c : CoreRef) (g : Pred) (f : SmemFields) (s : State) : Out :=
  loadOp s c g (.ld16s c g f) f 2 (sext 16)
def execLd32s (c : CoreRef) (g : Pred) (f : SmemFields) (s : State) : Out :=
  loadOp s c g (.ld32s c g f) f 4 (sext 32)
def execSt8 (c : CoreRef) (g : Pred) (f : SmemFields) (s : State) : Out := storeOp s c g (.st8 c g f) f 1
def execSt16 (c : CoreRef) (g : Pred) (f : SmemFields) (s : State) : Out := storeOp s c g (.st16 c g f) f 2
def execSt32 (c : CoreRef) (g : Pred) (f : SmemFields) (s : State) : Out := storeOp s c g (.st32 c g f) f 4
def execSt64 (c : CoreRef) (g : Pred) (f : SmemFields) (s : State) : Out := storeOp s c g (.st64 c g f) f 8

end Sys2Proof.Machine
end

