-- ==== Sys2Proof/Machine/Stream.lean ====
section
/-! DEFINITION. Stream instructions: class STRM (R51, R52, R79, R84 to R86, R94), the execution of the stream queue in its
order, and the data that arrives on receive streams.
Choices of the model here: log entry 18 (DEDUCED), log entry 63 (DESIGN CHOICE). -/

namespace Sys2Proof.Machine

open Sys2Proof

/-! ### Bindings (R84) -/

/-- The stream of the active rig that a predicate on router and tag finds for a core's stream number. -/
def findStream (s : State) (k : Nat) (f : Nat → StreamDef → Bool) : Option StreamDef :=
  match s.rig.active, s.coreRouter k with
  | some r, some router => r.streams.find? (f router)
  | _, _ => none

def sendDef (s : State) (k : Nat) (st : BitVec 4) : Option StreamDef :=
  findStream s k (fun r d => d.srcRouter == r && d.srcTag == st.toNat && !d.request)
def recvDef (s : State) (k : Nat) (st : BitVec 4) : Option StreamDef :=
  findStream s k (fun r d => d.dstRouter == r && d.dstTag == st.toNat && !d.request)
def reqDef (s : State) (k : Nat) (st : BitVec 4) : Option StreamDef :=
  findStream s k (fun r d => d.srcRouter == r && d.srcTag == st.toNat && d.request)

/-- Lengths of R79: multiples of 32 from 32 to 4 MiB. -/
def lenOk (n : Word) : Bool := n.toNat % 32 == 0 && decide (32 ≤ n.toNat) && decide (n.toNat ≤ 0x400000)
def aligned32 (a : Word) : Bool := a.toNat % 32 == 0

/-! ### Received data (R85) -/

/-- Fill the posted buffers of a stream in order: the memory, the buffers, and the bytes that found none. -/
def fillBufs (s : State) (k : Nat) (p : Prog) (st : BitVec 4) (poison : Bool) :
    List RecvBuf → List Byte → State × List RecvBuf × List Byte
  | [], l => (s, [], l)
  | w :: t, l =>
    if w.f.st = st && w.filled < w.len && !l.isEmpty then
      let m := min (w.len - w.filled) l.length
      let s' := match fullKey s k p (w.a + BitVec.ofNat 64 w.filled) with
        | none => s
        | some key => store s key (l.take m) poison
      let r := fillBufs s' k p st poison t (l.drop m)
      (r.1, { w with filled := w.filled + m } :: r.2.1, r.2.2)
    else
      let r := fillBufs s k p st poison t l
      (r.1, w :: r.2.1, r.2.2)

/-- Deliver held frames of a stream to the buffers of the resident program. -/
def absorb (s : State) (k : Nat) (st : BitVec 4) : State :=
  match s.prog k, s.coreRouter k with
  | some p, some r =>
    let key := tagKey r st.toNat
    let go := fun (a : State × Prog × List Frame) (f : Frame) =>
      if !a.2.2.isEmpty then (a.1, a.2.1, a.2.2 ++ [f])
      else
        let q := fillBufs a.1 k a.2.1 st f.poison a.2.1.recvs f.bytes
        let rest := q.2.2
        (q.1, { a.2.1 with recvs := q.2.1 },
          if rest.isEmpty then [] else [{ f with payload := rest, half := rest.length ≤ 32 }])
    let a := (s.mesh.rx.get [] key).foldl go (s, p, [])
    let s' := a.1.setProg k (some a.2.1)
    { s' with mesh := { s'.mesh with rx := s'.mesh.rx.set [] key a.2.2 } }
  | _, _ => s

/-- Bytes that the posted buffers of a program still want on a stream. -/
def wanted (p : Prog) (st : BitVec 4) : Nat :=
  p.recvs.foldl (fun a w => if w.f.st = st then a + (w.len - w.filled) else a) 0

/-- A frame that carries credit of `n` units of 256 bytes (R85). The spec gives its payload no form (log entry 63). -/
def creditFrame (sl tag n : Nat) : Frame :=
  Frame.sealed { sail := BitVec.ofNat 6 sl, srcTag := BitVec.ofNat 12 tag, first := true, last := true, poison := false,
                 half := true, crc := 0, payload := leBytes 8 n ++ List.replicate 56 0 }

/-- Grant the source of a receive stream credit for what the posted buffers want beyond what it has been granted, in units of
256 bytes, in the stream's return slots (R85). -/
def grantCredit (s : State) (k : Nat) (st : BitVec 4) : State :=
  match s.prog k, s.coreRouter k, recvDef s k st with
  | some p, some r, some d =>
    let key := tagKey r st.toNat
    let held := (s.mesh.rx.get [] key).foldl (fun a f => a + f.bytes.length) 0
    let have_ := s.mesh.grant.get 0 key + held
    let n := (wanted p st - have_ + 255) / 256
    if n = 0 then s
    else
      enqueue { s with mesh := { s.mesh with grant := s.mesh.grant.upd 0 key (· + 256 * n) } } r st.toNat
        [creditFrame d.sail st.toNat n]
  | _, _, _ => s

/-! ### The stream queue (R51) -/

/-- Where the record of a REQ stands, and whether a granule of it is poisoned. -/
def recordAt (s : State) (k : Nat) (a : Word) (len : Nat) : Option (Nat × Bool) :=
  (s.spadBase k).map (fun b => (b + a.toNat, anyPoison s (b + a.toNat) len))

/-- Execute the head of the stream queue of core `k` if it does not wait: a RECV is posted, a REQ hands the frames of its record
to the interface, an SSTAT reads and clears its record. A SEND stays until its last byte has left. -/
def runHead (s : State) (k : Nat) : State :=
  match s.prog k with
  | none => s
  | some p =>
    match p.strmQ with
    | [] => s
    | w :: t =>
      match w.work with
      | .send _ _ _ _ => s
      | .recv f a len =>
        grantCredit (absorb (s.setProg k (some { p with
          strmQ := t, recvs := p.recvs ++ [{ f := f, a := a, len := len, filled := 0 }] })) k f.st) k f.st
      | .sstat f =>
        let v : Word := match p.errs.find? (fun e => e.st == f.st) with
          | none => 0
          | some e => e.status.code.zeroExtend 64
        s.setProg k (some (({ p with strmQ := t, errs := p.errs.filter (fun e => e.st != f.st) }.setS f.a v).post f.post f.evt))
      | .req f tag a len =>
        match recordAt s k a len, s.coreRouter k, reqDef s k f.st with
        | some (key, bad), some r, some d =>
          let seq := ((p.reqs.find? (fun x => x.tag == tag)).map (·.seq)).getD 0
          if bad then coreFaultAt s k w.pc .poison
          else
            enqueue (s.setProg k (some { p with
              strmQ := t
              reqs := p.reqs.map (fun x => if x.tag = tag then { x with at_ := .mesh } else x) })) r f.st.toNat
              (messageFrames d.sail f.st.toNat (some (seq, .done)) [] (readBytes s key len))
        | _, _, _ => s

/-- Execute the stream queue in its order (R51): it holds 16 entries. -/
def runStream (s : State) (k : Nat) : State := (List.range 16).foldl (fun s _ => runHead s k) s

/-- Whether the SEND that the stream unit of a core executes waits for credit (R85, R87). -/
def waitsCredit (s : State) (k : Nat) (p : Prog) : Bool :=
  match p.strmQ with
  | ⟨.send f _ len sent, _⟩ :: _ =>
    match sendDef s k f.st with
    | none => false
    | some d => decide (d.dstRouter < 2304) && decide (s.mesh.credit.get 0 (tagKey d.srcRouter d.srcTag) < min 64 (len - sent))
  | _ => false

/-- Whether a core stands at a yield point (R87). -/
def atYieldPoint (s : State) (k : Nat) (p : Prog) : Bool := p.atYieldPoint || waitsCredit s k p

/-- Place work in the stream queue and execute what need not wait; a full queue makes the instruction wait (R51, R52). -/
def strmIssue (i : Instr) (w : StrmWork) (s : State) (k : Nat) (p : Prog) : State :=
  if p.strmQ.length ≥ 16 then waitOn s k p .streamQueue i true
  else
    let q : Queued StrmWork := { work := w, pc := p.pc }
    runStream (s.setProg k (some { p with strmQ := p.strmQ ++ [q] }.advance)) k

/-! ### SEND and RECV -/

/-- Judge a SEND or RECV: stream, alignment and length, range (R465). -/
def bufFault (s : State) (p : Prog) (d : Option StreamDef) (a b : Word) : Option CoreCause :=
  if d.isNone then some .streamUnbound
  else if !aligned32 a || !lenOk b then some .misaligned
  else fullRange s p a b.toNat

/-- Issue a SEND or RECV. -/
def bufEff (i : Instr) (f : StrmFields) (d : State → Nat → BitVec 4 → Option StreamDef) (w : Word → Nat → StrmWork)
    (s : State) (k : Nat) (p : Prog) : State :=
  let a := p.sreg f.a
  let b := p.sreg f.b
  match bufFault s p (d s k f.st) a b with
  | some e => coreFault s k p e
  | none => strmIssue i (w a b.toNat) s k p

/-! ### REQ -/

/-- The programs that hold request tags of a core: the resident one and the saved ones (R86, R89). -/
def tagHolders (s : State) (k : Nat) : List Prog :=
  let saved := match s.clusterSail (k / 34) with
    | none => []
    | some sl => ((s.sail sl).saved.filter (fun v => v.lc == k)).map (·.prog)
  match s.prog k with
  | none => saved
  | some p => saved ++ [p]

/-- The outstanding requests of a core. -/
def coreReqs (s : State) (k : Nat) : List ReqOut := (tagHolders s k).flatMap (·.reqs)

/-- The lowest free request tag of a core. -/
def freeReqTag (s : State) (k : Nat) : Option Nat :=
  (List.range 64).find? (fun t => !(coreReqs s k).any (fun r => r.tag == t))

/-- An instruction that takes a request tag of its core enters the stream queue; the core numbers its requests in the order in
which they issue. -/
def reqIssue (i : Instr) (f : StrmFields) (tag len : Nat) (s : State) (k : Nat) (p : Prog) : State :=
  let r : ReqOut := { tag := tag, seq := (s.core k).nextReq, st := f.st, dst := (p.sreg f.b).extractLsb' 0 32, evt := f.evt,
                      post := f.post, ret := none, marks := [], at_ := .queue }
  strmIssue i (.req f tag (p.sreg f.a) len)
    (s.setCore k { s.core k with nextReq := (s.core k).nextReq + 1 }) k { p with reqs := p.reqs ++ [r] }

/-- REQ (R86, R115): the record is judged over its whole extent, the destination by its first byte; a request beyond the core's
tags or its stream's quota waits (R135). -/
def reqEff (i : Instr) (f : StrmFields) (s : State) (k : Nat) (p : Prog) : State :=
  let a := p.sreg f.a
  let b := p.sreg f.b
  match reqDef s k f.st, s.spadBase k with
  | some d, some base =>
    if !aligned32 a || !aligned32 b then coreFault s k p .misaligned
    else if !spadFits a 32 then coreFault s k p .spadRange
    else
      let key := base + a.toNat
      let len := recordLen (reqHdr (readBytes s key 32))
      if !spadFits a len then coreFault s k p .spadRange
      else
        match fullRange s p b 1 with
        | some e => coreFault s k p e
        | none =>
          if anyPoison s key len then coreFault s k p .poison
          else if p.strmQ.length ≥ 16 then waitOn s k p .streamQueue i true
          else
            match freeReqTag s k with
            | none => waitOn s k p (.tag f.st) i true
            | some tag =>
              if ((coreReqs s k).filter (fun r => r.st == f.st)).length ≥ d.quota then waitOn s k p (.tag f.st) i true
              else reqIssue i f tag len s k p
  | _, _ => coreFault s k p .streamUnbound

/-- SSTAT reads and clears the first error of a request stream (R79, R94). -/
def sstatEff (i : Instr) (f : StrmFields) (s : State) (k : Nat) (p : Prog) : State :=
  if (reqDef s k f.st).isNone then coreFault s k p .streamUnbound
  else strmIssue i (.sstat f) s k p

def execSend (c : CoreRef) (g : Pred) (f : StrmFields) (s : State) : Out :=
  issue s c g (.send c g f) (fun _ p => f.rsv != 0 || badSpace (p.sreg f.a))
    (bufEff (.send c g f) f sendDef (fun a n => .send f a n 0))
def execRecv (c : CoreRef) (g : Pred) (f : StrmFields) (s : State) : Out :=
  issue s c g (.recv c g f) (fun _ p => f.rsv != 0 || badSpace (p.sreg f.a))
    (bufEff (.recv c g f) f recvDef (fun a n => .recv f a n))
def execReq (c : CoreRef) (g : Pred) (f : StrmFields) (s : State) : Out :=
  issue s c g (.req c g f) (fun _ p => f.rsv != 0 || badSpace (p.sreg f.b)) (reqEff (.req c g f) f)
def execSstat (c : CoreRef) (g : Pred) (f : StrmFields) (s : State) : Out :=
  issue s c g (.sstat c g f) (fun _ _ => f.rsv != 0) (sstatEff (.sstat c g f) f)

end Sys2Proof.Machine
end

