-- ==== Sys2Proof/Machine/Sync.lean ====
section
/-! DEFINITION. Fences, events and device semaphores: class SYNC (R79 to R83). -/

namespace Sys2Proof.Machine

open Sys2Proof

/-- Whether every earlier instruction of the unit classes in a mask has completed (R79). -/
def Prog.fenceMet (p : Prog) (m : BitVec 4) : Bool :=
  (!m.getLsbD 0 || p.matQ.isEmpty) && (!m.getLsbD 1 || p.vecQ.isEmpty) &&
  (!m.getLsbD 2 || (p.strmQ.isEmpty && p.recvs.isEmpty && p.reqs.isEmpty)) && (!m.getLsbD 3 || p.xferQ.isEmpty)

/-- FENCE forms a yield point while it waits for the stream or transfer class (R87). -/
def fenceEff (i : Instr) (f : SyncFields) (s : State) (k : Nat) (p : Prog) : State :=
  if p.fenceMet f.mask then s.setProg k (some p.advance)
  else waitOn s k p (.fence f.mask) i (WaitFor.fence f.mask).isYield

/-- s[A] + IMM modulo 2^32. -/
def syncSum (f : SyncFields) (p : Prog) : BitVec 32 := (p.sreg f.a).extractLsb' 0 32 + f.imm

/-- A WAITE with target t is satisfied when (e − t) mod 2^32 is below 2^31 (R80). -/
def reached (e t : BitVec 32) : Bool := decide ((e - t).toNat < 2 ^ 31)

def waiteEff (i : Instr) (f : SyncFields) (s : State) (k : Nat) (p : Prog) : State :=
  if reached (p.event f.evt) (syncSum f p) then s.setProg k (some p.advance)
  else waitOn s k p (.event f.evt (syncSum f p)) i true

/-- The semaphore that s[A][13:0] names. -/
def semIndex (f : SyncFields) (p : Prog) : Nat := (p.sreg f.a).toNat % 2 ^ 14

/-- The distinct semaphores that a context holds, with those on which its acquires wait (R82). -/
def semSet (s : State) (c : Nat) : List Nat :=
  ((s.ctx c).holds.map (·.sem) ++ (s.sems.filter (fun p => p.2.waiters.any (fun w => w.ctx == c))).map (·.1)).eraseDups

/-- SEM_RANGE and SEM_REVOKED (R82, R83), in the order of R465; SEM_REVOKED clears its record. -/
def semGuard (f : SyncFields) (s : State) (k : Nat) (p : Prog) (act : State) : State :=
  if s.semSail (semIndex f p) != s.ctxSail p.ctx || (s.ctxSail p.ctx).isNone then coreFault s k p .semRange
  else if (s.ctx p.ctx).semRev then
    coreFault (s.updCtx p.ctx (fun x => { x with semRev := false })) k p .semRevoked
  else noReplay act p.q p.n

/-- Whether an acquire would make a ninth hold (R82). -/
def ninthHold (s : State) (c i u : Nat) : Bool :=
  u != 0 && !(semSet s c).contains i && decide ((semSet s c).length ≥ 8)

/-- Whether an acquire of `u` units is granted at once (R317). -/
def semFree (s : State) (i u : Nat) : Bool := (s.sem i).waiters.isEmpty && decide (u ≤ (s.sem i).value)

/-- Take `u` units for a context. -/
def semTake (s : State) (c i u : Nat) : State :=
  let m := s.sem i
  (s.setSem i { m with value := m.value - u }).updCtx c (fun x => x.setHold i (x.hold i + u))

/-- SEMACQ: granted, or a place among the waiters (R82, R317). -/
def semacqEff (i : Instr) (f : SyncFields) (s : State) (k : Nat) (p : Prog) : State :=
  let n := semIndex f p
  let u := f.imm.toNat
  semGuard f s k p (
    if u = 0 then s.setProg k (some p.advance)
    else if ninthHold s p.ctx n u then coreFault s k p .semHolds
    else if semFree s n u then (semTake s p.ctx n u).setProg k (some p.advance)
    else
      let m := s.sem n
      waitOn (s.setSem n { m with waiters := m.waiters ++ [{ ctx := p.ctx, lc := k, units := u }] }) k p (.sem n u) i true)

/-- SEMTRY never waits: p[EVT[2:0]] tells whether it acquired (R79). -/
def semtryEff (f : SyncFields) (s : State) (k : Nat) (p : Prog) : State :=
  let n := semIndex f p
  let u := f.imm.toNat
  let d : BitVec 3 := f.evt.extractLsb' 0 3
  semGuard f s k p (
    if u = 0 then s.setProg k (some (p.setP d true).advance)
    else if ninthHold s p.ctx n u then coreFault s k p .semHolds
    else if semFree s n u then (semTake s p.ctx n u).setProg k (some (p.setP d true).advance)
    else s.setProg k (some (p.setP d false).advance))

/-- SEMREL subtracts from the hold down to 0 and releases its whole count (R82). -/
def semrelEff (f : SyncFields) (s : State) (k : Nat) (p : Prog) : State :=
  let n := semIndex f p
  let u := f.imm.toNat
  semGuard f s k p (
    if u = 0 then s.setProg k (some p.advance)
    else
      let s := s.updCtx p.ctx (fun x => x.setHold n (x.hold n - u))
      semRelease (s.setProg k (some p.advance)) n u)

def execFence (c : CoreRef) (g : Pred) (f : SyncFields) (s : State) : Out :=
  issue s c g (.fence c g f) (fun _ _ => f.rsv != 0) (fenceEff (.fence c g f) f)
def execWaite (c : CoreRef) (g : Pred) (f : SyncFields) (s : State) : Out :=
  issue s c g (.waite c g f) (fun _ _ => f.rsv != 0) (waiteEff (.waite c g f) f)
def execSete (c : CoreRef) (g : Pred) (f : SyncFields) (s : State) : Out :=
  issue s c g (.sete c g f) (fun _ _ => f.rsv != 0) (plain (fun p => p.setE f.evt (syncSum f p)))
def execAdde (c : CoreRef) (g : Pred) (f : SyncFields) (s : State) : Out :=
  issue s c g (.adde c g f) (fun _ _ => f.rsv != 0)
    (plain (fun p => p.setE f.evt (p.event f.evt + syncSum f p)))
def execSemacq (c : CoreRef) (g : Pred) (f : SyncFields) (s : State) : Out :=
  issue s c g (.semacq c g f) (fun _ _ => f.rsv != 0) (semacqEff (.semacq c g f) f)
def execSemtry (c : CoreRef) (g : Pred) (f : SyncFields) (s : State) : Out :=
  issue s c g (.semtry c g f) (fun _ _ => f.rsv != 0) (semtryEff f)
def execSemrel (c : CoreRef) (g : Pred) (f : SyncFields) (s : State) : Out :=
  issue s c g (.semrel c g f) (fun _ _ => f.rsv != 0) (semrelEff f)

end Sys2Proof.Machine
end

