-- ==== Sys2Proof/Machine/Sys.lean ====
section
/-! DEFINITION. Core state registers, arithmetic flags and time: class SYS (R49, R50, R59, R79). -/

namespace Sys2Proof.Machine

open Sys2Proof

/-- The core state registers that exist and those that are writable (R59). -/
def csrExists (n : BitVec 12) : Bool := decide (n.toNat ≤ 6) || (decide (0x10 ≤ n.toNat) && decide (n.toNat ≤ 0x1F))
def csrWritable (n : BitVec 12) : Bool := n == 3 || (decide (0x10 ≤ n.toNat) && decide (n.toNat ≤ 0x1F))

/-- The value of a core state register (R59). -/
def csrRead (s : State) (k : Nat) (p : Prog) (n : BitVec 12) : Word :=
  match n.toNat with
  | 0 => p.cycle
  | 1 => BitVec.ofNat 64 p.lcore
  | 2 => BitVec.ofNat 64 p.ncore
  | 3 => p.live.zeroExtend 64
  | 4 => BitVec.ofNat 64 (32768 - p.yieldCount)
  | 5 => BitVec.ofNat 64 (coreReqs s k).length
  | 6 => BitVec.ofNat 64 (s.ctx p.ctx).holds.length
  | _ => (p.event (n.extractLsb' 0 4)).zeroExtend 64

/-- A write of LIVE or of an event counter (R59). -/
def csrWrite (p : Prog) (n : BitVec 12) (v : Word) : Prog :=
  if n = 3 then { p with live := v.extractLsb' 0 8 } else p.setE (n.extractLsb' 0 4) (v.extractLsb' 0 32)

def execCsrr (c : CoreRef) (g : Pred) (f : SysFields) (s : State) : Out :=
  issue s c g (.csrr c g f) (fun _ _ => f.rsv != 0 || !csrExists f.csr)
    (fun s k p => plain (fun p => p.setS f.d (csrRead s k p f.csr)) s k p)
def execCsrw (c : CoreRef) (g : Pred) (f : SysFields) (s : State) : Out :=
  issue s c g (.csrw c g f)
    (fun _ p => f.rsv != 0 || !csrWritable f.csr || (f.csr == 3 && decide (128 < (p.sreg f.a).toNat % 256)))
    (plain (fun p => csrWrite p f.csr (p.sreg f.a)))
def execFlagr (c : CoreRef) (g : Pred) (f : SysFields) (s : State) : Out :=
  issue s c g (.flagr c g f) (fun _ _ => f.rsv != 0)
    (fun s k p => plain (fun p => p.setS f.d ((s.ctx p.ctx).arith.zeroExtend 64)) s k p)
def execFlagc (c : CoreRef) (g : Pred) (f : SysFields) (s : State) : Out :=
  issue s c g (.flagc c g f) (fun _ _ => f.rsv != 0)
    (fun s k p => plain (fun p => p)
      (s.updCtx p.ctx (fun x => { x with arith := x.arith &&& ~~~ ((p.sreg f.a).extractLsb' 0 5) })) k p)
def execTime (c : CoreRef) (g : Pred) (f : SysFields) (s : State) : Out :=
  issue s c g (.time c g f) (fun _ _ => f.rsv != 0)
    (fun s k p => plain (fun p => p.setS f.d s.time) s k p)

end Sys2Proof.Machine
end

