-- ==== Sys2Proof/Machine/Vector.lean ====
section
/-! DEFINITION. Vector instructions at issue: classes VALU, VMEM and VCVT (R69 to R72). They are placed in
the vector queue, which holds 8 (R51, R52).
Choices of the model here: log entry 16 (DEDUCED), log entry 18 (DEDUCED). -/

namespace Sys2Proof.Machine

open Sys2Proof

/-- The formats of the table of R69. -/
def valuFmt (op : VOp) (c : BitVec 4) : Bool :=
  match op with
  | .add | .sub | .mul | .min | .max | .mov => c == 0x0 || c == 0x1 || c == 0x9 || c == 0xE
  | .fma => c == 0x0 || c == 0x1
  | .div | .rcp | .rsqrt | .exp2 | .log2 => c == 0x0
  | .and | .or | .xor | .shl | .shr | .sel => c == 0xE
  | .bcast | .redsum | .redmax => c == 0x0 || c == 0xE

/-- Where SAT = 1 is allowed (R69). -/
def valuSat (op : VOp) (c : BitVec 4) : Bool :=
  match op with
  | .add | .sub | .mul => c == 0x9 || c == 0xE
  | .redsum => c == 0xE
  | _ => false

/-- The combinations that R69 allows. -/
def valuLegal (op : VOp) (f : ValuFields) : Bool :=
  f.rsv == 0 && valuFmt op f.fmt && decide (f.rm.toNat < 2) && (!f.sat || valuSat op f.fmt)

/-- Place vector work in its queue, or stall while the queue is full (R52). -/
def vecIssue (i : Instr) (w : VecWork) (s : State) (k : Nat) (p : Prog) : State :=
  if p.vecQ.length ≥ 8 then waitOn s k p .vectorQueue i false
  else
    let q : Queued VecWork := { work := w, pc := p.pc }
    s.setProg k (some { p with vecQ := p.vecQ ++ [q] }.advance)

/-- A VALU instruction; VBCAST reads s[VA] at issue. -/
def valuOp (s : State) (c : CoreRef) (g : Pred) (i : Instr) (op : VOp) (f : ValuFields) : Out :=
  issue s c g i (fun _ _ => !valuLegal op f)
    (fun s k p => vecIssue i (.alu op f (p.sreg f.va)) s k p)

/-- Alignment and range over every lane, then poison for loads, then the queue (R71, R465). The lanes of a
gather or scatter are known once the vector work before it is done. -/
def vmemEff (i : Instr) (op : VmOp) (f : VmemFields) (s : State) (k : Nat) (p : Prog) : State :=
  if p.vecQ.length ≥ 8 then waitOn s k p .vectorQueue i false
  else
    let s := drainVec s k
    match s.prog k, s.spadBase k with
    | some p, some b =>
      let base := offAddr (p.sreg f.a) f.off
      let x := p.sreg f.x
      let wide := op == .vld || op == .vst
      let lane := vmLane op base x (p.vreg f.x)
      let mis := if wide then base.toNat % 32 != 0 else (List.range 64).any (fun j => (lane j).toNat % 4 != 0)
      let out := if wide then !spadFits base 256 else (List.range 64).any (fun j => !spadFits (lane j) 4)
      let bad := !op.stores && (if wide then anyPoison s (b + base.toNat) 256
        else (List.range 64).any (fun j => anyPoison s (b + (lane j).toNat) 4))
      if mis then coreFault s k p .misaligned
      else if out then coreFault s k p .spadRange
      else if bad then coreFault s k p .poison
      else vecIssue i (.mem op f base x) s k p
    | _, _ => s

def vmemOp (s : State) (c : CoreRef) (g : Pred) (i : Instr) (op : VmOp) (f : VmemFields) : Out :=
  issue s c g i (fun _ _ => f.rsv != 0) (vmemEff i op f)

/-- R72: what a class VCVT instruction allows. -/
def cvtLegal (f : VcvtFields) : Bool :=
  f.rsv == 0 && f.rm != 3 &&
    match Fmt.ofCode f.sf, Fmt.ofCode f.df with
    | some sf, some df => cvtListed sf df
    | _, _ => false

def mxqLegal (f : VcvtFields) : Bool :=
  f.rsv == 0 && f.rm != 3 && f.sf == 0 && decide (5 ≤ f.df.toNat) && decide (f.df.toNat ≤ 8)

def execVadd (c : CoreRef) (g : Pred) (f : ValuFields) (s : State) : Out := valuOp s c g (.vadd c g f) .add f
def execVsub (c : CoreRef) (g : Pred) (f : ValuFields) (s : State) : Out := valuOp s c g (.vsub c g f) .sub f
def execVmul (c : CoreRef) (g : Pred) (f : ValuFields) (s : State) : Out := valuOp s c g (.vmul c g f) .mul f
def execVfma (c : CoreRef) (g : Pred) (f : ValuFields) (s : State) : Out := valuOp s c g (.vfma c g f) .fma f
def execVmin (c : CoreRef) (g : Pred) (f : ValuFields) (s : State) : Out := valuOp s c g (.vmin c g f) .min f
def execVmax (c : CoreRef) (g : Pred) (f : ValuFields) (s : State) : Out := valuOp s c g (.vmax c g f) .max f
def execVdiv (c : CoreRef) (g : Pred) (f : ValuFields) (s : State) : Out := valuOp s c g (.vdiv c g f) .div f
def execVrcp (c : CoreRef) (g : Pred) (f : ValuFields) (s : State) : Out := valuOp s c g (.vrcp c g f) .rcp f
def execVrsqrt (c : CoreRef) (g : Pred) (f : ValuFields) (s : State) : Out :=
  valuOp s c g (.vrsqrt c g f) .rsqrt f
def execVexp2 (c : CoreRef) (g : Pred) (f : ValuFields) (s : State) : Out := valuOp s c g (.vexp2 c g f) .exp2 f
def execVlog2 (c : CoreRef) (g : Pred) (f : ValuFields) (s : State) : Out := valuOp s c g (.vlog2 c g f) .log2 f
def execVand (c : CoreRef) (g : Pred) (f : ValuFields) (s : State) : Out := valuOp s c g (.vand c g f) .and f
def execVor (c : CoreRef) (g : Pred) (f : ValuFields) (s : State) : Out := valuOp s c g (.vor c g f) .or f
def execVxor (c : CoreRef) (g : Pred) (f : ValuFields) (s : State) : Out := valuOp s c g (.vxor c g f) .xor f
def execVshl (c : CoreRef) (g : Pred) (f : ValuFields) (s : State) : Out := valuOp s c g (.vshl c g f) .shl f
def execVshr (c : CoreRef) (g : Pred) (f : ValuFields) (s : State) : Out := valuOp s c g (.vshr c g f) .shr f
def execVbcast (c : CoreRef) (g : Pred) (f : ValuFields) (s : State) : Out :=
  valuOp s c g (.vbcast c g f) .bcast f
def execVredsum (c : CoreRef) (g : Pred) (f : ValuFields) (s : State) : Out :=
  valuOp s c g (.vredsum c g f) .redsum f
def execVredmax (c : CoreRef) (g : Pred) (f : ValuFields) (s : State) : Out :=
  valuOp s c g (.vredmax c g f) .redmax f
def execVmov (c : CoreRef) (g : Pred) (f : ValuFields) (s : State) : Out := valuOp s c g (.vmov c g f) .mov f
def execVsel (c : CoreRef) (g : Pred) (f : ValuFields) (s : State) : Out := valuOp s c g (.vsel c g f) .sel f
def execVld (c : CoreRef) (g : Pred) (f : VmemFields) (s : State) : Out := vmemOp s c g (.vld c g f) .vld f
def execVst (c : CoreRef) (g : Pred) (f : VmemFields) (s : State) : Out := vmemOp s c g (.vst c g f) .vst f
def execVlds (c : CoreRef) (g : Pred) (f : VmemFields) (s : State) : Out := vmemOp s c g (.vlds c g f) .vlds f
def execVsts (c : CoreRef) (g : Pred) (f : VmemFields) (s : State) : Out := vmemOp s c g (.vsts c g f) .vsts f
def execVgath (c : CoreRef) (g : Pred) (f : VmemFields) (s : State) : Out := vmemOp s c g (.vgath c g f) .vgath f
def execVscat (c : CoreRef) (g : Pred) (f : VmemFields) (s : State) : Out := vmemOp s c g (.vscat c g f) .vscat f
def execVcvt (c : CoreRef) (g : Pred) (f : VcvtFields) (s : State) : Out :=
  issue s c g (.vcvt c g f) (fun _ _ => !cvtLegal f) (vecIssue (.vcvt c g f) (.cvt f))
def execVmxq (c : CoreRef) (g : Pred) (f : VcvtFields) (s : State) : Out :=
  issue s c g (.vmxq c g f) (fun _ _ => !mxqLegal f) (vecIssue (.vmxq c g f) (.mxq f))
def execVseed (c : CoreRef) (g : Pred) (f : VcvtFields) (s : State) : Out :=
  issue s c g (.vseed c g f) (fun _ _ => f.rsv != 0 || f.rm == 3) (vecIssue (.vseed c g f) (.seed f))
def execVseedr (c : CoreRef) (g : Pred) (f : VcvtFields) (s : State) : Out :=
  issue s c g (.vseedr c g f) (fun _ _ => f.rsv != 0 || f.rm == 3) (vecIssue (.vseedr c g f) (.seedr f))

end Sys2Proof.Machine
end

