-- ==== Sys2Proof/Machine/Xfer.lean ====
section
/-! DEFINITION. Transfer instructions: class XFER (R79), and the execution of the transfer queue. -/

namespace Sys2Proof.Machine

open Sys2Proof

/-- The key of DMA engine ENG of the cluster of core `k`. -/
def coreEngine (k : Nat) (eng : BitVec 2) : Nat := 4 * (k / 34) + eng.toNat

/-- Judge a CBMOV: alignment and length of at most 65,536 bytes, then the ranges, the source first (R79,
R465). -/
def cbmovFault (s : State) (p : Prog) (d a l : Word) : Option CoreCause :=
  if !aligned32 d || !aligned32 a || !lenOk l || decide (l.toNat > 65536) then some .misaligned
  else match fullRange s p a l.toNat with
    | some e => some e
    | none => fullRange s p d l.toNat

/-- Place work in the transfer queue, which holds 4; a full queue makes the instruction wait (R52). -/
def xferIssue (i : Instr) (w : XferWork) (s : State) (k : Nat) (p : Prog) : State :=
  if p.xferQ.length ≥ 4 then waitOn s k p .transferQueue i true
  else
    let q : Queued XferWork := { work := w, pc := p.pc }
    s.setProg k (some { p with xferQ := p.xferQ ++ [q] }.advance)

def cbmovEff (i : Instr) (f : XferFields) (s : State) (k : Nat) (p : Prog) : State :=
  match cbmovFault s p (p.sreg f.d) (p.sreg f.a) (p.sreg f.l) with
  | some e => coreFault s k p e
  | none => xferIssue i (.cbmov f (p.sreg f.d) (p.sreg f.a) (p.sreg f.l)) s k p

/-- DMASUB waits while its engine holds 256 descriptors (R87, R318). -/
def dmasubEff (i : Instr) (f : XferFields) (s : State) (k : Nat) (p : Prog) : State :=
  let a := p.sreg f.a
  if !aligned32 a then coreFault s k p .misaligned
  else if !spadFits a 64 then coreFault s k p .spadRange
  else if (s.engine (coreEngine k f.eng)).descs.length ≥ 256 then waitOn s k p (.engine f.eng) i true
  else xferIssue i (.dmasub f a) s k p

/-- The command, or the RUN, that submitted a descriptor. -/
def DmaFrom.cmd : DmaFrom → Nat × Nat
  | .command q n _ => (q, n)
  | .core _ q n => (q, n)

/-- The use to which a descriptor's accesses belong (R191). -/
def DmaDesc.use (d : DmaDesc) : Use := { ctx := d.ctx, stamp := d.stamp, epoch := d.epoch }

/-- An engine accepts a descriptor (R318). -/
def acceptDesc (s : State) (e : Nat) (raw : BitVec 512) (from_ : DmaFrom) (c : Nat) : State :=
  let u := useOfCmd s from_.cmd.1 from_.cmd.2
  let x : DmaDesc := { id := (s.engine e).next, raw := raw, from_ := from_, ctx := c, stamp := u.stamp, epoch := u.epoch, phase := .accepted, units := 0,
                       keyGen := 0, asked := 0, got := [], wasked := 0, wgot := 0, bad := none }
  s.setEngine e { s.engine e with descs := (s.engine e).descs ++ [x], next := (s.engine e).next + 1 }

/-- Execute the head of the transfer queue of core `k` (R80): a CBMOV copies, a DMASUB is accepted by its
engine once the engine has room. -/
def xferHead (s : State) (k : Nat) : State :=
  match s.prog k with
  | none => s
  | some p =>
    match p.xferQ with
    | [] => s
    | w :: t =>
      let p' := { p with xferQ := t }
      match w.work with
      | .cbmov f d a l =>
        match fullKey s k p a, fullKey s k p d with
        | some src, some dst =>
          if anyPoison s src l.toNat then coreFaultAt (s.setProg k (some { p with xferQ := [] })) k w.pc .poison
          else (store s dst (readBytes s src l.toNat)).setProg k (some (p'.post f.post f.evt))
        | _, _ => s
      | .dmasub f a =>
        match spadAt s k a with
        | none => s
        | some key =>
          if anyPoison s key 64 then coreFaultAt (s.setProg k (some { p with xferQ := [] })) k w.pc .poison
          else
            let e := coreEngine k f.eng
            if (s.engine e).descs.length ≥ 256 then s
            else
              (acceptDesc s e (BitVec.ofNat 512 (readNat s key 64)) (.core k p.q p.n) p.ctx).setProg k
                (some (p'.post f.post f.evt))

def execCbmov (c : CoreRef) (g : Pred) (f : XferFields) (s : State) : Out :=
  issue s c g (.cbmov c g f) (fun _ p => f.rsv != 0 || badSpace (p.sreg f.a) || badSpace (p.sreg f.d))
    (cbmovEff (.cbmov c g f) f)
def execDmasub (c : CoreRef) (g : Pred) (f : XferFields) (s : State) : Out :=
  issue s c g (.dmasub c g f) (fun _ _ => f.rsv != 0) (dmasubEff (.dmasub c g f) f)

end Sys2Proof.Machine
end

