-- ==== Sys2Proof/Machine/CoreEvents.lean ====
section
/-! DEFINITION. Events of a core: completion of asynchronous work (R80, R85, R86, R94), resumption of waiting
instructions (R87), the overdue yield (R88), pre-emption and saving (R89, R90, R336, R337), the quantum and the
hold limit (R332, R337).
Choices of the model here: log entry 10 (DESIGN CHOICE), log entry 17 (DEDUCED), log entry 18 (DEDUCED), log
entry 21 (DESIGN CHOICE). -/

namespace Sys2Proof.Machine

open Sys2Proof

/-! ### Completion of asynchronous work -/

/-- Take the first entry of a queue that satisfies `f`: the entry and the queue without it. -/
def takeFirst {α : Type} (f : α → Bool) : List α → Option (α × List α)
  | [] => none
  | x :: t =>
    if f x then some (x, t)
    else match takeFirst f t with
      | none => none
      | some (y, l) => some (y, x :: l)

/-- Whether the last byte of the SEND at the head of a core's stream queue has left the core (R80): all is handed over and no frame
of the tag waits at the interface. -/
def sendLeft (s : State) (k : Nat) (st : BitVec 4) (len sent : Nat) : Bool :=
  match s.coreRouter k with
  | none => false
  | some r => sent == len && (s.mesh.iface.get [] (tagKey r st.toNat)).isEmpty && (s.mesh.pend.get [] (tagKey r st.toNat)).isEmpty

/-- The SEND at the head of the stream queue completes, and the queue goes on (R51, R80). -/
def sendPost (s : State) (k : Nat) (st : BitVec 4) : State :=
  match s.prog k with
  | none => s
  | some p =>
    match p.strmQ with
    | ⟨.send f _ len sent, _⟩ :: t =>
      if f.st = st && sendLeft s k st len sent then
        runStream ((bumpCore s k).setProg k (some ({ p with strmQ := t }.post f.post f.evt))) k
      else s
    | _ => s

/-- The oldest posted buffer of a stream is full: its RECV completes (R80, R85). Credit goes out for buffers that a resumed program
has posted. -/
def recvPost (s0 : State) (k : Nat) (st : BitVec 4) : State :=
  let s := grantCredit (absorb s0 k st) k st
  match s.prog k with
  | none => s
  | some p =>
    match takeFirst (fun w => w.f.st == st) p.recvs with
    | none => s
    | some (w, rest) =>
      if w.filled = w.len then (bumpCore s k).setProg k (some ({ p with recvs := rest }.post w.f.post w.f.evt)) else s

/-- Record the first error of a stream (R94). -/
def Prog.noteErr (p : Prog) (st : BitVec 4) (e : Status) : Prog :=
  if p.errs.any (fun x => x.st == st) then p else { p with errs := p.errs ++ [{ st := st, status := e }] }

/-- Whether the bytes of a return fit its destination (R86). -/
def returnFits (s : State) (p : Prog) (dst : BitVec 32) (n : Nat) : Bool :=
  (fullRange s p (dst.zeroExtend 64) n).isNone

/-- Write a return for the program resident on core `k` (R86, R90). -/
def returnResident (s : State) (k : Nat) (p : Prog) (r : ReqOut) (bytes : List Byte) : State :=
  match fullKey s k p (r.dst.zeroExtend 64) with
  | none => s
  | some key => storeMarked s key bytes r.marks

/-- Write a return for a saved program: into the saved image below the live extent, with its poison marks, and
into the cluster buffer in place (R90). -/
def returnSaved (s : State) (sl : Nat) (v : Saved) (r : ReqOut) (bytes : List Byte) : State :=
  match spaceOf (r.dst.zeroExtend 64) with
  | some (.cb _) => returnResident s v.lc v.prog r bytes
  | some (.spad o) =>
    let live := 4096 * v.prog.live.toNat
    let d := saveSlot s sl v.slot
    let l := bytes.take (live - o)
    let s1 := store s (d + 65536 + o) l
    (List.range ((l.length + 31) / 32)).foldl (fun s i =>
      let g := o / 32 + i
      let b := readNat s (d + 25600 + g / 8) 1
      let on := if r.marks.getD i false then b ||| 2 ^ (g % 8) else if b.testBit (g % 8) then b - 2 ^ (g % 8) else b
      store s (d + 25600 + g / 8) (leBytes 1 on)) s1
  | none => s

/-- The program after its oldest request of a stream has returned: an error is recorded, the post is applied. -/
def Prog.returned (p : Prog) (r : ReqOut) (e : Option Status) (rest : List ReqOut) : Prog :=
  let p := { p with reqs := rest }
  let p := match e with
    | none => p
    | some x => p.noteErr r.st x
  p.post r.post r.evt

/-- The oldest request of stream `st` in a program and the rest, if its return is ready. -/
def readyReturn (p : Prog) (st : BitVec 4) : Option (ReqOut × List ReqOut × Status × List Byte) :=
  match takeFirst (fun r => r.st == st) p.reqs with
  | none => none
  | some (r, rest) =>
    match r.ret with
    | none => none
    | some (e, l) => some (r, rest, e, l)

/-- The error a return records: its status unless DONE, MALFORMED when it does not fit (R86, R94). -/
def returnErr (s : State) (p : Prog) (r : ReqOut) (e : Status) (l : List Byte) : Option Status :=
  if e != .done then some e else if returnFits s p r.dst l.length then none else some .malformed

/-- Free the yard entry of a request whose return is written. -/
def retireOf (s : State) (r : ReqOut) : State :=
  match r.at_ with
  | .yard y id => retireReq s y id
  | _ => s

/-- The oldest return of a request stream of core `k` is written, to a saved program first (R86, R90). -/
def reqPost (s : State) (k : Nat) (st : BitVec 4) : State :=
  let holds := fun (p : Prog) => p.reqs.any (fun r => r.st == st)
  let sl := s.clusterSail (k / 34)
  let saved : Option Saved := match sl with
    | none => none
    | some i => (s.sail i).saved.find? (fun v => v.lc == k && holds v.prog)
  match saved, sl with
  | some v, some i =>
    match readyReturn v.prog st with
    | none => s
    | some (r, rest, e, l) =>
      let err := returnErr s v.prog r e l
      let s1 := if err.isNone then returnSaved s i v r l else s
      let s2 := s1.updSail i (fun x => { x with saved := x.saved.map (fun (w : Saved) =>
        if w.lc == v.lc && w.slot == v.slot then { w with prog := w.prog.returned r err rest } else w) })
      settleSaved (retireOf s2 r) i v.prog.q v.prog.n
  | _, _ =>
    match s.prog k with
    | none => s
    | some p =>
      match readyReturn p st with
      | none => s
      | some (r, rest, e, l) =>
        let err := returnErr s p r e l
        let s1 := if err.isNone then returnResident s k p r l else s
        settle (retireOf ((bumpCore s1 k).setProg k (some (p.returned r err rest))) r) k

/-- A progress event when there is work in a queue of core `k` (R414). -/
def bumpWork (s : State) (k : Nat) (busy : Prog → Bool) : State :=
  match s.prog k with
  | none => s
  | some p => if busy p then bumpCore s k else s

/-- POST (R80): the oldest piece of work of a unit of a core completes. -/
def postState (c : CoreRef) (u : AsyncUnit) (s : State) : State :=
  let k := c.key
  match u with
  | .matrix => settle (matHead (bumpWork s k (fun p => !p.matQ.isEmpty)) k) k
  | .vector => settle (vecHead (bumpWork s k (fun p => !p.vecQ.isEmpty)) k) k
  | .transfer => xferHead (bumpWork s k (fun p => !p.xferQ.isEmpty)) k
  | .send st => sendPost s k st
  | .recv st => recvPost s k st
  | .req st => reqPost s k st

def execPost (c : CoreRef) (u : AsyncUnit) (s : State) : Out :=
  unitCmd s (postState c u)

/-! ### Waiting instructions -/

/-- Execute a waiting instruction of a core again (R87). -/
def reissue (i : Instr) (s : State) : Out :=
  match i with
  | .add c g f => execAdd c g f s
  | .sub c g f => execSub c g f s
  | .mul c g f => execMul c g f s
  | .mulhu c g f => execMulhu c g f s
  | .divu c g f => execDivu c g f s
  | .remu c g f => execRemu c g f s
  | .and c g f => execAnd c g f s
  | .or c g f => execOr c g f s
  | .xor c g f => execXor c g f s
  | .sll c g f => execSll c g f s
  | .srl c g f => execSrl c g f s
  | .sra c g f => execSra c g f s
  | .min c g f => execMin c g f s
  | .max c g f => execMax c g f s
  | .minu c g f => execMinu c g f s
  | .maxu c g f => execMaxu c g f s
  | .ceq c g f => execCeq c g f s
  | .cne c g f => execCne c g f s
  | .clt c g f => execClt c g f s
  | .cltu c g f => execCltu c g f s
  | .cge c g f => execCge c g f s
  | .cgeu c g f => execCgeu c g f s
  | .pand c g f => execPand c g f s
  | .por c g f => execPor c g f s
  | .pnot c g f => execPnot c g f s
  | .li c g f => execLi c g f s
  | .lih c g f => execLih c g f s
  | .nop c g f => execNop c g f s
  | .br c g f => execBr c g f s
  | .brr c g f => execBrr c g f s
  | .call c g f => execCall c g f s
  | .ret c g f => execRet c g f s
  | .loop c g f => execLoop c g f s
  | .yield c g f => execYield c g f s
  | .halt c g f => execHalt c g f s
  | .ld8u c g f => execLd8u c g f s
  | .ld16u c g f => execLd16u c g f s
  | .ld32u c g f => execLd32u c g f s
  | .ld64 c g f => execLd64 c g f s
  | .ld8s c g f => execLd8s c g f s
  | .ld16s c g f => execLd16s c g f s
  | .ld32s c g f => execLd32s c g f s
  | .st8 c g f => execSt8 c g f s
  | .st16 c g f => execSt16 c g f s
  | .st32 c g f => execSt32 c g f s
  | .st64 c g f => execSt64 c g f s
  | .vadd c g f => execVadd c g f s
  | .vsub c g f => execVsub c g f s
  | .vmul c g f => execVmul c g f s
  | .vfma c g f => execVfma c g f s
  | .vmin c g f => execVmin c g f s
  | .vmax c g f => execVmax c g f s
  | .vdiv c g f => execVdiv c g f s
  | .vrcp c g f => execVrcp c g f s
  | .vrsqrt c g f => execVrsqrt c g f s
  | .vexp2 c g f => execVexp2 c g f s
  | .vlog2 c g f => execVlog2 c g f s
  | .vand c g f => execVand c g f s
  | .vor c g f => execVor c g f s
  | .vxor c g f => execVxor c g f s
  | .vshl c g f => execVshl c g f s
  | .vshr c g f => execVshr c g f s
  | .vbcast c g f => execVbcast c g f s
  | .vredsum c g f => execVredsum c g f s
  | .vredmax c g f => execVredmax c g f s
  | .vmov c g f => execVmov c g f s
  | .vsel c g f => execVsel c g f s
  | .vld c g f => execVld c g f s
  | .vst c g f => execVst c g f s
  | .vlds c g f => execVlds c g f s
  | .vsts c g f => execVsts c g f s
  | .vgath c g f => execVgath c g f s
  | .vscat c g f => execVscat c g f s
  | .vcvt c g f => execVcvt c g f s
  | .vmxq c g f => execVmxq c g f s
  | .vseed c g f => execVseed c g f s
  | .vseedr c g f => execVseedr c g f s
  | .mma c g f => execMma c g f s
  | .mzero c g f => execMzero c g f s
  | .mld c g f => execMld c g f s
  | .mst c g f => execMst c g f s
  | .send c g f => execSend c g f s
  | .recv c g f => execRecv c g f s
  | .req c g f => execReq c g f s
  | .sstat c g f => execSstat c g f s
  | .cbmov c g f => execCbmov c g f s
  | .dmasub c g f => execDmasub c g f s
  | .fence c g f => execFence c g f s
  | .waite c g f => execWaite c g f s
  | .sete c g f => execSete c g f s
  | .adde c g f => execAdde c g f s
  | .semacq c g f => execSemacq c g f s
  | .semtry c g f => execSemtry c g f s
  | .semrel c g f => execSemrel c g f s
  | .csrr c g f => execCsrr c g f s
  | .csrw c g f => execCsrw c g f s
  | .flagr c g f => execFlagr c g f s
  | .flagc c g f => execFlagc c g f s
  | .time c g f => execTime c g f s
  | _ => .next s

/-- The state an outcome leaves; every meaning of a core instruction answers a next state. -/
def outState (s : State) (o : Out) : State :=
  match o with
  | .next t => t
  | _ => s

/-- Whether the pre-emption of a program is deferred (R337): its context holds a semaphore, and the time since
the request is below the smallest hold limit. -/
def isDeferred (s : State) (c : Nat) (since : Word) : Bool :=
  match holdLimit s c with
  | none => false
  | some m => decide ((s.time - since).toNat < m)

/-- WAITING_INSTRUCTION (R52, R87): a waiting instruction tries again. A waiting acquire goes on once it has been
granted; at a yield point with a request pending the core has stopped issue (R89). -/
def waitingState (c : CoreRef) (s : State) : State :=
  let k := c.key
  match s.prog k with
  | none => s
  | some p =>
    match p.waiting with
    | none => s
    | some w =>
      let held := match (s.core k).preempt with
        | none => false
        | some t => w.why.isYield && !isDeferred s p.ctx t
      if (s.core k).saving || held then s
      else match w.why with
        | .granted => s.setProg k (some p.advance)
        | .sem _ _ => s
        | _ =>
          let s' := s.setProg k (some { p with waiting := none })
          outState s' (reissue w.i s')

def execWaitingInstruction (c : CoreRef) (s : State) : Out := unitCmd s (waitingState c)

/-! ### Yield points -/


/-- YIELD_OVERDUE (R88): 32,768 cycles have passed without a yield point. -/
def yieldOverdueState (c : CoreRef) (s : State) : State :=
  match s.prog c.key with
  | none => s
  | some p =>
    if p.yieldCount < 32768 || p.stopped || atYieldPoint s c.key p || (s.core c.key).saving then s
    else coreFault s c.key p .yieldOverdue

def execYieldOverdue (c : CoreRef) (s : State) : Out := unitCmd s (yieldOverdueState c)

/-- Steps 1 to 3 of R89 on core `k`: a waiting instruction is abandoned, an acquire already granted has taken
effect; the matrix and vector queues complete; a fault among them wins (R91), and the core may by then hold another program,
which nobody has asked to leave. -/
def beginSave (s : State) (k : Nat) (p : Prog) : State :=
  let p' := match p.waiting with
    | none => { p with atYield := false }
    | some w => if w.why == .granted then p.advance else { p with waiting := none, atYield := false }
  let s := regrant (dropWaiters (s.setProg k (some p')) k)
  let s := drainVec (drainMat s k) k
  match s.prog k with
  | none => s
  | some g =>
    if (s.core k).preempt.isNone then s
    else if g.stopped then settle s k
    else s.setCore k { s.core k with saving := true }

/-- PREEMPT_AT_YIELD_POINT (R89, R337): a pending request takes effect at a yield point unless it is deferred. -/
def preemptState (c : CoreRef) (s : State) : State :=
  let k := c.key
  match s.prog k, (s.core k).preempt with
  | some p, some t =>
    if p.stopped || (s.core k).saving || !atYieldPoint s k p then s
    else if isDeferred s p.ctx t then
      (s.updCtx p.ctx (fun x => { x with deferredAt := some t })).setProg k (some { p with atYield := false })
    else beginSave (s.updCtx p.ctx (fun x => { x with deferredAt := none })) k p
  | _, _ => s

def execPreemptAtYieldPoint (c : CoreRef) (s : State) : Out := unitCmd s (preemptState c)

/-- The last core of a pre-empted command has been saved: the counters of R333, and the command waits. -/
def preempted (s : State) (p : Prog) : State :=
  if cmdOnCore s p.q p.n then s
  else
    let s := s.updCtx p.ctx (fun x => { x with preempts := x.preempts + 1, deferredAt := none })
    let s := s.updQueue p.q (fun x => { x with preempts := x.preempts + 1 })
    s.updCmd p.q p.n (fun c => { c with readyAt := s.time })

/-- CONTEXT_SAVE_COMPLETE (R89, R333, R336): the image stands in the lowest free slot of the save area, and the
core is free. -/
def saveState (c : CoreRef) (s : State) : State :=
  let k := c.key
  match s.prog k, s.clusterSail c.cluster with
  | some p, some sl =>
    if !(s.core k).saving then s
    else
      let i := freeSaveSlot s sl
      let s := writeImage s sl k i p
      let v : Saved := { lc := k, slot := i, readyAt := s.time, prog := p }
      let s := clearCore s k
      let s := s.updSail sl (fun x => { x with saved := x.saved ++ [v] })
      schedule (preempted s p) sl
  | _, _ => s

def execContextSaveComplete (c : CoreRef) (s : State) : Out := unitCmd s (saveState c)

/-! ### Quantum and hold limit -/

/-- QUANTUM_EXPIRY (R332): the scheduler of the sail looks again. -/
def execQuantumExpiry (c : CoreRef) (s : State) : Out :=
  unitCmd s (fun s => match s.clusterSail c.cluster with
    | none => s
    | some sl => schedule s sl)

/-- The time of the pre-emption request pending for a context, if any. -/
def requestOf (s : State) (c : Nat) : Option Word :=
  s.cores.findSome? (fun x => match x.2.prog with
    | some p => if p.ctx == c then x.2.preempt else none
    | none => none)

/-- HOLD_LIMIT_EXPIRY (R337): when the time since the request has reached the smallest hold limit, every hold of
the context is revoked. -/
def holdLimitState (c : Nat) (s : State) : State :=
  match requestOf s c with
  | none => s
  | some t =>
    if (s.ctx c).holds.isEmpty || isDeferred s c t then s
    else releaseHolds (s.updCtx c (fun x => { x with semRev := true, deferredAt := none })) c

def execHoldLimitExpiry (c : Nat) (s : State) : Out := unitCmd s (holdLimitState c)

end Sys2Proof.Machine
end

