-- ==== Sys2Proof/Machine/Migrate.lean ====
section
/-! DEFINITION. Migration of pages (R199, R200), advice (R201) and order-hinted prefetch (R202 to R204).
Choices of the model here: log entry 25 (DEDUCED), log entry 26 (DESIGN CHOICE), log entry 28 (DEDUCED), log
entry 61 (DESIGN CHOICE). -/

namespace Sys2Proof.Machine

open Sys2Proof

/-! ### The running of a migration (R199) -/

/-- The range of a context with a VSTART in an epoch (R193). -/
def rangeFor (x : Ctx) (epoch : Word) (vstart : Nat) : Option RangeE :=
  match x.past.find? (fun t => t.old.vstart == vstart && decide (epoch.toNat < t.mseq.toNat)) with
  | some t => some t.old
  | none => x.ranges.find? (fun e => e.vstart == vstart)

def Migration.isFor (m : Migration) (vstart page : Nat) : Bool := m.range.vstart == vstart && m.page == page

def setMig (s : State) (c vstart page : Nat) (f : Migration → Migration) : State :=
  s.updCtx c (fun x => { x with migs := x.migs.map (fun m => if m.isFor vstart page then f m else m) })

def dropMig (s : State) (c vstart page : Nat) : State :=
  s.updCtx c (fun x => { x with migs := x.migs.filter (fun m => !m.isFor vstart page) })

/-- The memory key of a pool page; a PPAGE outside the pool has none (R198). -/
def poolKey (s : State) (u : Use) (pp : Nat) : Option Nat :=
  match (s.ctx u.ctx).poolAt u.epoch with
  | none => none
  | some e => if pp < (s.ctx u.ctx).pagesAt u.epoch then memKey s ((e.target + 65536 * pp) % 2 ^ 48) else none

/-- Where page `p` of a MIG range lies in its target: a memory key, or a node and address. -/
inductive PageAt where
  | key (k : Nat)
  | node (n a : Nat)
  | gone

def pageAt (s : State) (e : RangeE) (p : Nat) : PageAt :=
  match globalLoc s (e.target + 65536 * p) e with
  | .loc k _ => .key k
  | .remote n a _ => .node n a
  | _ => .gone

/-- Issue remote pieces of 4,096 bytes until `last` have been issued or no tag is free (R230, R234): pieces below
16 write the page back when it is written back, the others read. -/
def migPieces (s : State) (c : Nat) (m : Migration) (write : Bool) (base pool node a : Nat) : Nat → State × Nat × Option Status
  | 0 => (s, m.asked, none)
  | fuel + 1 =>
    if m.asked ≥ base + 16 then (s, m.asked, none)
    else
      let i := m.asked - base
      let l := if write then readBytes s (pool + 4096 * i) 4096 else []
      let stale := write && staleAt s ((s.ctxSail c).getD 64) m.keyGen pool
      let s := if stale then noteStaleRead s (pool + 4096 * i) 4096 else s
      let bad := if stale then List.replicate 128 true else if write then unitMarks s (pool + 4096 * i) 4096 else []
      match issueAccess s write ((s.ctxSail c).getD 64) c node (a + 4096 * i) 4096 l bad
          (.migration c m.range.vstart m.page m.asked) with
      | .sent s' _ => migPieces s' c { m with asked := m.asked + 1 } write base pool node a fuel
      | .stall => (s, m.asked, none)
      | .fail st => (s, m.asked, some st)

/-- Issue the pieces of one direction and keep the count. -/
def migIssue (s : State) (c : Nat) (m : Migration) (write : Bool) (base pool node a : Nat) : State :=
  let r := migPieces s c m write base pool node a 17
  setMig r.1 c m.range.vstart m.page (fun x => { x with asked := r.2.1, failed := match x.failed with
    | some e => some e
    | none => r.2.2 })

/-- The page that gives way to a migration: the page itself for a write-back alone, else the holder of the pool
page. -/
def givesWay (s : State) (c : Nat) (m : Migration) : Option (RangeE × Nat × Nat) :=
  let u := migUse s c m
  if m.evict then some (m.range, m.page, pageEntry s u m.range m.page)
  else poolHolder s u m.poolPage

/-- The lines of the table cache that hold a pool page go when the page gets other contents (R105). -/
def freshPool (s : State) (pool : Nat) : State := dropSpan s pool 65536

/-- Steps 2 and 3 of R199: a page with RES gives way; a dirty one is written back. -/
def migBegin (s : State) (c : Nat) (m : Migration) : State :=
  let u := migUse s c m
  let sl := (s.ctxSail c).getD 64
  let rd := if m.evict then 0 else match pageAt s m.range m.page with
    | .node _ _ => 16
    | _ => 0
  let start := fun (s : State) (wb : Nat) (v : Option (Nat × Nat)) =>
    setMig s c m.range.vstart m.page (fun x => { x with begun := true, wb := wb, rd := rd, victim := v })
  match givesWay s c m, poolKey s u m.poolPage with
  | some (o, p, ent), some pool =>
    if ent % 2 = 0 then start s 0 none
    else
      let s1 := freshPool (setPageEntry s u o p 0) pool
      if ent / 2 % 2 = 0 then start s1 0 none
      else match pageAt s o p with
        | .key k => start (copyPage s1 sl m.keyGen pool k) 0 none
        | .node _ _ => start s1 16 (if m.evict then none else some (o.vstart, p))
        | .gone => start s1 0 none
  | _, _ => start s 0 none

/-- Step 5: the page is resident. -/
def migFinish (s : State) (c : Nat) (m : Migration) : State :=
  let s := dropMig s c m.range.vstart m.page
  if m.evict then s
  else
    let s := setPageEntry s (migUse s c m) m.range m.page (1 + (if m.pin then 4 else 0) + 256 * m.poolPage)
    s.updCtx c (fun x => { x with migrations := min (x.migrations + 1) 0xFFFFFFFF })

/-! ### Accesses held on a page that does not come (R199) -/

/-- End the yard requests of a context that are held on the page at `lo`. -/
def failYardHeld (s : State) (c lo : Nat) (st : Status) : State :=
  s.yards.foldl (fun s p =>
    (p.2.reqs.filter (fun r => r.ctx == c)).foldl (fun s r =>
      let h := reqHdr r.record
      let onDesc := spanHits lo (descVa (s.ctx c) h.table) 64
      let t := tableOf r.desc
      match r.phase with
      | .engine e =>
        let rows := r.rows.any (fun x => !x.arrived && x.data.isEmpty &&
          (readSpans t x).any (fun y => spanHits lo y.1 y.2.1))
        if h.yop == 0x11 then
          let u := reqUse s c r.q r.n
          let hit := match readDesc s u h.table with
            | .ok l =>
              let t := tableOf l
              match nameOf t h.raw h.idw32 (updateId h r.record) with
              | .row k => spanHits lo (t.rowVa k) t.rowBytes || spanHits lo (t.stateVa k) (stateBytes h.pool t)
              | _ => false
            | _ => false
          if onDesc || hit then failRequest (noteXlt s c lo st .read) p.1 r.id st else s
        else if (r.desc.isEmpty && onDesc) || rows then endLookup (noteXlt s c lo st .read) p.1 e r.id st [] else s
      | _ => s) s) s

/-- End the DMA descriptors of a context that are held on a page. -/
def failDmaHeld (s : State) (c lo : Nat) (st : Status) : State :=
  { s with dma := s.dma.map (fun p => (p.1, { p.2 with descs := p.2.descs.map (fun d =>
      if d.ctx == c && d.phase == .running && d.spans.any (fun x => spanHits lo x.1 x.2) then
        { d with phase := .ended st }
      else d) })) }

/-- End the fetches and the commands of a context that are held on a page. -/
def failCoreHeld (s : State) (c lo : Nat) (st : Status) : State :=
  let s := s.cores.foldl (fun s x =>
    match s.prog x.1 with
    | none => s
    | some p =>
      let held := match p.waiting with
        | some w => w.why == .page
        | none => false
      if p.ctx == c && held && spanHits lo p.pc.toNat 8 then
        coreFault (noteXlt s c p.pc.toNat st .fetch) x.1 p (.fetch st)
      else s) s
  (ctxCmds s c).foldl (fun s k =>
    let names := match k.2.opcode with
      | 0x14 => spanHits lo (bytesOf k.2.raw 8 15) (bytesOf k.2.raw 16 23)
      | 0x15 => spanHits lo (bytesOf k.2.raw 8 15) (bytesOf k.2.raw 16 23)
      | 0x18 => spanHits lo (bytesOf k.2.raw 32 39) (8 * bytesOf k.2.raw 24 27)
      | _ => false
    if k.2.phase == .started && names then complete s k.1 k.2.n st else s) s

/-- A migration fails: the page stays non-resident, and every access held on it completes with `st` (R199). A page
whose write-back failed stays where it was. -/
def migFail (s : State) (c : Nat) (m : Migration) (st : Status) : State :=
  let e := m.range
  let u := migUse s c m
  let back := fun (s : State) (o : RangeE) (p : Nat) => setPageEntry s u o p (3 + 256 * m.poolPage)
  let s := if m.got < m.wb then
      (if m.evict then back s e m.page
       else match m.victim with
        | some (v, p) => match rangeFor (s.ctx c) m.epoch v with
          | some o => back s o p
          | none => s
        | none => s)
    else s
  let s := dropMig s c m.range.vstart m.page
  let lo := e.vstart + 65536 * m.page
  failCoreHeld (failDmaHeld (failYardHeld s c lo st) c lo st) c lo st

/-- The status of a remote failure as held accesses see it (R199). -/
def heldStatus (st : Status) : Status :=
  match st with
  | .remoteTimeout => .remoteTimeout
  | _ => .remoteUnreachable

/-- The pieces that a migration that has begun still issues, and its end. -/
def migAdvance (s : State) (c : Nat) (m : Migration) : State :=
  let sl := (s.ctxSail c).getD 64
  match m.failed with
  | some st => migFail s c m (heldStatus st)
  | none =>
    match poolKey s (migUse s c m) m.poolPage with
    | none => migFail s c m .faultTranslation
    | some pool =>
      if m.asked < m.wb then
        let v := m.victim.getD (m.range.vstart, m.page)
        match if m.victim.isNone then some m.range else rangeFor (s.ctx c) m.epoch v.1 with
        | none => dropMig s c m.range.vstart m.page
        | some o => match pageAt s o v.2 with
          | .node n a => migIssue s c m true 0 pool n a
          | _ => migFail s c m .remoteUnreachable
      else if m.got < m.wb then s
      else if m.evict then migFinish s c m
      else match pageAt s m.range m.page with
        | .gone => migFail s c m .faultTranslation
        | .key k => migFinish (spendFrom m.at_ (spendFrom m.at_ (copyPage (freshPool s pool) sl m.keyGen k pool) sl 1 k 65536 false) sl 1 pool 65536 true) c m
        | .node n a =>
          if m.got ≥ m.wb + 16 then migFinish (freshPool s pool) c m else migIssue s c m false m.wb pool n a

/-- MIGRATION_COMPLETE (R199): the migration of a page advances as far as it can, and ends when nothing of it is
outstanding. -/
def migrationState (c vstart page : Nat) (s : State) : State :=
  match (s.ctx c).migs.find? (fun m => m.isFor vstart page) with
  | none => dropLate s (.migration c vstart page)
  | some m =>
    let s := if m.begun then s else migBegin s c m
    match (s.ctx c).migs.find? (fun m => m.isFor vstart page) with
    | none => s
    | some m => migAdvance s c m

def execMigrationComplete (c vstart page : Nat) (s : State) : Out := unitCmd s (migrationState c vstart page)

/-! ### Access timers (R199) -/

/-- The event that an access that expires now raises at its channel or port: GDDR7 channels and CXL ports have timers, at their defaults of
10 µs and 20 µs (log entry 26). `asked` is when the timer started. -/
def timerEvent (s : State) (key : Nat) (asked : Word) (sl : Option Nat) : Option State :=
  let ifPast := fun (limit : Nat) (t : State) => if (s.time - asked).toNat < limit then none else some t
  match regionOf key with
  | some (.gddr c) => ifPast 10000 (logUnit s 2 0 10 c 0x08 sl none key)
  | some (.far g) => ifPast 20000 (logUnit s 2 0 8 (g / 2048) 0x08 sl none key)
  | _ => none

/-- An expired access's response is dropped when it comes. -/
def expectLate (s : State) (a : AccessRef) : State := { s with tiers := { s.tiers with late := s.tiers.late ++ [a] } }

/-- ACCESS_TIMER_EXPIRY: the access completes as poisoned. -/
def timerState (a : AccessRef) (s : State) : State :=
  match a with
  | .row y e k =>
    match openRow s y e k with
    | none => s
    | some (r, x) =>
      match locate s (reqUse s r.ctx r.q r.n) x.va .read with
      | .loc key _ =>
        match timerEvent s key x.asked (some r.sail) with
        | none => s
        | some s1 =>
          let r' := setRow r k { x with arrived := true, poison := true }
          advanceLookup ((expectLate s1 a).updReq y r.id (fun _ => r')) y e r'
      | _ => s
  | .migration c vstart page =>
    match (s.ctx c).migs.find? (fun m => m.isFor vstart page) with
    | some m =>
      match pageAt s m.range page with
      | .key k =>
        match timerEvent s k m.at_ (s.ctxSail c) with
        | none => s
        | some s1 => migFail (expectLate s1 a) c m .faultPoison
      | _ => s
    | none => s

def execAccessTimerExpiry (a : AccessRef) (s : State) : Out := unitCmd s (timerState a)

/-! ### MEM_PREFETCH and MEM_ADVISE (R201) -/

/-- What bringing one page comes to. -/
inductive Bring where
  | resident | queued | blocked | skipped
deriving DecidableEq, Repr

/-- Bring page `p` of a MIG range into the pool: one that no victim can be found for is left in the far tier. -/
def bringPage (s : State) (c : Nat) (e : RangeE) (pin : Bool) (p : Nat) : State × Bring :=
  let x := s.ctx c
  let u := useNow s c
  let ent := pageEntry s (useNow s c) e p
  if ent % 2 = 1 then
    (if pin then setPageEntry s (useNow s c) e p (ent ||| 4) else s, .resident)
  else if e.direct then (s, .skipped)
  else if pageBusy x e.vstart p then
    (if pin then setMig s c e.vstart p (fun m => { m with pin := true }) else s, .queued)
  else if sailMigs s c ≥ 16 then (s, .blocked)
  else
    let r := sweep s u (2 * x.poolPages) x.hand
    match r.2 with
    | none => (r.1, .skipped)
    | some pp => (addMig r.1 u e p pp pin false, .queued)

def bringPages (s : State) (c : Nat) (e : RangeE) (pin : Bool) (l : List Nat) : State × List Bring :=
  l.foldl (fun a p =>
    let r := bringPage a.1 c e pin p
    (r.1, a.2 ++ [r.2])) (s, [])

/-- The MIG range and the pages that a span names, or the status of a command that names no such span. -/
def adviceSpan (s : State) (u : Use) (k : CmdRec) : Except Status (RangeE × List Nat) :=
  let a := bytesOf k.raw 8 15
  let n := bytesOf k.raw 16 23
  match mappingFor (s.ctx u.ctx) u a with
  | .error st => .error st
  | .ok e => if !e.mig || decide (a + n > e.vend) then .error .malformed else .ok (e, unitsOf (a - e.vstart) n 65536)

/-- Pages whose PIN is set among the resident pages of a context. -/
def pinnedPages (s : State) (c : Nat) : List (Nat × Nat) :=
  ((s.ctx c).ranges.filter (fun e => e.mig)).flatMap (fun e =>
    ((List.range (4096 * e.pages / 65536)).filter (fun p =>
      let ent := pageEntry s (useNow s c) e p
      (ent % 2 = 1 && ent / 4 % 2 = 1) || (s.ctx c).migs.any (fun m => m.isFor e.vstart p && m.pin))).map
        (fun p => (e.vstart, p)))

/-- Release one page (DONTNEED): it is unpinned, written back when dirty, and RES is cleared. The answer says
whether nothing of it is left to do. -/
def releasePage (s : State) (c : Nat) (e : RangeE) (p : Nat) : State × Bool :=
  let u := useNow s c
  let ent := pageEntry s u e p
  if pageBusy (s.ctx c) e.vstart p then (s, false)
  else if ent % 2 = 0 then (s, true)
  else if ent / 2 % 2 = 0 then (setPageEntry s u e p 0, true)
  else match pageAt s e p with
    | .node _ _ =>
      if sailMigs s c ≥ 16 then (s, false)
      else (addMig s u e p (ent / 256 % 2 ^ 24) false true, false)
    | .key k =>
      match poolKey s u (ent / 256 % 2 ^ 24) with
      | some pool => (setPageEntry (copySpan s pool k 1024) u e p 0, true)
      | none => (setPageEntry s u e p 0, true)
    | .gone => (setPageEntry s u e p 0, true)

def releasePages (s : State) (c : Nat) (e : RangeE) (l : List Nat) : State × Bool :=
  l.foldl (fun a p =>
    let r := releasePage a.1 c e p
    (r.1, a.2 && r.2)) (s, true)

/-- Whether a resident page of the list names a PPAGE outside the pool (R198). -/
def badPages (s : State) (c : Nat) (e : RangeE) (l : List Nat) : Bool :=
  l.any (fun p =>
    let ent := pageEntry s (useNow s c) e p
    ent % 2 = 1 && decide ((s.ctx c).poolPages ≤ ent / 256 % 2 ^ 24))

/-- A context's range table with one range changed. -/
def mapRange (l : List RangeE) (vstart : Nat) (f : RangeE → RangeE) : List RangeE :=
  l.map (fun e => if e.vstart == vstart then f e else e)

/-- MEM_PREFETCH: complete once every page is resident, or with ASYNC once every migration is queued. -/
def prefetchCmd (s : State) (q n : Nat) (k : CmdRec) (async : Bool) : State :=
  let s0 := startXlat s q n
  let c := s.queueCtx q
  match adviceSpan s0 (useOfCmd s0 q n) k with
  | .error st => complete s0 q n st
  | .ok (e, l) =>
    let r := bringPages s0 c e false l
    let wait := fun (b : Bring) => b == .blocked || (b == .queued && !async)
    if r.2.any wait then r.1 else complete r.1 q n .done

def memPrefetchState (q n : Nat) (s : State) : State :=
  match startedAs s q n 0x14 with
  | none => s
  | some k => prefetchCmd s q n k (bytesOf k.raw 24 24 % 2 == 1)

def execMemPrefetch (q n : Nat) (s : State) : Out := unitCmd s (memPrefetchState q n)

/-- End an advice that changed RES or DIRECT: under the drain rule of R192, once no other drain runs; the lines of the pool go in its
step 5. -/
def adviceDrain (s : State) (c q n : Nat) (table : List RangeE) : State :=
  if (s.ctx c).drain.isSome then s
  else invalidate s c q n [] table [] (((s.ctx c).poolRange.map (fun o => (o.lpa, o.bytes))).toList)

/-- The advice of KIND 1 to 5 on the pages of a range. -/
def adviceOn (s : State) (c q n kind : Nat) (e : RangeE) (l : List Nat) : State :=
  let table := (s.ctx c).ranges
  let u := useNow s c
  match kind with
  | 1 =>
    let r := releasePages s c e l
    if badPages s c e l then complete s q n .faultTranslation
    else if r.2 then adviceDrain r.1 c q n table else r.1
  | 2 =>
    let pinned := pinnedPages s c
    let more := l.filter (fun p => !pinned.contains (e.vstart, p))
    if decide ((s.ctx c).poolPages < pinned.length + more.length + 16) then complete s q n .malformed
    else
      let r := bringPages s c e true l
      if r.2.all (fun b => b == .resident || b == .skipped) then adviceDrain r.1 c q n table else r.1
  | 3 =>
    let s := l.foldl (fun s p =>
      let ent := pageEntry s u e p
      let s := setMig s c e.vstart p (fun m => { m with pin := false })
      if ent / 4 % 2 = 1 then setPageEntry s u e p (ent - 4) else s) s
    complete s q n .done
  | 4 =>
    let all := List.range (4096 * e.pages / 65536)
    let r := releasePages s c e all
    if badPages s c e all then complete s q n .faultTranslation
    else if r.2 then adviceDrain r.1 c q n (mapRange table e.vstart (fun e => { e with direct := true })) else r.1
  | _ => adviceDrain s c q n (mapRange table e.vstart (fun e => { e with direct := false }))

def memAdviseState (q n : Nat) (s : State) : State :=
  match startedAs s q n 0x15 with
  | none => s
  | some k =>
    let kind := bytesOf k.raw 24 24
    if kind > 5 then complete s q n .malformed
    else if kind = 0 then prefetchCmd s q n k true
    else
      let s0 := startXlat s q n
      match adviceSpan s0 (useOfCmd s0 q n) k with
      | .error st => complete s0 q n st
      | .ok (e, l) => adviceOn s0 (s.queueCtx q) q n kind e l

def execMemAdvise (q n : Nat) (s : State) : Out := unitCmd s (memAdviseState q n)

/-! ### Order slots (R202 to R204) -/

/-- Order slots of a sail in a yard. -/
def orderQuota (s : State) (y sl : Nat) : Nat :=
  match s.unitRig (yardUnit y) with
  | none => 0
  | some r => r.quotas.get 0 (64 * (24 + y) + sl)

/-- A parsed order descriptor as a fresh slot. -/
def orderOf (l : List Byte) (sl c : Nat) : OrderSlot :=
  let f := recField l
  { OrderSlot.empty with
    sail := sl, ctx := c, table := f 0 11 0, idw32 := f 0 12 12 == 1, raw := f 0 13 13 == 1, log2 := f 0 21 16,
    lead := f 0 63 32, buf := f 1 55 0, prod := f 2 55 0 }

/-- The limits of R202. -/
def orderOk (l : List Byte) : Bool :=
  let f := recField l
  let o := orderOf l 0 0
  f 0 15 14 == 0 && f 0 31 22 == 0 && f 1 63 56 == 0 && f 2 63 56 == 0 && (List.range 5).all (fun i => f (3 + i) 63 0 == 0) &&
  decide (12 ≤ o.log2) && decide (o.log2 ≤ 40) && decide (64 ≤ o.lead) && decide (o.lead ≤ 65536) &&
  o.buf % 2 ^ o.log2 == 0

def setOrder (s : State) (y key : Nat) (o : OrderSlot) : State :=
  s.updYard y (fun x => { x with orders := x.orders.set OrderSlot.empty key o })

def orderSetState (q n : Nat) (s : State) : State :=
  match startedAs s q n 0x16, s.ctxSail (s.queueCtx q) with
  | some k, some sl =>
    let y := bytesOf k.raw 16 16
    let i := bytesOf k.raw 17 17
    if y ≥ 16 || i ≥ min 32 (orderQuota s y sl) then complete s q n .malformed
    else match busRead s q (bytesOf k.raw 8 15) 64 with
      | none => complete s q n .faultTranslation
      | some l =>
        if orderOk l then complete (setOrder s y (32 * sl + i) (orderOf l sl (s.queueCtx q))) q n .done
        else complete s q n .malformed
  | _, _ => s

def orderClearState (q n : Nat) (s : State) : State :=
  match startedAs s q n 0x17, s.ctxSail (s.queueCtx q) with
  | some k, some sl =>
    let y := bytesOf k.raw 16 16
    let i := bytesOf k.raw 17 17
    if y ≥ 16 || i ≥ min 32 (orderQuota s y sl) then complete s q n .malformed
    else complete (setOrder s y (32 * sl + i) OrderSlot.empty) q n .done
  | _, _ => s

def execOrderSet (q n : Nat) (s : State) : Out := unitCmd s (orderSetState q n)
def execOrderClear (q n : Nat) (s : State) : Out := unitCmd s (orderClearState q n)

/-- Prefetch one granule into the sail's ways of a home yard (R103, R203); none when it is poisoned. -/
def prefetchGranule (s : State) (y sl mask base : Nat) : Option State :=
  let ways := sailWays s y sl
  let p := lpaOf s base
  match lineOf (s.yard y) ways p with
  | some (k, x) => some (s.updYard y (fun yd => { yd with cache := yd.cache.set Line.empty k { x with used := true } }))
  | none =>
    if anyPoison s base 64 then none
    else
      let l := shareWays s y sl 2 (ways.filter (fun w => mask.testBit w))
      some ((spend s sl 2 base 64 false).updYard y (fun yd => allocate yd l sl p (readBytes s base 64)))

/-- Prefetch the granules of a span; none when one fails translation, is not resident or is poisoned. -/
def prefetchSpan (s : State) (u : Use) (y sl mask : Nat) : List (Nat × Nat) → Option State
  | [] => some s
  | (va, _) :: t =>
    match locate s u va .read with
    | .loc k _ =>
      match prefetchGranule s y sl mask (k / 64 * 64) with
      | none => none
      | some s1 => prefetchSpan s1 u y sl mask t
    | _ => none

/-- Prefetch the row of an ID (R112, R203); none for what R204 drops. -/
def prefetchId (s : State) (u : Use) (sl : Nat) (t : Table) (raw idw32 : Bool) (id : Nat) : Option State :=
  match nameOf t raw idw32 id with
  | .row r =>
    let x := rowReq t s.time (some r)
    match homeOf s u x.va t with
    | none => none
    | some home => prefetchSpan s u home sl t.waymask ((readSpans t x).flatMap (fun p => cut p.1 p.2.1))
  | _ => none

/-- Prefetch several IDs: the state and how many were dropped. -/
def prefetchIds (s : State) (u : Use) (sl : Nat) (t : Table) (raw idw32 : Bool) (ids : List Nat) : State × Nat :=
  ids.foldl (fun a i =>
    match prefetchId a.1 u sl t raw idw32 i with
    | some s1 => (s1, a.2)
    | none => (a.1, a.2 + 1)) (s, 0)

/-- The ID at a position of the buffer (R203); none when it cannot be read. -/
def orderId (s : State) (u : Use) (o : OrderSlot) (i : Nat) : Option Nat :=
  let w := if o.idw32 then 4 else 8
  match vread s u (o.buf + i * w % 2 ^ o.log2) w with
  | .ok l => some (leNat l)
  | _ => none

/-- Forward IDs to the owner of the table in HINT messages of at most 512 (R230, R232). -/
def sendHints (s : State) (sl node : Nat) (i : Import) : Nat → List Nat → State
  | 0, _ => s
  | f + 1, ids =>
    if ids.isEmpty then s
    else
      let ports := routePorts s sl node
      let part := ids.take 512
      let s1 := match pickPort ports 0 with
        | none => s
        | some port => sendMsg s
            { port := port, dst := node, lease := (leaseOn s port sl).getD 15, tc := 0, op := 0x11, tag := 0, tepoch := 0,
              keyGen := i.ogen, rKeyGen := (s.linkSlot sl).gen, xlen := 0, arg := BitVec.ofNat 64 part.length,
              win := i.win, enc := true, poison := [], payload := part.flatMap (leBytes 8) }
      sendHints s1 sl node i f (ids.drop 512)

/-- PROD_READ (R203): at most every 2 µs the yard reads the producer count and prefetches what it has not prefetched
of the positions up to min(C + LEAD, PROD) − 1. -/
def prodState (y key : Nat) (s : State) : State :=
  let o := (s.yard y).orders.get OrderSlot.empty key
  if o.lead = 0 || (s.time - o.lastRead).toNat < 2000 then s
  else
    let u := useNow s o.ctx
    match vread s u o.prod 8 with
    | .ok pl =>
      let first := max o.consumed o.fetched
      let last := min (o.consumed + o.lead) (leNat pl)
      let pos := (List.range (last - first)).map (fun i => first + i)
      let ids := pos.filterMap (orderId s u o)
      let done := fun (s : State) (drop : Nat) =>
        setOrder s y key { o with lastRead := s.time, fetched := max first last,
                                  dropped := o.dropped + drop + (pos.length - ids.length) }
      match readDesc s u o.table with
      | .ok l =>
        let t := tableOf l
        match descOk l, tableRemote s u t with
        | true, .ok none =>
          let r := prefetchIds s u o.sail t o.raw o.idw32 ids
          done r.1 r.2
        | true, .ok (some (node, a)) =>
          let real := ids.filter (fun i => !isPad o.idw32 i)
          match findImport s o.sail node a t.span (fun i => i.lkup) with
          | some (_, i) => done (sendHints s o.sail node i 200 real) (ids.length - real.length)
          | none => done s ids.length
        | _, _ => done s ids.length
      | _ => done s ids.length
    | _ => setOrder s y key { o with lastRead := s.time }

def execProdRead (y key : Nat) (s : State) : Out := unitCmd s (prodState y key)

end Sys2Proof.Machine
end

