-- ==== Sys2Proof/Machine/RyuRemote.lean ====
section
/-! DEFINITION. Remote operations (R225 to R241): the owner's side, responses and timeouts, exports and imports.
Choices of the model here: log entry 28 (DEDUCED), log entry 30 (DESIGN CHOICE), log entry 32 (DESIGN CHOICE). -/

namespace Sys2Proof.Machine

open Sys2Proof

/-! ### Frames as they are taken (R217, R218) -/

def bumpMisroute (s : State) : State := { s with ryu := { s.ryu with misroute := satInc s.ryu.misroute } }
def bumpLate (s : State) : State := { s with ryu := { s.ryu with late := satInc s.ryu.late } }
def bumpAuth (s : State) : State := { s with ryu := { s.ryu with auth := satInc s.ryu.auth } }
def bumpStale (s : State) : State := { s with ryu := { s.ryu with staleGen := satInc s.ryu.staleGen } }

/-- Whether a frame is for this device (R217, R223). -/
def forUs (s : State) (dst : Nat) : Bool := dst == 0xFFFF || (s.ryu.assigned && dst == s.ryu.node)

/-- The key slot that a WIN resolves to (R218): that of its export, also of one released since (R227), else the link slot of the sail
on whose lease the frame came. -/
def winSlot (s : State) (win sl : Nat) : KeySlot :=
  match Tbl.look s.ryu.exports win with
  | some e => s.slot e.keyslot
  | none => match Tbl.look s.ryu.gone win with
    | some k => s.slot k
    | none => s.linkSlot sl

/-- The key slot that a response's TAG resolves to (R218). -/
def tagSlot (s : State) (tag sl : Nat) : KeySlot :=
  match (s.ryu.tags.get TagSt.free tag).op with
  | some o => s.linkSlot o.sail
  | none => s.linkSlot sl

/-- Take a message of a sail lease: the destination and the lease are checked, then the authentication under the key slot that the
message resolves to (R218); what fails is dropped and counted. `plain` allows a message without encryption. -/
def takeMsg (s : State) (port : Nat) (m : RyuMsg) (plain : Bool) (slot : Nat → KeySlot) (k : Nat → State) : State :=
  if !portUp s port then s
  else if !forUs s m.dst then bumpMisroute s
  else
    match leaseSail s port m.lease with
    | none => bumpMisroute s
    | some sl => if (m.enc && m.tagOk && (slot sl).st != .empty) || (!m.enc && plain) then k sl else bumpAuth s

/-- A request to an export (R218). -/
def takeReq (s : State) (port : Nat) (m : RyuMsg) (k : Nat → State) : State := takeMsg s port m false (winSlot s m.win) k

/-! ### The owner's side (R229 to R232) -/

/-- The bytes of a window span, granule by granule, with their poison marks by units of 32 bytes. -/
def windowRead (s : State) (a n : Nat) : List Byte × List Bool :=
  ((cut a n).flatMap (fun p => match memKey s p.1 with
    | some k => readBytes s k p.2
    | none => List.replicate p.2 0),
   (cut a n).flatMap (fun p => match memKey s p.1 with
    | some k => unitMarks s k p.2
    | none => List.replicate (p.2 / 32) true))

/-- Set the dirty bits of a write to a local span: in every DLOG range of the sail that maps it (R205). -/
def dirtyLocal (s : State) (sl a n : Nat) : State :=
  (sailCtxs s sl).foldl (fun s c =>
    ((s.ctx c).ranges.filter (fun e => e.dlog && s.isOwnNode e.node && decide (e.lpa < a + n) && decide (a < e.lpa + e.bytes))).foldl
      (fun s e =>
        let lo := max a e.lpa
        let hi := min (a + n) (e.lpa + e.bytes)
        (unitsOf (lo - e.lpa) (hi - lo) 4096).foldl (fun s g => dirtyMark s (useNow s c) e (e.vstart + 4096 * g)) s) s) s

/-- Write a window span granule by granule; in a host window poisoned granules are not written (R231). -/
def windowWrite (s : State) (sl a : Nat) (l : List Byte) (marks : List Bool) : State :=
  let s := dirtyLocal s sl a l.length
  (cut a l.length).foldl (fun s p =>
    match memKey s p.1 with
    | none => s
    | some k =>
      let o := p.1 - a
      let m := (marks.drop (o / 32)).take (p.2 / 32)
      let host := decide (hostBase ≤ k) && decide (k < hostEnd)
      if host && m.contains true then s
      else storeMarked (spend s sl 1 k p.2 true) k ((l.drop o).take p.2) m) s

/-- Whether an export lies in a host window. -/
def Export.isHost (e : Export) : Bool := decide (4 ≤ regionNo e.base)

/-- Answer an operation. -/
def answer (s : State) (sl : Nat) (m : RyuMsg) (st : Status) (bytes : List Byte) (marks : List Bool) : State :=
  respond s sl m.src m.tag m.tepoch m.rKeyGen st bytes marks

/-- The checks of R229 up to the permission, in order; a request with a stale generation is counted, also one to an export that has
been released (R227, R241). -/
def ownerGate (s : State) (sl : Nat) (m : RyuMsg) (allows : Export → Bool) (stale : Export → State → State)
    (k : Export → State) : State :=
  match Tbl.look s.ryu.exports m.win with
  | none =>
    if (Tbl.look s.ryu.gone m.win).isSome && m.keyGen != (winSlot s m.win sl).gen then answer (bumpStale s) sl m .abortKeyRevoked [] []
    else answer s sl m .faultPermission [] []
  | some e =>
    if (s.sail e.sail).recovering then answer s sl m .remoteUnreachable [] []
    else if m.keyGen != (s.slot e.keyslot).gen then answer (stale e (bumpStale s)) sl m .abortKeyRevoked [] []
    else if allows e then k e
    else answer s sl m .faultPermission [] []

end Sys2Proof.Machine

namespace Sys2Proof

/-- The length of a remote read or write. -/
def RyuMsg.accessLen (m : RyuMsg) : Nat := 32 * (m.xlen.toNat + 1)

end Sys2Proof

namespace Sys2Proof.Machine

/-- Check 2 of R229 for RD and WR. -/
def windowCheck (e : Export) (m : RyuMsg) : Option Status :=
  if m.xlen.toNat > 127 || m.arg.toNat % 32 != 0 then some .malformed
  else if m.arg.toNat + m.accessLen > 4096 * e.pages then some .faultPermission
  else none

/-- RD (R231). -/
def rdState (port : Nat) (m : RyuMsg) (s : State) : State :=
  takeReq s port m (fun sl => ownerGate s sl m (·.read) (fun _ s => s) (fun e =>
    match windowCheck e m with
    | some st => answer s sl m st [] []
    | none =>
      let a := e.base + m.arg.toNat
      let r := windowRead s a m.accessLen
      answer (spend s e.sail 1 a m.accessLen false) sl m .done r.1 r.2))

/-- WR (R231, R241); committed cleat state is read-only (R251). -/
def wrState (port : Nat) (m : RyuMsg) (s : State) : State :=
  let stale := fun (e : Export) (s : State) =>
    if (windowCheck e m).isSome || !e.write || s.heldSpan (e.base + m.arg.toNat) m.accessLen then s
    else (cut (e.base + m.arg.toNat) m.accessLen).foldl (fun s p => match memKey s p.1 with
      | some k => if protectedKey k then staleWrite s k p.2 else s
      | none => s) (dirtyLocal s e.sail (e.base + m.arg.toNat) m.accessLen)
  takeReq s port m (fun sl => ownerGate s sl m (·.write) stale (fun e =>
    match windowCheck e m with
    | some st => answer s sl m st [] []
    | none =>
      if s.heldSpan (e.base + m.arg.toNat) m.accessLen then answer s sl m .faultPermission [] []
      else if m.payload.length != m.accessLen then answer s sl m .malformed [] []
      else
        let s1 := windowWrite s e.sail (e.base + m.arg.toNat) m.payload m.poison
        answer s1 sl m (if e.isHost && m.poison.contains true then .faultPoison else .done) [] []))

/-- Write the TABLE field of a request record (R232). -/
def withTable (l : List Byte) (t : Nat) : List Byte :=
  let w := leNat (l.take 8)
  leBytes 8 (w - w / 256 % 4096 * 256 + 256 * t) ++ l.drop 8

/-- The entries that remote lookups hold of a yard: those of one export (R232), or all (R135). -/
def remoteHeld (s : State) (y : Nat) (win : Option Nat) : Nat :=
  ((s.yard y).reqs.filter (fun r => match r.from_ with
    | .remote _ _ _ _ w _ => win.isNone || win == some w
    | _ => false)).length

/-- The request entries that the rig reserves of a yard for remote lookups (R135, YARDS). -/
def remoteShare (s : State) (y : Nat) : Nat :=
  match s.unitRig (yardUnit y) with
  | none => 0
  | some r => r.remoteEntries.get 0 y

/-- The incoming operations that a port's remote engine serves (R234): lookups in a yard. -/
def incoming (s : State) (port : Nat) : Nat :=
  (s.yards.map (fun y => (y.2.reqs.filter (fun r => match r.from_ with
    | .remote p _ _ _ _ _ => p == port
    | _ => false)).length)).sum

/-- Whether a LKUP must wait in its port: the export's QUOTA, the yard's entries for remote lookups, or the 1,024 operations of the
port's remote engine are in use (R135, R232, R234). -/
def lkupWaits (s : State) (port : Nat) (m : RyuMsg) (e : Export) : Bool :=
  decide (e.quota ≤ remoteHeld s e.yard (some m.win)) || decide (remoteShare s e.yard ≤ remoteHeld s e.yard none) ||
    decide (1024 ≤ incoming s port)

/-- Blocks of a frame return to the sender (R220): the key 8 × lease + class. -/
def oweBlocks (s : State) (port : Nat) (o : Option (Nat × Nat)) : State :=
  match o with
  | none => s
  | some x => s.setPort port { s.port port with owed := (s.port port).owed.upd 0 x.1 (· + x.2) }

/-- A LKUP is served by the export's yard, or waits in its port with the credit `owe` of its last frame. The flags of its arithmetic
are those of the export's CTX (log entry 32). -/
def lkupServe (port : Nat) (m : RyuMsg) (sl : Nat) (owe : Option (Nat × Nat)) (s : State) : State :=
  let pass := oweBlocks s port owe
  ownerGate pass sl m (·.lkup) (fun _ s => s) (fun e =>
    let h := reqHdr m.payload
    if m.payload.length < 32 || m.payload.length != recordLen h || !isLookup h.yop then answer pass sl m .malformed [] []
    else if lkupWaits s port m e then
      s.setPort port { s.port port with waiting := (s.port port).waiting ++ [{ msg := m, owe := owe }] }
    else
      let a := arrive pass e.yard e.sail e.ctx 0x100000000 0 (.remote port m.src m.tag m.tepoch m.win m.rKeyGen)
        (withTable m.payload e.table)
      settleArrival a.1 e.yard a.2)

/-- A LKUP whose last frame has come (R232). -/
def lkupTake (port : Nat) (m : RyuMsg) (owe : Option (Nat × Nat)) (s : State) : State :=
  takeMsg s port m false (winSlot s m.win) (fun sl => lkupServe port m sl owe s)

def lkupState (port : Nat) (m : RyuMsg) (s : State) : State := lkupTake port m none s

/-- The lookups that wait in a port are looked at again, in their order. -/
def retryLkups (s : State) (port : Nat) : State :=
  let w := (s.port port).waiting
  if w.isEmpty then s
  else w.foldl (fun s x => match leaseSail s port x.msg.lease with
      | none => oweBlocks s port x.owe
      | some sl => lkupServe port x.msg sl x.owe s) (s.setPort port { s.port port with waiting := [] })

/-- HINT (R232): prefetch into ways of the owning sail. A HINT carries its IDs as 64-bit IDs (log entry 32). -/
def hintState (port : Nat) (m : RyuMsg) (s : State) : State :=
  takeReq s port m (fun _ =>
    match Tbl.look s.ryu.exports m.win with
    | none => s
    | some e =>
      if m.keyGen != (s.slot e.keyslot).gen then bumpStale s
      else if !e.lkup || (s.sail e.sail).recovering || m.arg.toNat > 512 then s
      else
        let u := useNow s e.ctx
        match readDesc s u e.table with
        | .ok l =>
          if descOk l then
            let ids := (List.range m.arg.toNat).map (fun i => leNat ((m.payload.drop (8 * i)).take 8))
            (prefetchIds s u e.sail (tableOf l) false false ids).1
          else s
        | _ => s)

def execRd (port : Nat) (m : RyuMsg) (s : State) : Out := unitCmd s (rdState port m)
def execWr (port : Nat) (m : RyuMsg) (s : State) : Out := unitCmd s (wrState port m)
def execLkup (port : Nat) (m : RyuMsg) (s : State) : Out := unitCmd s (lkupState port m)
def execHint (port : Nat) (m : RyuMsg) (s : State) : Out := unitCmd s (hintState port m)

/-! ### Imports and exports (R225 to R227) -/

/-- Release an export (R227): its WIN names the key slot that later requests are judged by (R241). -/
def releaseExport (s : State) (win : Nat) : State :=
  match Tbl.look s.ryu.exports win with
  | none => s
  | some e => { s with ryu := { s.ryu with
      exports := s.ryu.exports.erase win, gone := (s.ryu.gone.erase win).insert win e.keyslot } }

/-- Drop one reference of an export; a closing export without references is released (R227). -/
def dropRef (s : State) (win : Nat) : State :=
  match Tbl.look s.ryu.exports win with
  | none => s
  | some e =>
    let e' := { e with refs := e.refs - 1 }
    if e'.closing && e'.refs == 0 then releaseExport s win
    else { s with ryu := { s.ryu with exports := (s.ryu.exports.erase win).insert win e' } }

/-- Bits of an export's permissions, as word 1 of its entry has them. -/
def Export.perms (e : Export) : Nat :=
  (if e.read then 1 else 0) + (if e.write then 2 else 0) + (if e.lkup then 4 else 0) + (if e.state then 8 else 0)

/-- The payload of IMP_ACK: BASE, then PAGES with the permission bits as in R225, then the generation. -/
def ackPayload (s : State) (e : Export) : List Byte :=
  leBytes 8 e.base ++ leBytes 8 (e.pages + 2 ^ 36 * e.perms) ++ leBytes 16 (s.slot e.keyslot).gen.toNat

/-- IMP_OPEN (R226). -/
def impOpenState (port : Nat) (m : RyuMsg) (s : State) : State :=
  takeReq s port m (fun sl =>
    let reply := fun (s : State) (st : Status) (l : List Byte) =>
      sendReply s sl m.src 1 0x61 m.tag m.tepoch m.rKeyGen (st.code.zeroExtend 64) 0 l []
    match Tbl.look s.ryu.exports m.win with
    | none => reply s .faultPermission []
    | some e =>
      let allowed := e.allow.all (· == 0xFFFF) || e.allow.contains m.src
      if (s.sail e.sail).recovering then reply s .remoteUnreachable []
      else if e.closing || !allowed then reply s .faultPermission []
      else
        let s1 := { s with ryu := { s.ryu with
          exports := (s.ryu.exports.erase m.win).insert m.win { e with refs := e.refs + 1 } } }
        reply s1 .done (ackPayload s1 e))

/-- IMP_CLOSE (R226), under the checks of every request (R229, R241, R261). -/
def impCloseState (port : Nat) (m : RyuMsg) (s : State) : State :=
  takeReq s port m (fun sl => ownerGate s sl m (fun _ => true) (fun _ s => s) (fun _ =>
    answer (dropRef s m.win) sl m .done [] []))

def execImpOpen (port : Nat) (m : RyuMsg) (s : State) : Out := unitCmd s (impOpenState port m)
def execImpClose (port : Nat) (m : RyuMsg) (s : State) : Out := unitCmd s (impCloseState port m)

/-- The import that an IMP_ACK describes (R226). -/
def importOf (i : Import) (node : Nat) (l : List Byte) : Import :=
  let w := leNat ((l.drop 8).take 8)
  { i with gbase := leNat (l.take 8) % 2 ^ 48, pages := w % 2 ^ 36, read := w.testBit 36, write := w.testBit 37,
           lkup := w.testBit 38, state := w.testBit 39, ogen := BitVec.ofNat 16 (leNat ((l.drop 16).take 2)),
           ready := true, node := node }

def setImport (s : State) (h : Nat) (v : Option Import) : State :=
  let rest := s.ryu.imports.erase h
  { s with ryu := { s.ryu with imports := match v with
    | none => rest
    | some i => rest.insert h i } }

/-! ### The end of an operation (R233 to R241) -/

def setDesc (s : State) (e id : Nat) (f : DmaDesc → DmaDesc) : State :=
  s.setEngine e { s.engine e with descs := (s.engine e).descs.map (fun d => if d.id = id then f d else d) }

/-- Keep the first error of a descriptor. -/
def DmaDesc.note (d : DmaDesc) (st : Status) : DmaDesc :=
  if st == .done then d else { d with bad := match d.bad with
    | some e => some e
    | none => some st }

/-- What the end of an operation does for the unit that issued it. -/
def deliverEnd (s : State) (o : RemOp) (st : Status) (bytes : List Byte) (marks : List Bool) : State :=
  let lookup := if st == .done && bytes.length != o.expect then Status.malformed else st
  match o.from_ with
  | .core lc tag => endpointReturn s lc tag lookup (if lookup == .done then bytes else []) marks
  | .yard y id =>
    match s.yreq y id with
    | none => s
    | some r =>
      if r.phase == .remote then finishReq s y id lookup (if lookup == .done then bytes else []) marks else s
  | .dma cl eng id piece =>
    setDesc s (4 * cl + eng) id (fun d =>
      if o.kind == .rd then
        let st := if st == .done && bytes.length != o.len then Status.malformed else st
        { (d.note st) with got := d.got ++ [(piece, bytes, marks)] }
      else { (d.note st) with wgot := d.wgot + 1 })
  | .migration c vs p piece =>
    match (s.ctx c).migs.find? (fun m => m.isFor vs p) with
    | none => s
    | some m =>
      let fine := st == .done && (piece < m.wb || bytes.length == 4096)
      if !fine then setMig s c vs p (fun m => { m with failed := some (if st == .done then .malformed else st) })
      else
        let s1 := if piece < m.wb then s else match poolKey s (migUse s c m) m.poolPage with
          | none => s
          | some k =>
            let a := k + 4096 * (piece - m.wb)
            if staleAt s o.sail m.keyGen a then staleWrite s a 4096 else storeMarked (spend s o.sail 1 a 4096 true) a bytes marks
        setMig s1 c vs p (fun m => { m with got := m.got + 1 })
  | .importCmd q n =>
    match o.kind with
    | .impOpen =>
      if st == .done then
        let i := (Tbl.look s.ryu.imports o.imp).map (fun i => importOf i o.node bytes)
        complete (setAux (setImport s o.imp i) q n o.imp) q n .done
      else complete (setImport s o.imp none) q n st
    | _ => complete (setImport s o.imp none) q n st
  | .cleat id piece => cleatPiece s id piece st bytes marks
  | .mirror id _ => mirrorPiece s id st
  | .harvest q n => endPart (if st == .done then s else noteErr s q n st) q n

/-- An operation ends: its tag is freed with the next TEPOCH (R235), and the issuer gets the status. -/
def endOp (s : State) (t : Nat) (o : RemOp) (st : Status) (bytes : List Byte) (marks : List Bool) : State :=
  deliverEnd (releaseTag s t) o st bytes marks

/-- End every operation that satisfies `f` with a status (R240). -/
def endOps (s : State) (f : RemOp → Bool) (st : Status) : State :=
  s.ryu.tags.foldl (fun s p => match p.2.op with
    | some o => if f o then endOp s p.1 o st [] [] else s
    | none => s) s

/-- A response to the operation under a tag: a late one is dropped and counted (R238), and so is one whose key
generation is stale, which ends its operation (R241). -/
def takeResponse (s : State) (m : RyuMsg) (kinds : RemKind → Bool) : State :=
  let t := s.ryu.tags.get TagSt.free m.tag
  match t.op with
  | none => bumpLate s
  | some o =>
    if t.epoch != m.tepoch || !kinds o.kind then bumpLate s
    else if m.keyGen != (s.linkSlot o.sail).gen then endOp (bumpStale s) m.tag o .abortKeyRevoked [] []
    else endOp s m.tag o ((Status.ofCode (m.arg.toNat % 65536)).getD .malformed) m.payload m.poison

/-- RESP (R231 to R239). -/
def respState (port : Nat) (m : RyuMsg) (s : State) : State :=
  takeMsg s port m false (tagSlot s m.tag) (fun _ => takeResponse s m (fun k => k != .impOpen))

/-- IMP_ACK (R226). -/
def impAckState (port : Nat) (m : RyuMsg) (s : State) : State :=
  takeMsg s port m false (tagSlot s m.tag) (fun _ => takeResponse s m (fun k => k == .impOpen))

def execResp (port : Nat) (m : RyuMsg) (s : State) : Out := unitCmd s (respState port m)
def execImpAck (port : Nat) (m : RyuMsg) (s : State) : Out := unitCmd s (impAckState port m)

/-- Whether the timer of an operation has expired (R237): it runs from the departure of its first frame, but for the replays of its
frames. -/
def RemOp.expired (o : RemOp) (now : Word) : Bool :=
  match o.started, o.paused with
  | some t, none => decide ((now - t).toNat ≥ 1000 * o.timeout)
  | _, _ => false

/-- REMOTE_TIMEOUT (R237, R238). -/
def remoteTimeoutState (tag : Nat) (s : State) : State :=
  match (s.ryu.tags.get TagSt.free tag).op with
  | none => s
  | some o => if o.expired s.time then endOp s tag o .remoteTimeout [] [] else s

def execRemoteTimeout (tag : Nat) (s : State) : Out := unitCmd s (remoteTimeoutState tag)

/-! ### Commands (R225 to R227) -/

/-- A parsed export entry (R225): the host holds one reference of a new export. -/
def exportOf (l : List Byte) (c : Nat) : Export :=
  let f := recField l
  { base := f 0 47 0, pages := f 1 35 0, read := f 1 36 36 == 1, write := f 1 37 37 == 1, lkup := f 1 38 38 == 1,
    state := f 1 39 39 == 1, keyslot := f 2 6 0, sail := f 2 12 7, ctx := f 2 23 13, table := f 2 35 24, yard := f 2 39 36,
    quota := f 2 53 40, refs := 1, closing := false, creator := c,
    allow := (List.range 8).map (fun i => f (4 + i / 4) (16 * (i % 4) + 15) (16 * (i % 4))) }

/-- The limits of form of an export entry. -/
def exportOk (l : List Byte) : Bool :=
  let f := recField l
  let e := exportOf l 0
  f 0 63 48 == 0 && f 1 63 40 == 0 && f 2 63 54 == 0 && f 3 63 17 == 0 && f 6 63 0 == 0 && f 7 63 0 == 0 &&
  e.base % 4096 == 0 && decide (1 ≤ e.pages) && decide (e.base + 4096 * e.pages ≤ 2 ^ 48) &&
  (!e.lkup || (decide (1 ≤ e.quota) && decide (e.quota ≤ 8192)))

/-- The lowest free number below `n` of a table. -/
def freeIndex {α : Type} (t : Tbl α) (n : Nat) : Option Nat :=
  (List.range (t.length + 1)).find? (fun i => decide (i < n) && (Tbl.look t i).isNone)

/-- EXPORT_CREATE (R225, R328). -/
def exportCreateState (q n : Nat) (s : State) : State :=
  match startedAs s q n 0x20, s.ctxSail (s.queueCtx q) with
  | some k, some sl =>
    match busRead s q (bytesOf k.raw 8 15) 64 with
    | none => complete s q n .faultTranslation
    | some l =>
      let e := exportOf l (s.queueCtx q)
      let mine := (s.ryu.exports.filter (fun p => p.2.sail == sl)).length
      let d := s.desc sl
      let bytes := 4096 * e.pages
      let given := ((s.ryu.exports.filter (fun p => p.2.lkup && p.2.yard == e.yard)).map (·.2.quota)).sum
      if !exportOk l || (e.lkup && decide (remoteShare s e.yard < given + e.quota)) || decide (((d.map (·.exports)).getD 0) ≤ mine) || !spanMapped s e.base bytes then complete s q n .malformed
      else if e.sail != sl || some e.keyslot != d.map (·.linkKey) || !spanOwned s sl e.base bytes ||
          (e.write && sharedHit s sl e.base bytes) || (e.lkup && s.ctxSail e.ctx != some sl) then
        complete s q n .faultPermission
      else match freeIndex s.ryu.exports 1024 with
        | none => complete s q n .malformed
        | some w =>
          let s := { s with ryu := { s.ryu with exports := s.ryu.exports.insert w e, gone := s.ryu.gone.erase w } }
          complete (setAux s q n w) q n .done
  | _, _ => s

/-- Request the destruction of an export (R227). -/
def closeExport (s : State) (w : Nat) : State :=
  match Tbl.look s.ryu.exports w with
  | none => s
  | some e =>
    if e.closing then s
    else dropRef { s with ryu := { s.ryu with
      exports := (s.ryu.exports.erase w).insert w { e with closing := true } } } w

/-- EXPORT_DESTROY (R227). -/
def exportDestroyState (q n : Nat) (s : State) : State :=
  match startedAs s q n 0x21, s.ctxSail (s.queueCtx q) with
  | some k, some sl =>
    let w := bytesOf k.raw 8 9
    match Tbl.look s.ryu.exports w with
    | none => complete s q n .malformed
    | some e => if e.sail != sl then complete s q n .faultPermission else complete (closeExport s w) q n .done
  | _, _ => s

/-- IMPORT_OPEN (R226, R237): IMP_OPEN leaves for the owner, and the command completes with its answer. -/
def importOpenState (q n : Nat) (s : State) : State :=
  match startedAs s q n 0x22, s.ctxSail (s.queueCtx q) with
  | some k, some sl =>
    let node := bytesOf k.raw 8 9
    let win := bytesOf k.raw 10 11
    let t0 := bytesOf k.raw 12 15
    let t := if t0 = 0 then 500 else t0
    let hops := (s.ryu.routes.get { mask := 0, hops := 0 } node).hops
    let mine := (s.ryu.imports.filter (fun p => p.2.sail == sl)).length
    if t < 50 || t > 100000 || t < 8 * hops + 20 || decide (((s.desc sl).map (·.imports)).getD 0 ≤ mine) then
      complete s q n .malformed
    else match freeIndex s.ryu.imports 4096 with
      | none => complete s q n .malformed
      | some h =>
        match issueOp s .impOpen sl (s.queueCtx q) node win h t 0 0 0 0 0 [] [] (.importCmd q n) with
        | .stall => s
        | .fail st => complete s q n st
        | .sent s1 _ =>
          let i : Import := { sail := sl, ctx := s.queueCtx q, node := node, win := win, gbase := 0, pages := 0,
                              read := false, write := false, lkup := false, state := false, ogen := 0, hops := hops,
                              timeout := t, ready := false, inUse := 0, closing := false }
          (setImport s1 h (some i)).updCmd q n (fun c => { c with phase := .executing })
  | _, _ => s

/-- Close an import (R325): operations in flight free their tags, and new ones are refused. -/
def closeImport (s : State) (h : Nat) : State :=
  match Tbl.look s.ryu.imports h with
  | none => s
  | some i =>
    endOps (setImport s h (some { i with closing := true }))
      (fun o => o.imp == h && o.sail == i.sail && o.kind != .impOpen && o.kind != .impClose) .faultPermission

/-- IMPORT_CLOSE (R226). -/
def importCloseState (q n : Nat) (s : State) : State :=
  match startedAs s q n 0x23, s.ctxSail (s.queueCtx q) with
  | some k, some sl =>
    let h := bytesOf k.raw 8 11
    match Tbl.look s.ryu.imports h with
    | none => complete s q n .malformed
    | some i =>
      if i.sail != sl then complete s q n .faultPermission
      else if !i.ready then complete s q n .malformed
      else
        let s1 := closeImport s h
        match issueOp s1 .impClose sl (s.queueCtx q) i.node i.win h i.timeout 0 0 0 i.ogen 0 [] [] (.importCmd q n) with
        | .stall => s1
        | .fail st => complete (setImport s1 h none) q n st
        | .sent s2 _ => s2.updCmd q n (fun c => { c with phase := .executing })
  | _, _ => s

def execExportCreate (q n : Nat) (s : State) : Out := unitCmd s (exportCreateState q n)
def execExportDestroy (q n : Nat) (s : State) : Out := unitCmd s (exportDestroyState q n)
def execImportOpen (q n : Nat) (s : State) : Out := unitCmd s (importOpenState q n)
def execImportClose (q n : Nat) (s : State) : Out := unitCmd s (importCloseState q n)

end Sys2Proof.Machine
end

