-- ==== Sys2Proof/Machine/RyuLink.lean ====
section
/-! DEFINITION. The links of the Ryurun ports (R208 to R222): training, identity, link schedule, sending, credits,
replay.
Choices of the model here: log entry 29 (DESIGN CHOICE), log entry 31 (DESIGN CHOICE). -/

namespace Sys2Proof.Machine

open Sys2Proof

/-! ### Authenticated encryption (NIST SP 800-38D) -/

/-- A list cut or filled with zeros to `n` bytes. -/
def fitTo (n : Nat) (l : List Byte) : List Byte := l.take n ++ List.replicate (n - l.length) 0

/-- AES-256-GCM encryption: the ciphertext, as long as the plaintext, and the 16-byte tag. -/
def gcmEncrypt (key : BitVec 256) (iv : BitVec 96) (aad pt : List Byte) : List Byte × List Byte :=
  let l := fitTo (pt.length + 16) (Config.gcmSeal key iv aad pt)
  (l.take pt.length, l.drop pt.length)

/-- An IV of a sender and a count (R218, R323). -/
def ivOf (sender : BitVec 32) (count : Word) : BitVec 96 := BitVec.ofNat 96 (sender.toNat + 2 ^ 32 * count.toNat)

/-! ### The port -/

def State.updPort (s : State) (p : Nat) (f : RyuPort → RyuPort) : State := s.setPort p (f (s.port p))

/-- The LINKS entry of a port. -/
def State.linkDef (s : State) (p : Nat) : Option LinkDef :=
  match s.unitRig (ryuUnit p) with
  | none => none
  | some r => Tbl.look r.links p

/-- The lease of a slot (R214). -/
def slotLease (s : State) (p slot : Nat) : Option Nat :=
  if slot % 32 = 0 then none else
  match s.linkDef p with
  | none => none
  | some d => (d.slots[slot]?).filter (· < 16)

/-- The digest of a link schedule: the first four bytes of the SHA-256 of its slot map. -/
def linkDigest (s : State) (p : Nat) : BitVec 32 :=
  match s.linkDef p with
  | none => 0
  | some d => (Config.sha256 (d.slots.map (BitVec.ofNat 8))).setWidth 32

/-- The blocks that a port owes its peer when its link comes up: the credits of its leases, and 64 for lease 15
(R220). -/
def initialCredit (s : State) (p : Nat) : Tbl Nat :=
  let l := match s.linkDef p with
    | none => []
    | some d => (d.credits.zipIdx.filter (fun x => x.1 != 0)).map (fun x => (8 * (x.2 / 3) + x.2 % 3, x.1))
  l ++ [(124, 64)]

/-- Whether a port's peer and schedule are as the rig expects them (R210). -/
def RyuPort.agrees (x : RyuPort) : Bool := !x.peerMismatch && !x.schedMismatch

/-- The credits that a port announces when its link comes up (R220): what its waiting lookups hold is not free. -/
def freshOwed (s : State) (p : Nat) : Tbl Nat :=
  (s.port p).waiting.foldl (fun t x => match x.owe with
    | none => t
    | some o => t.upd 0 o.1 (· - o.2)) (initialCredit s p)

/-- A link comes up (R210, R214, R220, R222): both slot counts start, IDENT is due, every credit is announced; a frame that has not come
whole is to be sent again. -/
def RyuPort.linkUp (x : RyuPort) (owed : Tbl Nat) : RyuPort :=
  { x with
    trained := true, txSlot := 0, rxSlot := 0, cur := [], part := [], nakDue := false, identDue := true, credit := [], spent := [],
    owed := owed, rxSeq := match x.part with
      | [] => x.rxSeq
      | f :: _ => f.seq }

/-- PORT_TRAINING (R210, R211): training ends; a port that has trained sends only management until its IDENT has come. -/
def portTrainingState (p : Nat) (t : TrainResult) (s : State) : State :=
  let x := s.port p
  if x.fenced then s
  else if t.ok then
    s.setPort p { x.linkUp (freshOwed s p) with up := false, polarity := t.polarity, laneMap := t.laneMap }
  else s.setPort p { x with trained := false, up := false }

def execPortTraining (p : Nat) (t : TrainResult) (s : State) : Out := unitCmd s (portTrainingState p t)

/-- An IDENT block is taken (R210, R213): the peer is recorded and compared, and what differs is reported. -/
def identState (p node peerPort : Nat) (digest : BitVec 32) (s : State) : State :=
  let x := s.port p
  if !x.trained || x.fenced then s
  else
    let bad := match s.linkDef p with
      | none => false
      | some d => (d.peerNode != 0xFFFF && d.peerNode != node) || (d.peerPort != 0xFF && d.peerPort != peerPort)
    let sched := (s.linkDef p).isSome && digest != linkDigest s p
    let y := { x with peerNode := node, peerPort := peerPort, peerDigest := digest, peerMismatch := bad, schedMismatch := sched }
    let s1 := s.setPort p { y with up := y.agrees && (s.linkDef p).isSome }
    if y.agrees then s1 else logUnit s1 1 0 7 p 0x09

def execIdent (p node peerPort : Nat) (digest : BitVec 32) (s : State) : Out := unitCmd s (identState p node peerPort digest)

/-- A port is fenced (R211, R240, R348, R411): its slots are lost, and every operation that left on it ends. -/
def fencePort (s : State) (p : Nat) : State :=
  let s := s.updPort p (fun x => { x with fenced := true, up := false, trained := false, cur := [], part := [], sendQ := [],
                                          unacked := [] })
  let s := logUnit (degradePort (fenceUnit s 5 p) p) 2 0 7 p 0x0A
  let s := sendFm s (.recovery true 0 [] false [p])
  endOps s (fun o => o.port == p) .remoteUnreachable

/-- Whether a loss recurs within 1 s of the last one. -/
def recurs (now : Word) (last : Option Word) : Bool :=
  match last with
  | none => false
  | some t => decide ((now - t).toNat < 1000000000)

/-- Whether a port has a frame of `f` to replay. -/
def replaying (x : RyuPort) (f : FrameFor) : Bool := x.sendQ.any (fun g => decide (0 < g.resends) && g.for_ == f)

/-- The timers of the operations and of the cleat records whose frames a port replays stand, the others go on (R237, R253). -/
def holdTimers (s : State) (p : Nat) : State :=
  let x := s.port p
  let turn := fun (on : Bool) (start paused : Option Word) => match on, start, paused with
    | true, some t, none => (some t, some s.time)
    | false, some t, some w => (some (t + (s.time - w)), none)
    | _, a, b => (a, b)
  { s with ryu := { s.ryu with
      tags := s.ryu.tags.map (fun y => match y.2.op with
        | some o =>
          if o.port = p then
            let r := turn (replaying x (.req y.1)) o.started o.paused
            (y.1, { y.2 with op := some { o with started := r.1, paused := r.2 } })
          else y
        | none => y)
      cleats := s.ryu.cleats.map (fun c =>
        let r := turn (s.ryu.ports.any (fun q => replaying q.2 (.cleat c.id))) c.timer c.paused
        { c with timer := r.1, paused := r.2 }) } }

/-- Every unacknowledged frame is to be sent again, in its order (R222). A frame that must be resent a fifth time
makes the link lose its training. -/
def resendAll (s : State) (p : Nat) : State :=
  let x := s.port p
  let l : List TxFrame := x.unacked.map (fun (f : TxFrame) => { f with resends := f.resends + 1 })
  if l.any (fun f => decide (f.resends ≥ 5)) then
    s.setPort p { x with trained := false, cur := [], sendQ := l ++ x.sendQ, unacked := [] }
  else if l.isEmpty then s
  else holdTimers (s.setPort p { x with replays := satInc x.replays, cur := [], sendQ := l ++ x.sendQ, unacked := [] }) p

/-- LINK_LOSS (R211): a port that loses its link trains again once; what it has sent and has no acknowledgement of goes again. -/
def linkLossState (p : Nat) (retrained : Bool) (s : State) : State :=
  let x := s.port p
  if x.fenced then s
  else if !retrained || recurs s.time x.lastLoss then
    fencePort (s.setPort p { x with lastLoss := some s.time, retrains := satInc x.retrains }) p
  else
    let s := s.setPort p { x.linkUp (freshOwed s p) with
      lastLoss := some s.time, retrains := satInc x.retrains
      sendQ := x.unacked.map (fun f => { f with resends := 1 }) ++ x.sendQ.map (fun f => { f with resends := min f.resends 1 })
      unacked := [] }
    logUnit s 1 0 7 p 0x09

def execLinkLoss (p : Nat) (retrained : Bool) (s : State) : Out := unitCmd s (linkLossState p retrained)

/-- ACK_TIMER_EXPIRY (R222): 1 µs has passed since the oldest unacknowledged frame was sent. -/
def ackTimerState (p : Nat) (s : State) : State :=
  match (s.port p).unacked with
  | [] => s
  | f :: _ => if (s.time - f.sentAt).toNat ≥ 1000 && (s.port p).trained then resendAll s p else s

def execAckTimerExpiry (p : Nat) (s : State) : Out := unitCmd s (ackTimerState p)

/-! ### LINK blocks (R221) -/

/-- Sequence numbers up to and including `a`. -/
def upTo (a q : BitVec 12) : Bool := decide ((a - q).toNat < 2048)

/-- Credit of a key that comes back pays for the oldest frames that spent it. -/
def repay (key : Nat) : Nat → List Spent → List Spent
  | _, [] => []
  | n, x :: t =>
    if n = 0 then x :: t
    else if x.key != key then x :: repay key n t
    else if x.n ≤ n then repay key (n - x.n) t
    else { x with n := x.n - n } :: t

/-- A LINK block is taken; the one with the period mark was slot 0. -/
def linkState (p : Nat) (b : LinkBlock) (s : State) : State :=
  let x := s.port p
  if !x.trained then s
  else if !b.crcOk then s.setPort p { x with crc := satInc x.crc }
  else
    let keep := fun (f : TxFrame) => !(b.ackV && upTo b.ackSeq f.seq)
    let s := s.setPort p { x with
      rxSlot := if b.pmark then 1 else x.rxSlot
      spent := (b.credits.filter (fun c => c.valid)).foldl (fun t c => repay (8 * c.lease.toNat + c.cls.toNat) c.blocks.toNat t) x.spent
      unacked := x.unacked.filter keep
      sendQ := x.sendQ.filter (fun f => f.resends == 0 || keep f)
      credit := (b.credits.filter (fun c => c.valid)).foldl (fun t c =>
        t.upd 0 (8 * c.lease.toNat + c.cls.toNat) (· + c.blocks.toNat)) x.credit }
    let acked := x.unacked.length - (x.unacked.filter keep).length
    let s := addProgress s 7 p (acked + (b.credits.filter (fun c => c.valid)).length)
    if b.nak then resendAll s p else holdTimers s p

def execLink (p : Nat) (b : LinkBlock) (s : State) : Out := unitCmd s (linkState p b)

/-- Bytes 0 to 27 of a control block with its CRC (R213). -/
def controlBlock (l : List Byte) : List Byte :=
  let b := fitTo 28 l
  b ++ leBytes 4 (crc32 b).toNat

/-- A credit field of a LINK block (R221) for a key 8 × lease + class. -/
def creditField (key n : Nat) : List Byte := leBytes 3 (key / 8 + 16 * (key % 8) + 128 + 256 * min n 0xFFFF)

/-- The LINK block that a port sends in slot `slot`: the acknowledgement, a NAK that is due, and up to eight of the
credits that it owes. -/
def linkBlockOf (x : RyuPort) (slot : Nat) : List Byte :=
  let ack := match x.part with
    | [] => x.rxSeq - 1
    | f :: _ => f.seq - 1
  let w := ack.toNat + 2 ^ 12 + (if x.nakDue then 2 ^ 13 else 0) + (if slot = 0 then 2 ^ 14 else 0)
  controlBlock ([2] ++ leBytes 3 w ++ ((x.owed.take 8).flatMap (fun c => creditField c.1 c.2)))

/-- A LINK block from its bytes. -/
def parseLink (l : List Byte) : LinkBlock :=
  let w := leNat ((l.drop 1).take 3)
  { ackSeq := BitVec.ofNat 12 w, ackV := w.testBit 12, nak := w.testBit 13, pmark := w.testBit 14,
    rsv := BitVec.ofNat 9 (w / 2 ^ 15),
    credits := (List.range 8).map (fun i =>
      let c := leNat ((l.drop (4 + 3 * i)).take 3)
      { lease := BitVec.ofNat 4 c, cls := BitVec.ofNat 3 (c / 16), valid := c.testBit 7, blocks := BitVec.ofNat 16 (c / 256) }),
    crcOk := leNat ((l.drop 28).take 4) == (crc32 (fitTo 28 l)).toNat }

/-! ### Sending (R212, R214, R215, R218, R220) -/

/-- Header words 0 to 2 and the low half of word 3 of a frame, with SEQ, and LEASE as given (R215). -/
def headerBytes (m : OutMsg) (src len seq lease : Nat) (first last poison : Bool) : List Byte :=
  let b := fun (x : Bool) (i : Nat) => if x then 2 ^ i else 0
  leBytes 8 (1 + 2 ^ 8 * len + 2 ^ 13 * m.tc + b first 16 + b last 17 + b poison 18 + b m.enc 19 + 2 ^ 20 * seq +
    2 ^ 32 * m.dst + 2 ^ 48 * src) ++
  leBytes 8 (m.op + 2 ^ 8 * m.tag + 2 ^ 23 * m.tepoch.toNat + 2 ^ 32 * lease + 2 ^ 40 * m.keyGen.toNat + 2 ^ 56 * m.xlen.toNat) ++
  leBytes 8 m.arg.toNat ++ leBytes 2 m.win ++ leBytes 2 m.rKeyGen.toNat

/-- Cut bytes into blocks of 32. -/
def blocks32 (l : List Byte) : List (List Byte) := (List.range ((l.length + 31) / 32)).map (fun i => fitTo 32 (l.drop (32 * i)))

/-- What a message's frames belong to. -/
def OutMsg.for_ (m : OutMsg) : FrameFor :=
  if [0x01, 0x02, 0x10, 0x60, 0x62].contains m.op then .req m.tag
  else if m.tc = 2 then .cleat (BitVec.ofNat 64 (leNat (m.payload.take 8)))
  else if m.op = 0x53 then .time
  else .plain

/-- Frame `i` of a message: the header without SEQ and CRC, then its blocks, encrypted under the link key of the
sail, whose count advances. -/
def frameOf (s : State) (sl : Nat) (m : OutMsg) (i : Nat) (first last : Bool) : State × TxFrame :=
  let data := (blocks32 ((m.payload.drop (512 * i)).take 512)).flatten
  let bad := ((m.poison.drop (16 * i)).take 16).contains true
  let n := data.length / 32 + if m.enc then 1 else 0
  let head := fun lease => headerBytes m s.ryu.node n 0 lease first last bad
  if m.enc then
    let k := s.linkSlot sl
    let c := gcmEncrypt k.linkKey (ivOf k.senderId k.linkCount) (head 0) data
    let crypto := fitTo 32 (c.2 ++ leBytes 8 k.linkCount.toNat ++ leBytes 4 k.senderId.toNat)
    let s1 := match s.desc sl with
      | none => s
      | some d => s.setSlot d.linkKey { k with linkCount := k.linkCount + 1 }
    (s1, { for_ := m.for_, lease := m.lease, cls := m.tc, blocks := head m.lease :: (blocks32 c.1 ++ [crypto]), seq := 0, resends := 0, sentAt := 0 })
  else (s, { for_ := m.for_, lease := m.lease, cls := m.tc, blocks := head m.lease :: blocks32 data, seq := 0, resends := 0, sentAt := 0 })

/-- Whether a sail's link key can still send (R218). -/
def keySends (s : State) (sl : Nat) : Bool := (s.linkSlot sl).st != .empty && (s.linkSlot sl).linkCount != BitVec.allOnes 64

/-- The frames of a message (R215): 512 bytes of payload each, at least one; the last component says that the key slot stopped sending
before the last of them (R218). -/
def framesOf (s : State) (sl : Nat) (m : OutMsg) : State × List TxFrame × Bool :=
  let n := max 1 ((m.payload.length + 511) / 512)
  (List.range n).foldl (fun a i =>
    if a.2.2 || (m.enc && !keySends a.1 sl) then (a.1, a.2.1, true)
    else
      let f := frameOf a.1 sl m i (i == 0) (i + 1 == n)
      (f.1, a.2.1 ++ [f.2], false)) (s, [], false)

/-- A message is framed for its port. Where its sail's key slot has stopped sending, its operation completes with ABORT_KEY_REVOKED
(R218). -/
def frameMsg (s : State) (p sl : Nat) (m : OutMsg) : State :=
  let r := framesOf s sl m
  let s := r.1.updPort p (fun x => { x with sendQ := x.sendQ ++ r.2.1 })
  if r.2.2 then
    match m.for_ with
    | .req t => match (s.ryu.tags.get TagSt.free t).op with
      | some o => endOp s t o .abortKeyRevoked [] []
      | none => s
    | _ => s
  else s

/-! ### Management messages on their way out (R219, R259) -/

/-- Whether a port carries the management lease (R210, R214): it is trained and not fenced. -/
def manages (s : State) (p : Nat) : Bool := (s.port p).trained && !(s.port p).fenced

/-- The ports on which a message to the manager may leave: those that its route names, all before there is one. -/
def fmPorts (s : State) : List Nat :=
  let m := (s.ryu.routes.get { mask := 0, hops := 0 } s.ryu.manager).mask
  (List.range 32).filter (fun p => manages s p && (!s.ryu.assigned || m == 0 || m.getLsbD p))

def FmOut.op : FmOut → Nat
  | .hello => 0x50 | .time _ _ => 0x53 | .query _ _ _ => 0x54 | .record _ _ => 0x56 | .place _ _ => 0x58
  | .recovery _ _ _ _ _ => 0x59 | .ack _ => 0x5B

/-- A list of numbers below 64 as a mask. -/
def maskOf (l : List Nat) : Nat := l.eraseDups.foldl (fun a i => a + 2 ^ i) 0

/-- The payload of a message to the manager: what R259 lists, in its order. -/
def fmPayload (s : State) : FmOut → List Byte
  | .hello => leBytes 16 s.sec.unitId.toNat ++
      (List.range 32).flatMap (fun p => leBytes 2 (s.port p).peerNode ++ leBytes 2 (s.port p).peerPort ++ leBytes 4 (s.port p).peerDigest.toNat) ++
      (List.range 32).flatMap (fun p => leBytes 4 (linkDigest s p).toNat)
  | .time _ rx => leBytes 8 rx.toNat ++ leBytes 8 0
  | .query id e t => leBytes 8 id.toNat ++ leBytes 4 e.toNat ++ leBytes 4 t.code
  | .record id none => leBytes 8 id.toNat
  | .record _ (some r) => r.bytes (cleatCmdId s r)
  | .place id role => leBytes 8 id.toNat ++ leBytes 8 (match role with
      | .phase1 => 1
      | .phase2 => 2
      | .mirror => 3)
  | .recovery start step sails lost ports =>
      leBytes 1 step ++ leBytes 1 (if start then 1 else 0) ++ leBytes 6 (if lost then 1 else 0) ++ leBytes 8 (maskOf sails) ++
      leBytes 8 (maskOf ports)
  | .ack _ => []

/-- The port that a message to the manager leaves on. -/
def fmPort (s : State) (m : FmOut) : Option Nat :=
  match m with
  | .time p _ => some p
  | _ => pickPort (fmPorts s) s.ryu.node

/-- The next message to the manager that leaves on a port is framed; an FM_ACK waits for no acknowledgement of its own. -/
def frameFm (s : State) (p : Nat) : State :=
  match s.ryu.fmOut.find? (fun m => !m.sent && fmPort s m.msg == some p) with
  | none => s
  | some f =>
    let isAck := f.msg.op = 0x5B
    let m : OutMsg := { port := p, dst := if s.ryu.assigned then s.ryu.manager else 0xFFFF, lease := 15, tc := 4, op := f.msg.op, tag := 0,
                        tepoch := 0, keyGen := 0, rKeyGen := 0, xlen := 0, win := 0, enc := false, poison := [],
                        arg := match f.msg with
                          | .ack a => a
                          | _ => f.arg
                        payload := fmPayload s f.msg }
    let rest := s.ryu.fmOut.flatMap (fun g => if g == f then (if isAck then [] else [{ g with sent := true }]) else [g])
    frameMsg { s with ryu := { s.ryu with fmOut := rest } } p 64 m

/-- The next message that a lease of a port carries is framed. -/
def frameNext (s : State) (p lease : Nat) : State :=
  if lease = 15 then frameFm s p
  else match s.ryu.outbox.findIdx? (fun m => m.port == p && m.lease == lease), leaseSail s p lease with
  | some i, some sl =>
    match s.ryu.outbox[i]? with
    | none => s
    | some m => frameMsg { s with ryu := { s.ryu with outbox := s.ryu.outbox.eraseIdx i } } p sl m
  | _, _ => s

/-- A frame with its sequence number and its CRC (R215). -/
def sealFrame (l : List (List Byte)) (seq : BitVec 12) : List (List Byte) :=
  match l with
  | [] => []
  | h :: t =>
    let w := leNat (h.take 4)
    let h1 := leBytes 4 (w % 2 ^ 20 + 2 ^ 20 * seq.toNat) ++ (h.drop 4).take 24
    (h1 ++ leBytes 4 (crc32 (h1 ++ t.flatten)).toNat) :: t

/-- The key of a frame's credit. -/
def TxFrame.key (f : TxFrame) : Nat := 8 * f.lease + f.cls

/-- Whether a frame takes credit when it starts (R219, R220, R222): ingest has none, and a frame that is sent again takes its credit again
only if that was returned. -/
def takesCredit (x : RyuPort) (f : TxFrame) : Bool :=
  f.cls != 3 && !(decide (0 < f.resends) && x.spent.any (fun y => y.key == f.key && y.seq == f.seq))

/-- Whether a frame can be paid for. -/
def affordable (x : RyuPort) (f : TxFrame) : Bool := !takesCredit x f || decide (f.blocks.length ≤ x.credit.get 0 f.key)

/-- The frames that are sent and not acknowledged (R222). -/
def RyuPort.kept (x : RyuPort) : List TxFrame := x.unacked ++ x.sendQ.filter (fun f => decide (0 < f.resends))

/-- Whether the replay buffer takes one more frame: 2,048 frames and 4,096 blocks (R222). -/
def bufferTakes (x : RyuPort) (f : TxFrame) : Bool :=
  decide (x.kept.length < 2048) && decide ((x.kept.map (·.blocks.length)).sum + f.blocks.length ≤ 4096)

/-- The place in the send queue of the frame that a lease may start: frames that are sent again go first and in
order; of the others the first of a class that can be paid for and kept. -/
def startable (x : RyuPort) (lease : Nat) : Option Nat :=
  match x.sendQ with
  | [] => none
  | f :: _ =>
    if f.resends > 0 then (if f.lease == lease && affordable x f then some 0 else none)
    else
      let first := fun (c : Nat) => x.sendQ.findIdx? (fun g => g.lease == lease && g.cls == c)
      ([1, 2, 0, 4, 3].filterMap first).find? (fun i => match x.sendQ[i]? with
        | none => false
        | some g => affordable x g && bufferTakes x g)

/-- The stamp of an FM_TIME frame's departure (R260), in the second word of its first data block. -/
def stampFrame (f : TxFrame) (now : Word) : List (List Byte) :=
  match f.for_, f.blocks with
  | .time, h :: d :: t => h :: (d.take 8 ++ leBytes 8 now.toNat ++ d.drop 16) :: t
  | _, l => l

/-- The command behind a remote operation of a core, a DMA engine or a yard. -/
def remCmd (s : State) (o : RemOp) : Option (Nat × Nat) :=
  match o.from_ with
  | .core lc tag => ((tagHolders s lc).find? (fun p => p.reqs.any (fun r => r.tag == tag))).map (fun p => (p.q, p.n))
  | .dma c g id _ => ((s.engine (4 * c + g)).descs.find? (fun d => d.id == id)).map (fun d => d.from_.cmd)
  | .yard y id => (s.yreq y id).map (fun r => (r.q, r.n))
  | _ => none

/-- A remote write of a command leaves: the command can no longer be replayed (R426). -/
def wrLeaves (s : State) (o : RemOp) : State :=
  match o.kind, remCmd s o with
  | .wr, some w => noReplay s w.1 w.2
  | _, _ => s

/-- The first frame of a request leaves: its timer starts (R237). -/
def startTimer (s : State) (f : TxFrame) : State :=
  match f.for_ with
  | .req t =>
    let x := s.ryu.tags.get TagSt.free t
    match x.op with
    | some o =>
      if o.started.isNone then setTag (wrLeaves s o) t { x with op := some { o with started := some s.time } } else s
    | none => s
  | _ => s

/-- Start a frame in a slot of its lease: it takes its sequence number and its credit. -/
def startFrame (s : State) (p lease : Nat) : State :=
  let x := s.port p
  match startable x lease with
  | none => s
  | some i =>
    match x.sendQ[i]? with
    | none => s
    | some f =>
      let again := decide (f.resends > 0)
      let seq := if again then f.seq else x.txSeq
      let bl := sealFrame (stampFrame f s.time) seq
      let g : TxFrame := { f with blocks := bl, seq := seq, sentAt := s.time }
      let c : TxCur := { lease := lease, left := bl }
      let pays := takesCredit x f
      let cost : Spent := { key := f.key, seq := seq, n := f.blocks.length }
      holdTimers (startTimer (s.setPort p { x with
        sendQ := x.sendQ.eraseIdx i
        unacked := x.unacked ++ [g]
        txSeq := if again then x.txSeq else x.txSeq + 1
        credit := if pays then x.credit.upd 0 f.key (· - f.blocks.length) else x.credit
        spent := if pays then x.spent ++ [cost] else x.spent
        cur := x.cur ++ [c] }) f) p

/-- The next block of a lease: of the frame in progress, or of a frame that starts now. -/
def leaseBlock (s : State) (p lease : Nat) : State × Option (List Byte) :=
  let busy := fun (s : State) => (s.port p).cur.any (fun c => c.lease == lease)
  let s := if busy s then s
    else
      let s := if (startable (s.port p) lease).isSome || (s.port p).sendQ.any (fun f => f.lease == lease) then s
        else frameNext s p lease
      startFrame s p lease
  let x := s.port p
  match x.cur.find? (fun c => c.lease == lease) with
  | none => (s, none)
  | some c =>
    match c.left with
    | [] => (s, none)
    | b :: t =>
      let rest := x.cur.filter (fun y => y.lease != lease)
      let c' : TxCur := { lease := lease, left := t }
      (s.setPort p { x with cur := if t.isEmpty then rest else rest ++ [c'] }, some b)

/-- The IDENT block of a port (R213). -/
def identBlock (s : State) (p : Nat) : List Byte :=
  controlBlock ([4] ++ leBytes 2 s.ryu.node ++ leBytes 1 p ++ leBytes 4 (linkDigest s p).toNat)

/-- What a port sends in its next slot: TYPE as the first byte, then the 32 bytes of the block. A slot without a block carries IDLE, or
IDENT while that is due or the peer's has not agreed (R210). Leases of sails send nothing before FM_ASSIGN (R223). -/
def txState (p : Nat) (s : State) : State :=
  let x := s.port p
  let slot := x.txSlot
  let tell := slot % 32 != 0 && (x.identDue || !x.up)
  let s := if tell then s.updPort p (fun x => { x with identDue := false }) else s
  let idle : List Byte := 1 :: (if tell then identBlock s p else controlBlock [3])
  let out := fun (s : State) (l : List Byte) => s.updPort p (fun x => { x with txSlot := (slot + 1) % 256, lastTx := l })
  if slot % 32 = 0 then
    let report := slot = 0 || x.nakDue || !x.owed.isEmpty || x.count != x.rxSeq.setWidth 64
    if report then
      out (s.updPort p fun x => { x with owed := x.owed.drop 8, nakDue := false, count := x.rxSeq.setWidth 64 })
        (1 :: linkBlockOf x slot)
    else out s idle
  else
    match slotLease s p slot with
    | none => out s idle
    | some lease =>
      if lease < 15 && (!portUp s p || !s.ryu.assigned) then out s idle
      else
        let r := leaseBlock s p lease
        match r.2 with
        | none => out r.1 idle
        | some b => out r.1 ((if b.headD 0 == 1 && !(x.cur.any (fun c => c.lease == lease)) then 1 else 0) :: b)

/-- RYU_CLR: a write of 1 to CLEAR through a physical function clears the error counters of the selected port and
the device's own (07, Registers; R263). -/
def ryuClrState (fn : HostFn) (v : Word) (s : State) : State :=
  if fn.isPf && v.getLsbD 0 then
    let s1 := s.updPort s.ryu.portSel (fun x => { x with uncorr := 0, crc := 0, replays := 0, retrains := 0, corrected := 0 })
    { s1 with ryu := { s1.ryu with
      devPeak := 0, staleGen := 0, late := 0, auth := 0, misroute := 0, queries := 0, rulings := 0, stale := 0 } }
  else s

def execRyuClr (fn : HostFn) (v : Word) (s : State) : Out := unitCmd s (ryuClrState fn v)

end Sys2Proof.Machine
end

