-- ==== Sys2Proof/Machine/Fence.lean ====
section
/-! DEFINITION. Fencing a unit after a lasting fault (R285, R403, R411), by kind of R394 and R401 and index. -/

namespace Sys2Proof.Machine

open Sys2Proof

/-- The sail of a logical core takes notice that it is DOWN (R285). -/
def downCore (s : State) (k : Nat) : State :=
  match s.clusterSail (k / 34) with
  | none => s
  | some sl => s.updSail sl (fun x => if x.downCores.contains k then x else { x with downCores := x.downCores ++ [k] })

/-- A physical core, by its router, is out of service for good; its interface holds its tags (R153). -/
def fenceCore (s : State) (r : Nat) : State :=
  let c := routerCore r
  let p := 36 * c.1 + c.2
  let s := holdTags (fenceUnit s 0 r) r
  let s := if s.rst.fencedSinceLoad.contains p then s
    else { s with rst := { s.rst with fencedSinceLoad := s.rst.fencedSinceLoad ++ [p] } }
  match s.logicalOf c.1 c.2 with
  | none => s
  | some k => downCore s k

/-- What a fence changes (R138, R177, R211, R285, R411). -/
def applyFence (s : State) (kind index : Nat) : State :=
  match kind with
  | 0 => fenceCore s index
  | 1 => (List.range 36).foldl (fun s p => fenceCore s (routerOf index p)) (fenceUnit s 1 index)
  | 5 => if (s.port index).fenced then fenceUnit s 5 index else fencePort s index
  | 6 => setCxlRate (fenceUnit s 6 index) index (fun x => { x with fenced := true, up := false })
  | 7 => (List.range 16).foldl (fun s c => setChan s true (16 * index + c) (fun x => { x with fenced := true })) (fenceUnit s 7 index)
  | 9 => setChan (fenceUnit s 9 index) false index (fun x => { x with fenced := true })
  | 10 => setChan (fenceUnit s 10 index) true index (fun x => { x with fenced := true })
  | k => fenceUnit s k index

/-- A lasting fault fences a unit and is logged. -/
def fenceLasting (s : State) (kind index : Nat) : State :=
  if fenced s kind index then s
  else
    let s := applyFence s kind index
    if kind = 5 then s
    else
      let o := logObject s kind index
      logUnit s 2 0 o.1 o.2 0x0A

end Sys2Proof.Machine
end

