-- ==== Sys2Proof/Machine/Queue.lean ====
section
/-! DEFINITION. Queues (R302 to R315): the doorbell, the fetch, the start of commands, records, fences.
Choices of the model here: log entry 10 (DESIGN CHOICE), log entry 39 (DEDUCED), log entry 43 (DESIGN CHOICE). -/

namespace Sys2Proof.Machine

open Sys2Proof

/-! ### Register writes of a queue block (R302 to R305, R314) -/

/-- A write to a queue block takes effect only from the function that enabled the queue (R305). -/
def fromOwner (s : State) (fn : HostFn) (q : Nat) : Bool := decide (q < 8192) && (s.queue q).fn == some fn && (s.queue q).st != .idle

/-- The tail that the last accepted doorbell gave (R303). -/
def tailOk (qu : Queue) (t : BitVec 32) : Bool :=
  decide ((t - qu.head).toNat ≤ 2 ^ qu.log2) && decide ((t - qu.tail).toNat < 2 ^ 31)

/-- DOORBELL (R303): an accepted tail stamps its commands with the context's MSEQ (R191). -/
def doorbellState (fn : HostFn) (q : Nat) (t : BitVec 32) (s : State) : State :=
  let qu := s.queue q
  if !fromOwner s fn q || qu.st != .active || qu.overrun then s
  else if tailOk qu t then
    let m := (s.ctx qu.ctx).mseq
    s.setQueue q { qu with tail := t, stamps := if t = qu.tail then qu.stamps else qu.stamps ++ [(t, m)] }
  else s.setQueue q { qu with overrun := true }

/-- OVERRUN_CLEAR (R303): the next doorbell is judged afresh. -/
def overrunClearState (fn : HostFn) (q : Nat) (s : State) : State :=
  if fromOwner s fn q then s.updQueue q (fun x => { x with overrun := false }) else s

/-- QB_CQ_HEAD: records ever consumed by software. -/
def cqHeadState (fn : HostFn) (q : Nat) (v : BitVec 32) (s : State) : State :=
  if fromOwner s fn q then s.updQueue q (fun x => { x with cqHead := v }) else s

/-- An absolute signal (R314). -/
def signalAbs (x : Queue) (v : Word) : Queue :=
  if v.toNat < x.fence.toNat then { x with fenceLow := satInc x.fenceLow } else { x with fence := v }

/-- QB_FENCE_SIGNAL (R314). -/
def fenceSignalState (fn : HostFn) (q : Nat) (v : Word) (s : State) : State :=
  if fromOwner s fn q then s.updQueue q (fun x => signalAbs x v) else s

def execDoorbell (fn : HostFn) (q : Nat) (t : BitVec 32) (s : State) : Out := unitCmd s (doorbellState fn q t)
def execOverrunClear (fn : HostFn) (q : Nat) (s : State) : Out := unitCmd s (overrunClearState fn q)
def execQbCqHead (fn : HostFn) (q : Nat) (v : BitVec 32) (s : State) : Out := unitCmd s (cqHeadState fn q v)
def execQbFenceSignal (fn : HostFn) (q : Nat) (v : Word) (s : State) : Out := unitCmd s (fenceSignalState fn q v)

/-- Why an ENABLE fails, in the order of R302: 0 when it does not. -/
def enableError (s : State) (fn : HostFn) (q sl : Nat) : BitVec 3 :=
  let x := s.queue q
  if x.st != .idle then 3
  else if s.ctxSail x.ctx != some sl || !s.reaches fn sl || (s.ctx x.ctx).st != .active then 1
  else if x.log2 < 4 || 16 < x.log2 then 4
  else if x.sqBase + 64 * 2 ^ x.log2 > 2 ^ 46 || x.cqBase + 32 * 2 ^ x.log2 > 2 ^ 46 then 2
  else 0

/-- A queue as ENABLE leaves it: every count and the fence value at 0. -/
def Queue.enabled (x : Queue) (fn : HostFn) : Queue :=
  { Queue.empty with
    sqBase := x.sqBase, cqBase := x.cqBase, ctx := x.ctx, log2 := x.log2, vector := x.vector, irqAll := x.irqAll,
    st := .active, fn := some fn }

/-- ENABLE (R302). -/
def enableState (fn : HostFn) (q : Nat) (s : State) : State :=
  match s.queueSail q with
  | none => s
  | some sl =>
    let x := s.queue q
    if !s.reaches fn sl || (x.st != .idle && x.fn != some fn) then s
    else
      let e := enableError s fn q sl
      if e = 0 then s.setQueue q (x.enabled fn) else s.setQueue q { x with error := e }

def execEnable (fn : HostFn) (q : Nat) (s : State) : Out := unitCmd s (enableState fn q)

/-! ### Fetch (R191, R304) -/

/-- Whether command `n` lies below a tail. -/
def below (n t : BitVec 32) : Bool := decide ((t - n - 1).toNat < 2 ^ 31)

/-- The MSEQ stamp of the next command of a queue. -/
def stampOf (x : Queue) : Word := ((x.stamps.find? (fun p => below x.head p.1)).map (·.2)).getD 0

/-- A command as the queue block holds it after its fetch. -/
def CmdRec.fresh (n : Nat) (raw : BitVec 512) (stamp now : Word) : CmdRec :=
  { n := n, raw := raw, stamp := stamp, phase := .fetched, xlat := none, readyAt := now, startAt := now, endAt := now,
    wait := 0, energyNj := 0, aux := 0, parts := 0, firstErr := none, haltErr := none,
    noReplay := raw.getLsbD 12, replayed := false }

/-- A fetched command of a context reset since its doorbell has completed (R429). -/
def afterReset (x : Queue) (c : CmdRec) : CmdRec :=
  match x.resetTo with
  | none => c
  | some t => if below x.head t then { c with phase := .completed .abortContextReset } else c

/-- COMMAND_FETCH (R304): the next submitted command, while its record is sure of a slot. -/
def commandFetchState (q : Nat) (s : State) : State :=
  let x := s.queue q
  if q < 8192 && x.st == .active && x.head != x.tail && hostUp s (queuePort s q) &&
    busOk (x.sqBase + 64 * (x.head.toNat % 2 ^ x.log2)) 64 && decide ((x.head - x.cqHead).toNat < 2 ^ x.log2) then
    let raw := BitVec.ofNat 512 (leNat (readBytes s (busKey (queuePort s q) (x.sqBase + 64 * (x.head.toNat % 2 ^ x.log2))) 64))
    let h := x.head + 1
    let c := CmdRec.fresh x.head.toNat raw (stampOf x) s.time
    s.setQueue q { x with
      head := h
      stamps := x.stamps.filter (fun p => p.1 != h)
      resetTo := if x.resetTo = some h then none else x.resetTo
      cmds := x.cmds ++ [afterReset x c] }
  else s

def execCommandFetch (q : Nat) (s : State) : Out := unitCmd s (commandFetchState q)

/-! ### Form (R306, R308) -/

/-- The payload bytes that an opcode lists, with the reserved bits of the listed ones; none for an opcode that is
not listed. RUN leaves bytes 16 to 39 to the program. -/
def usedBytes (op : Nat) : Option (List (Nat × Nat)) :=
  match op with
  | 0x00 => some []
  | 0x01 => some [(8, 43)]
  | 0x02 => some [(8, 21)]
  | 0x03 => some [(8, 9), (12, 23)]
  | 0x04 => some [(8, 9), (12, 15)]
  | 0x05 => some [(8, 9)]
  | 0x10 => some [(8, 15)]
  | 0x11 => some [(8, 15)]
  | 0x12 => some [(8, 15)]
  | 0x13 => some []
  | 0x14 => some [(8, 24)]
  | 0x15 => some [(8, 24)]
  | 0x16 => some [(8, 17)]
  | 0x17 => some [(16, 17)]
  | 0x18 => some [(8, 27), (32, 39)]
  | 0x20 => some [(8, 15)]
  | 0x21 => some [(8, 9)]
  | 0x22 => some [(8, 15)]
  | 0x23 => some [(8, 11)]
  | 0x24 => some [(8, 15)]
  | 0x25 => some [(8, 9)]
  | 0x26 => some [(8, 12), (16, 31)]
  | 0x27 => some [(8, 32)]
  | 0x30 => some [(8, 23)]
  | 0x31 => some [(8, 9)]
  | _ => none

/-- Whether the reserved bits inside listed bytes are 0. -/
def bitsOk (c : CmdRec) : Bool :=
  match c.opcode with
  | 0x14 => decide (bytesOf c.raw 24 24 < 2)
  | 0x26 => decide (bytesOf c.raw 12 12 < 2)
  | 0x27 => decide (bytesOf c.raw 32 32 < 2)
  | _ => true

/-- Whether a command keeps the form of R306 and R308: its flags, SIGMODE, byte 7, its opcode and the payload bytes
that its opcode does not list. -/
def formOk (c : CmdRec) : Bool :=
  match usedBytes c.opcode with
  | none => false
  | some l =>
    !c.flag 6 && !c.flag 7 && decide (bytesOf c.raw 6 6 < 2) && bytesOf c.raw 7 7 == 0 && bitsOk c &&
    (List.range 40).all (fun i => l.any (fun p => decide (p.1 ≤ 8 + i) && decide (8 + i ≤ p.2)) || bytesOf c.raw (8 + i) (8 + i) == 0)

/-! ### Start (R307) -/

/-- What WAIT says of a command (R314): it goes on, it waits, or it completes with a status. -/
inductive WaitRes where
  | go
  | hold
  | finish (st : Status)
deriving DecidableEq, Repr

def waitTest (s : State) (sl : Nat) (c : CmdRec) : WaitRes :=
  if !c.flag 0 then .go
  else
    let w := bytesOf c.raw 4 5
    if s.queueSail w != some sl then .finish .malformed
    else if (s.queue w).st != .active then .finish .abortDestroy
    else if (s.queue w).fence.toNat < bytesOf c.raw 48 55 then .hold
    else .go

/-- The next command of a queue to start: the first that has not started, once it is fetched. -/
def nextCmd (x : Queue) : Option CmdRec := (x.cmds.find? (fun c => !c.isStarted)).filter (fun c => c.phase == .fetched)

/-- Whether a sail's commands are dispatched: it is RUNNING and not under recovery (R277, R420), and a confidential
sail has its keys (R369). -/
def dispatches (s : State) (sl : Nat) : Bool :=
  sailRuns s sl && (match s.desc sl with
    | none => false
    | some d => !d.conf || (s.sail sl).revoked || (s.slot d.memKey).st == .active)

/-- Complete a command that starts and ends at once, with no work done. -/
def refuse (s : State) (q n : Nat) (st : Status) : State :=
  complete (s.updCmd q n (fun c => { c with startAt := s.time, readyAt := s.time })) q n st

/-- COMMAND_START (R300, R307, R314, R366): the turn of the next command has come. The row of its opcode then does
its work. -/
def commandStartState (q : Nat) (s : State) : State :=
  let x := s.queue q
  match nextCmd x, s.ctxSail x.ctx with
  | some c, some sl =>
    if !decide (q < 8192) || x.st != .active || (s.ctx x.ctx).st != .active || !dispatches s sl then s
    else if (s.sail sl).revoked then refuse s q c.n .abortKeyRevoked
    else
      match waitTest s sl c with
      | .hold => s
      | .finish st => refuse s q c.n st
      | .go =>
        if c.flag 3 && (x.cmds.takeWhile (fun d => d.n != c.n)).any (fun d => !d.isCompleted) then s
        else if !formOk c then refuse s q c.n .malformed
        else s.updCmd q c.n (fun d => { d with phase := .started, startAt := s.time, readyAt := s.time })
  | _, _ => s

def execCommandStart (q : Nat) (s : State) : Out := unitCmd s (commandStartState q)

/-! ### Records (R310 to R315) -/

def satTo (bits n : Nat) : Nat := min n (2 ^ bits - 1)

/-- A completion record (R310, R312). -/
def recordBytes (q : Nat) (x : Queue) (c : CmdRec) (st : Status) (reordered : Bool) (now : Word) : List Byte :=
  let phase := (x.cqTail.toNat / 2 ^ x.log2 + 1) % 2
  leBytes 2 (bytesOf c.raw 2 3) ++ leBytes 2 q ++ leBytes 2 st.code.toNat ++
  leBytes 1 (phase + (if reordered then 2 else 0)) ++ leBytes 1 0 ++ leBytes 6 now.toNat ++ leBytes 2 0 ++
  leBytes 4 (c.energyNj / 1000) ++ leBytes 4 (satTo 32 c.wait) ++
  leBytes 4 (satTo 32 (c.endAt - c.startAt).toNat) ++ leBytes 4 c.aux.toNat

/-- Whether the signal of a command would pass 2^64 − 1 (R315). -/
def saturates (x : Queue) (c : CmdRec) : Bool :=
  c.flag 1 && bytesOf c.raw 6 6 % 2 == 1 && decide (x.fence.toNat + bytesOf c.raw 56 63 ≥ 2 ^ 64)

/-- The signal of a command takes effect with its record (R314, R315). -/
def signalCmd (x : Queue) (c : CmdRec) : Queue :=
  let v := bytesOf c.raw 56 63
  if !c.flag 1 then x
  else if bytesOf c.raw 6 6 % 2 = 1 then { x with fence := satAdd x.fence v }
  else signalAbs x (BitVec.ofNat 64 v)

/-- Whether the record of command `n` may be written now (R311, R325). -/
def recordTurn (x : Queue) (c : CmdRec) : Bool :=
  (c.flag 2 && x.st == .active) || (x.cmds.head?.map (·.n)) == some c.n

/-- A queue that is being disabled is IDLE once its last record is written (R325). -/
def settleQueue (s : State) (q : Nat) : State :=
  let x := s.queue q
  if x.st == .disabling && x.cmds.isEmpty then
    settleCtx (s.setQueue q { x with st := .idle, stamps := [], noRecords := false, cqFull := false }) x.ctx
  else s

/-- Drop a command that the queue block holds. -/
def dropCmd (x : Queue) (n : Nat) : Queue := { x with cmds := x.cmds.filter (fun c => c.n != n) }

/-- Write the record of a completed command. -/
def writeRecord (s : State) (q : Nat) (c : CmdRec) (st : Status) : State :=
  let x := s.queue q
  let first := (x.cmds.head?.map (·.n)) == some c.n
  let fin : Status := if saturates x c then .fenceSaturated else st
  let slot := x.cqTail.toNat % 2 ^ x.log2
  let s := store s (busKey (queuePort s q) (x.cqBase + 32 * slot)) (recordBytes q x c fin (!first) s.time)
  let y := signalCmd (dropCmd x c.n) c
  let s := s.setQueue q { y with
    cqTail := x.cqTail + 1
    cqFull := false
    waitTime := x.waitTime + BitVec.ofNat 64 (satTo 32 c.wait)
    energyUj := x.energyUj + BitVec.ofNat 64 (c.energyNj / 1000)
    doneCount := x.doneCount + 1 }
  let s := s.updCtx x.ctx (fun z => { z with commands := z.commands + 1 })
  let s := if saturates x c then stopOnFault s x.ctx .fenceSaturated else s
  let s := match x.fn with
    | none => s
    | some fn => if x.irqAll || c.flag 5 then sendMsix s fn x.vector else s
  settleQueue (progress (pruneTombs s x.ctx) 6 q) q

/-- COMPLETION_RECORD (R311): the record of a completed command whose turn it is; it waits for ring space. -/
def completionRecordState (q n : Nat) (s : State) : State :=
  let x := s.queue q
  match s.cmd q n with
  | none => s
  | some c =>
    match c.phase with
    | .completed st =>
      if !decide (q < 8192) || x.st == .idle then s
      else if x.noRecords then settleQueue (pruneTombs (s.setQueue q (dropCmd x n)) x.ctx) q
      else if !recordTurn x c || !hostUp s (queuePort s q) || !busOk (x.cqBase + 32 * (x.cqTail.toNat % 2 ^ x.log2)) 32 then s
      else if (x.cqTail - x.cqHead).toNat ≥ 2 ^ x.log2 then s.setQueue q { x with cqFull := true }
      else writeRecord s q c st
    | _ => s

def execCompletionRecord (q n : Nat) (s : State) : Out := unitCmd s (completionRecordState q n)

end Sys2Proof.Machine
end

