-- ==== Sys2Proof/Machine/Commands.lean ====
section
/-! DEFINITION. Commands of this chapter's own (R308): NOP, RUN, SEM_INIT, SEM_RELEASE, TABLE_SYNC. -/

namespace Sys2Proof.Machine

open Sys2Proof

/-- NOP: it completes with DONE. -/
def nopCommandState (q n : Nat) (s : State) : State :=
  match startedAs s q n 0x00 with
  | none => s
  | some _ => complete s q n .done

def execNopCommand (q n : Nat) (s : State) : Out := unitCmd s (nopCommandState q n)

/-- Whether the payload of a RUN keeps its limits (R308). -/
def runOk (s : State) (sl : Nat) (c : CmdRec) : Bool :=
  let e := bytesOf c.raw 8 15
  e % 8 == 0 && decide (e < 2 ^ 56) && decide (1 ≤ c.coreCount) &&
    decide (c.coreFirst + c.coreCount ≤ 34 * (s.sailClusters sl).length)

/-- A RUN becomes ready (R331) and is placed as soon as its cores are free (R332). -/
def readyRun (s : State) (sl q n : Nat) : State :=
  let s := becomeReady s sl (s.queueCtx q)
  schedule (s.updCmd q n (fun c => { c with phase := .ready, readyAt := s.time })) sl

/-- RUN (R308, R331). -/
def runState (q n : Nat) (s : State) : State :=
  match startedAs s q n 0x01, s.ctxSail (s.queueCtx q) with
  | some c, some sl => if runOk s sl c then readyRun s sl q n else complete s q n .malformed
  | _, _ => s

def execRun (q n : Nat) (s : State) : Out := unitCmd s (runState q n)

/-- Whether some context holds a semaphore. -/
def semHeld (s : State) (i : Nat) : Bool := s.ctxs.any (fun p => p.2.hold i != 0)

/-- SEM_INIT: the checks of R316 in their order, then all three values; waiting acquires that MAX kept back may be
granted. -/
def semInitState (q n : Nat) (s : State) : State :=
  match startedAs s q n 0x03 with
  | none => s
  | some c =>
    let i := bytesOf c.raw 8 9
    let v := bytesOf c.raw 12 15
    let m := bytesOf c.raw 16 19
    let h := bytesOf c.raw 20 23
    if m = 0 || m ≥ 2 ^ 31 || v > m || (h != 0 && (h < 10 || 10000 < h)) then complete s q n .malformed
    else if s.semSail i != s.ctxSail (s.queueCtx q) then complete s q n .faultPermission
    else if semHeld s i then complete s q n .malformed
    else
      let s := s.setSem i { s.sem i with value := v, max := m, hold := if h = 0 then 200 else h }
      complete (semRelease s i 0) q n .done

def execSemInit (q n : Nat) (s : State) : Out := unitCmd s (semInitState q n)

/-- SEM_RELEASE: a release by the host (R317). -/
def semReleaseState (q n : Nat) (s : State) : State :=
  match startedAs s q n 0x04 with
  | none => s
  | some c =>
    let i := bytesOf c.raw 8 9
    if s.semSail i != s.ctxSail (s.queueCtx q) then complete s q n .faultPermission
    else complete (semRelease s i (bytesOf c.raw 12 15)) q n .done

def execSemRelease (q n : Nat) (s : State) : Out := unitCmd s (semReleaseState q n)

/-- The yards where a sail owns a lookup engine. -/
def yardsOf (s : State) (sl : Nat) : List Nat :=
  (List.range 16).filter (fun y => (List.range 32).any (fun e => s.ownerAt (offLookup + 32 * y + e) == some sl))

/-- A TBLSYNC record with FLUSH = 1 (R114). -/
def tblsyncRecord (t : Nat) : List Byte := leBytes 32 (0x20 + 2 ^ 8 * t + 2 ^ 30)

/-- TABLE_SYNC: a TBLSYNC to every yard where the sail owns a lookup engine (R104, R114). -/
def tableSyncState (q n : Nat) (s : State) : State :=
  match startedAs s q n 0x05, s.ctxSail (s.queueCtx q) with
  | some c, some sl =>
    let t := bytesOf c.raw 8 9
    let l := yardsOf s sl
    if t > 4095 then complete s q n .malformed
    else if l.isEmpty then complete s q n .done
    else
      let s := s.updCmd q n (fun c => { c with phase := .executing, parts := l.length })
      l.foldl (fun s y =>
        let r := arrive s y sl (s.queueCtx q) q n (.host q n) (tblsyncRecord t)
        settleArrival r.1 y r.2) s
  | _, _ => s

def execTableSync (q n : Nat) (s : State) : Out := unitCmd s (tableSyncState q n)

end Sys2Proof.Machine
end

