-- ==== Sys2Proof/Machine/Batch.lean ====
section
/-! DEFINITION. The batch builder and the deadline monitor (R338 to R343). The builder's own RUNs stand in queues
of the model that no register shows: the step of sail k in queue 8192 + k, the fallback of slot t in queue
16384 + t.
Choices of the model here: log entry 41 (DEDUCED), log entry 61 (DESIGN CHOICE). -/

namespace Sys2Proof.Machine

open Sys2Proof

def stepQueue (sl : Nat) : Nat := 8192 + sl
def fallbackQueue (slot : Nat) : Nat := 16384 + slot

/-! ### Sequences -/

def Seq.left (x : Seq) : Nat := x.hist - x.events
def Seq.tokensLeft (x : Seq) : Nat := x.tokens - x.produced

/-- The chunk size in events (R339). -/
def chunkSize (x : Sail) : Nat := 256 * min x.chunk.toNat x.stepMax.toNat

/-- Deadline order: a sequence without a deadline comes last, ties go to the lower slot. -/
def seqBefore (a b : Seq) : Bool :=
  let key := fun (x : Seq) => if x.deadline = 0 then 2 ^ 64 else x.deadline.toNat
  decide (key a < key b) || (key a == key b && decide (a.slot < b.slot))

def insertSeq (x : Seq) : List Seq → List Seq
  | [] => [x]
  | y :: t => if seqBefore x y then x :: y :: t else y :: insertSeq x t

def sortSeqs (l : List Seq) : List Seq := l.foldl (fun a x => insertSeq x a) []

/-- Change a sequence. -/
def setSeq (s : State) (sl slot : Nat) (f : Seq → Seq) : State :=
  s.updSail sl (fun x => { x with seqs := x.seqs.map (fun q => if q.slot = slot then f q else q) })

/-- A sequence's SEQ_SUBMIT completes and its slot is free (R338, SAIL_SEQ_STATS). -/
def endSeq (s : State) (sl : Nat) (q : Seq) (st : Status) : State :=
  let missed := q.deadline != 0 && decide (q.deadline.toNat ≤ s.time.toNat) && !q.lateCounted
  let s := s.updSail sl (fun x => { x with
    seqs := x.seqs.filter (fun y => y.slot != q.slot)
    seqDone := min (x.seqDone + 1) 0xFFFFFFFF
    seqMissed := if missed then min (x.seqMissed + 1) 0xFFFF else x.seqMissed })
  complete (setAux s q.q q.n q.produced) q.q q.n st

/-! ### Internal RUNs (R341, R343) -/

/-- The 64 bytes of an internal RUN: its entry, bytes 16 to 31, the builder's core set. -/
def internalRun (x : Sail) (entry w2 w3 : Nat) : BitVec 512 :=
  BitVec.ofNat 512 (0x01 + 2 ^ 64 * entry + 2 ^ 128 * w2 + 2 ^ 192 * w3 + 2 ^ 320 * x.bCoreFirst.toNat +
    2 ^ 336 * x.bCoreCount.toNat)

/-- Hand an internal RUN of a context to the scheduler, under a queue of the model's own. -/
def launchIn (s : State) (c sl q n : Nat) (raw : BitVec 512) : State :=
  let k := CmdRec.fresh n raw (s.ctx c).mseq s.time
  let k' : CmdRec := { k with phase := .started }
  let s := s.setQueue q { Queue.empty with ctx := c, st := .active, cmds := [k'] }
  if runOk s sl k' then readyRun s sl q n else complete s q n .malformed

/-- An internal RUN of the serving context. -/
def launch (s : State) (sl q n : Nat) (raw : BitVec 512) : State := launchIn s (s.sail sl).bCtx.toNat sl q n raw

/-- The status with which an internal RUN has completed. -/
def launched (s : State) (q n : Nat) : Option (Status × CmdRec) :=
  match s.cmd q n with
  | none => none
  | some c => match c.phase with
    | .completed st => some (if st == .doneReplayed then .done else st, c)
    | _ => none

def dropLaunch (s : State) (q : Nat) : State := s.setQueue q Queue.empty

/-! ### The deadline monitor (R342, R343) -/

def chunksLeft (x : Sail) (q : Seq) : Nat :=
  let c := max 1 (chunkSize x)
  (q.left + c - 1) / c

/-- T_s: the projected completion of a sequence. -/
def projected (x : Sail) (now : Word) (q : Seq) : Nat :=
  let ahead := x.seqs.filter (fun y => y.phase == .prefill && y.slot != q.slot && seqBefore y q)
  let k := chunksLeft x q + (ahead.map (chunksLeft x)).foldl (· + ·) 0
  now.toNat + k * x.ec + q.tokensLeft * x.et

/-- Whether the monitor finds a sequence late; equality counts as late. -/
def isLate (x : Sail) (now : Word) (q : Seq) : Bool :=
  q.deadline != 0 && (decide (q.deadline.toNat ≤ projected x now q) || decide (q.deadline.toNat ≤ now.toNat))

/-- A late sequence switches to the fallback model, or without one is only counted (R343). -/
def switchSeq (s : State) (sl : Nat) (q : Seq) : State :=
  let x := s.sail sl
  if x.fbEntry = 0 then
    if q.lateCounted then s
    else
      let s := s.updSail sl (fun x => { x with seqMissed := min (x.seqMissed + 1) 0xFFFF })
      raiseEvent (setSeq s sl q.slot (fun y => { y with lateCounted := true })) sl .fallback
  else
    let s := setSeq s sl q.slot (fun y => { y with phase := .fallback, fbRunning := true })
    let s := s.updSail sl (fun x => { x with seqFallback := min (x.seqFallback + 1) 0xFFFF })
    let s := raiseEvent s sl .fallback
    launch s sl (fallbackQueue q.slot) q.n (internalRun x x.fbEntry.toNat q.desc.toNat q.produced)

/-! ### SEQ_SUBMIT (R338) -/

/-- The lowest free sequence slot of a sail. -/
def freeSeqSlot (s : State) (sl : Nat) : Option Nat :=
  match s.desc sl with
  | none => none
  | some d => ((List.range d.seqCount).map (fun i => d.seqFirst + i)).find? (fun i => !(s.sail sl).seqs.any (fun y => y.slot == i))

/-- SEQ_SUBMIT: the command takes a slot, and the monitor looks at it. -/
def seqSubmitState (q n : Nat) (s : State) : State :=
  match startedAs s q n 0x27, s.ctxSail (s.queueCtx q) with
  | some c, some sl =>
    let x := s.sail sl
    let hist := bytesOf c.raw 16 19
    let tokens := bytesOf c.raw 20 23
    let slots := ((s.desc sl).map (·.seqCount)).getD 0
    if !x.bEnable || x.bCtx.toNat != s.queueCtx q || slots == 0 || hist > 1048576 || tokens = 0 || tokens > 65535 ||
      bytesOf c.raw 8 15 ≥ 2 ^ 56 then complete s q n .malformed
    else
      match freeSeqSlot s sl with
      | none => s
      | some slot =>
        let y : Seq := { slot := slot, q := q, n := n, desc := BitVec.ofNat 56 (bytesOf c.raw 8 15), hist := hist,
                         tokens := tokens, deadline := BitVec.ofNat 64 (bytesOf c.raw 24 31),
                         phase := if hist = 0 then .decode else .prefill, events := 0, produced := 0, starved := 0,
                         lateCounted := false, fbRunning := false }
        let s := addWait s q n
        let s := s.updCmd q n (fun c => { c with phase := .executing, startAt := s.time })
        let s := s.updSail sl (fun x => { x with seqs := x.seqs ++ [y] })
        if bytesOf c.raw 32 32 % 2 == 1 || isLate (s.sail sl) s.time y then switchSeq s sl y else s
  | _, _ => s

def execSeqSubmit (q n : Nat) (s : State) : Out := unitCmd s (seqSubmitState q n)

/-! ### Forming a step (R339) -/

/-- Step 3: chunks in order, each whole or not at all. -/
def takeChunks (c : Nat) : Nat → List Seq → List StepEntry
  | _, [] => []
  | room, q :: t =>
    let n := min c q.left
    if 0 < n && n ≤ room then { slot := q.slot, chunk := true, start := q.events, count := n } :: takeChunks c (room - n) t
    else takeChunks c room t

/-- The entries of the next step. -/
def formStep (x : Sail) : List StepEntry :=
  let dec := sortSeqs (x.seqs.filter (fun q => q.phase == .decode))
  let pre := sortSeqs (x.seqs.filter (fun q => q.phase == .prefill))
  let c := chunkSize x
  let room := 256 * x.stepMax.toNat
  let keep := match pre with
    | [] => 0
    | f :: _ => if pre.any (fun q => decide (4 ≤ q.starved)) then min c f.left else 0
  let tok := (dec.take (room - keep)).map (fun q =>
    ({ slot := q.slot, chunk := false, start := q.produced, count := 1 } : StepEntry))
  tok ++ takeChunks c (room - tok.length) pre

/-- A step list (R340). -/
def stepList (no : Nat) (l : List StepEntry) : List Byte :=
  leBytes 8 no ++ leBytes 4 l.length ++ leBytes 4 ((l.map (·.count)).foldl (· + ·) 0) ++ leBytes 48 0 ++
  l.flatMap (fun e => leBytes 2 e.slot ++ leBytes 2 (if e.chunk then 1 else 2) ++ leBytes 4 e.start ++ leBytes 8 e.count)

/-- Note for every PREFILL sequence whether the issued step held a chunk (R339, step 2). -/
def noteStarved (x : Sail) (l : List StepEntry) : Sail :=
  let any := l.any (·.chunk)
  { x with seqs := x.seqs.map (fun q =>
      if q.phase == .prefill then { q with starved := if any then 0 else q.starved + 1 } else { q with starved := 0 }) }

/-- The sequences of a step complete with a status that is not DONE (R341). -/
def failStep (s : State) (sl : Nat) (l : List StepEntry) (st : Status) : State :=
  (s.sail sl).seqs.foldl (fun s q => if l.any (fun e => e.slot == q.slot) && q.phase != .fallback then endSeq s sl q st else s) s

/-- Issue a step: its list, the table of SEQDESC, its RUN. -/
def issueStep (s : State) (sl : Nat) (l : List StepEntry) : State :=
  let x := s.sail sl
  let c := x.bCtx.toNat
  let u := useNow s c
  let base := x.listBase.toNat
  let first := ((s.desc sl).map (·.seqFirst)).getD 0
  let m := serve s u base 16384 .write
  if m.2.2 then m.1
  else
    match spanFault m.1 m.2.1 base 16384 .write with
    | some (st, va) => failStep (noteXlt m.1 c va st .write) sl l st
    | none =>
      let s := x.seqs.foldl (fun s q => vwrite s m.2.1 (base + 8192 + 8 * (q.slot - first)) (leBytes 8 q.desc.toNat)) m.1
      let s := vwrite s m.2.1 base (stepList x.stepNo l)
      let y : BatchStep := { number := x.stepNo, entries := l, startAt := s.time, status := none }
      let s := s.updSail sl (fun x => { noteStarved x l with step := some y, stepNo := x.stepNo + 1 })
      launch s sl (stepQueue sl) x.stepNo (internalRun x x.entry.toNat base x.stepNo)

/-! ### BATCH_STEP_BOUNDARY -/

/-- Collect the fallback RUNs that have completed (R343). -/
def collectFallback (s : State) (sl : Nat) : State :=
  (s.sail sl).seqs.foldl (fun s q =>
    if q.phase == .fallback then
      match launched s (fallbackQueue q.slot) q.n with
      | some (st, c) =>
        let s := s.updCmd q.q q.n (fun k => { k with energyNj := k.energyNj + c.energyNj })
        endSeq (dropLaunch s (fallbackQueue q.slot)) sl q (if st == .done then .doneFallback else st)
      | none => s
    else s) s

/-- An entry of a finished step takes its part of the step's energy and time (R341). -/
def shareEntry (sl total energy time : Nat) (s : State) (e : StepEntry) : State :=
  match (s.sail sl).seqs.find? (fun q => q.slot == e.slot) with
  | none => s
  | some q => s.updCmd q.q q.n (fun c => { c with
      energyNj := c.energyNj + energy * e.count / total
      startAt := c.startAt - BitVec.ofNat 64 (time * e.count / total) })

/-- One entry of a step that is DONE: its sequence advances. -/
def advanceEntry (sl : Nat) (s : State) (e : StepEntry) : State :=
  match (s.sail sl).seqs.find? (fun q => q.slot == e.slot) with
  | none => s
  | some q =>
    let y : Seq := if e.chunk then
        let z := { q with events := q.events + e.count }
        { z with phase := if z.left = 0 then .decode else .prefill }
      else { q with produced := q.produced + e.count }
    let s := setSeq s sl e.slot (fun _ => y)
    if !e.chunk && y.tokensLeft = 0 then endSeq s sl y .done else s

/-- The step's RUN has completed (R341, R342). -/
def endStepRun (s : State) (sl : Nat) (y : BatchStep) : State :=
  match launched s (stepQueue sl) y.number with
  | none => s
  | some (st, c) =>
    let d := (c.endAt - c.startAt).toNat
    let s := dropLaunch s (stepQueue sl)
    let s := s.updSail sl (fun x =>
      let x' : Sail := { x with step := none }
      if y.entries.any (·.chunk) then { x' with ec := (7 * x.ec + d) / 8 } else { x' with et := (7 * x.et + d) / 8 })
    let total := max 1 ((y.entries.map (·.count)).foldl (· + ·) 0)
    let s := y.entries.foldl (shareEntry sl total c.energyNj d) s
    if st == .done then y.entries.foldl (advanceEntry sl) s
    else failStep s sl y.entries st

/-- The monitor looks at every sequence that has not switched. -/
def monitorAll (s : State) (sl : Nat) : State :=
  (s.sail sl).seqs.foldl (fun s q =>
    if q.phase != .fallback && isLate (s.sail sl) s.time q then switchSeq s sl q else s) s

/-- BATCH_STEP_BOUNDARY: what has completed is taken up, the monitor switches late sequences, and the next step is
formed and issued. -/
def batchState (sl : Nat) (s : State) : State :=
  let s := collectFallback s sl
  let s := match (s.sail sl).step with
    | none => s
    | some y => endStepRun s sl y
  if (s.sail sl).step.isSome then s
  else
    let s := monitorAll s sl
    let l := formStep (s.sail sl)
    if l.isEmpty then s else issueStep s sl l

def execBatchStepBoundary (sl : Nat) (s : State) : Out := unitCmd s (batchState sl)

end Sys2Proof.Machine
end

