-- ==== Sys2Proof/Machine/Cleat.lean ====
section
/-! DEFINITION. Cleats (R247 to R258): the dispatch of a request in phases, and the cleat sequencer.
Choices of the model here: log entry 34 (DESIGN CHOICE). -/

namespace Sys2Proof.Machine

open Sys2Proof

/-! ### Records of this device -/

/-- The export that a cleat message names as the state window of this device (R225, R250). -/
def windowOf (s : State) (win : Nat) : Option Export := (Tbl.look s.ryu.exports win).filter (fun e => e.state && !e.closing)

/-- The record of a message that creates one: the sail and the place of its state are those of the state window. -/
def recordFrom (s : State) (m : CleatMsg) (e : Export) (st : CleatSt) : Cleat :=
  { Cleat.blank m.id m.epoch st e.sail s.time with
    peer := m.src, win := m.win, addr := BitVec.ofNat 64 (e.base + 2 ^ 48 * s.ryu.node), len := m.stateLen, mirrored := m.mirror != 0xFFFF,
    mirrorNode := m.mirror }

/-- Whether a device may take a record: its quota has room, or it replaces one. -/
def mayTake (s : State) (id : Word) (sl : Nat) : Bool := (s.cleat id false).isSome || cleatRoom s sl

/-- The sail on whose lease a message came; a message of this device to itself is the record's own sail's. -/
def cleatSail (s : State) (m : CleatMsg) (r : Option Cleat) : Nat :=
  if m.port = 32 then (r.map (·.sail)).getD 64 else (leaseSail s m.port m.lease).getD 64

/-- Take a cleat message (R217, R218, R241): destination, lease, authentication under the slot that it resolves to, generation; what
fails is dropped and counted. A message of this device to itself came on no link. -/
def takeCleat (s : State) (m : CleatMsg) (slot : Nat → KeySlot) (k : State) : State :=
  if m.port = 32 then (if m.src = s.ryu.node then k else s)
  else if !portUp s m.port then s
  else if !forUs s m.dst then bumpMisroute s
  else
    match leaseSail s m.port m.lease with
    | none => bumpMisroute s
    | some sl =>
      let x := slot sl
      if !(m.enc && m.tagOk) || x.st == .empty then bumpAuth s
      else if m.keyGen != x.gen then bumpStale s
      else k

/-- The slot that a message resolves to through its cleat record (R218): the party's or the anchor's, else the link slot of the sail
on whose lease it came. -/
def cleatSlot (s : State) (id : Word) (anchor : Bool) (sl : Nat) : KeySlot :=
  match s.cleat id anchor with
  | some r => if r.sail < 64 then s.linkSlot r.sail else s.linkSlot sl
  | none => s.linkSlot sl

/-- A message about a record that a party holds: STALE for a lower epoch, else `k`. -/
def withRecord (s : State) (m : CleatMsg) (anchor : Bool) (k : Cleat → State) : State :=
  takeCleat s m (cleatSlot s m.id anchor)
    (match s.cleat m.id anchor with
     | none => s
     | some r => if m.epoch.toNat < r.epoch.toNat then answerStale s r (cleatSail s m (some r)) m.src else k r)

/-! ### The phase programs (R250) -/

/-- The queue of the model's own in which a phase program runs. -/
def jobQueue (j : Nat) : Nat := 65536 + j

/-- Run a phase program of a cleat on every core of the record's sail, in the context of its state window; bytes 16 to 23 of the RUN
hold the phase (log entry 34). -/
def runPhase (s : State) (r : Cleat) (phase : Nat) : State :=
  match Tbl.look s.ryu.exports r.win with
  | none => s
  | some e =>
    let j := s.ryu.jobs
    let entry := r.entry.getD (Config.phaseEntry r.id)
    let raw := BitVec.ofNat 512 (0x01 + 2 ^ 64 * entry.toNat + 2 ^ 128 * phase + 2 ^ 336 * (34 * (s.sailClusters r.sail).length))
    let s := putCleat { s with ryu := { s.ryu with jobs := j + 1 } } { r with job := some j }
    launchIn s e.creator r.sail (jobQueue j) 0 raw

/-! ### Phase 1 and the commit (R250, R251) -/

/-- The ENTRY that a record's own device knows: that of the anchor's command. -/
def knownEntry (s : State) (id : Word) : Option Word := (s.cleat id true).bind (·.entry)

/-- PH1_START at the executor: an OPEN record, and the sail's phase-1 program runs. -/
def ph1State (m : CleatMsg) (s : State) : State :=
  takeCleat s m (cleatSlot s m.id false)
    (let fresh := fun (s : State) => match windowOf s m.win with
       | none => s
       | some e => if mayTake s m.id e.sail then
           let r := { recordFrom s m e .open_ with entry := knownEntry s m.id }
           runPhase (putCleat s r) r 1
         else s
     match s.cleat m.id false with
     | none => fresh s
     | some r =>
       if m.epoch.toNat < r.epoch.toNat then answerStale s r (cleatSail s m (some r)) m.src
       else if m.epoch = r.epoch then s
       else fresh s)

/-- MIRROR_PUT at the mirror: the state stands in its window. -/
def mirrorPutState (m : CleatMsg) (s : State) : State :=
  takeCleat s m (cleatSlot s m.id false)
    (let take := fun (s : State) => match windowOf s m.win with
       | none => s
       | some e => if mayTake s m.id e.sail then
           let r := { recordFrom s m e .mirror with mirrored := true, mirrorNode := s.ryu.node }
           sendCleat (putCleat s r) r m.src 0x32 0 m.epoch
         else s
     match s.cleat m.id false with
     | none => take s
     | some r =>
       if m.epoch.toNat < r.epoch.toNat then answerStale s r (cleatSail s m (some r)) m.src
       else if r.st == .mirror || r.st == .refused then take s else s)

/-- MIRROR_ACK at the executor. -/
def mirrorAckState (m : CleatMsg) (s : State) : State :=
  withRecord s m false (fun r =>
    if r.st == .open_ && r.epoch = m.epoch && r.asked = cleatPieces r.len + 1 then sendCommit s { r with mirrorOk := true } else s)

/-- COMMIT at the anchor: the commit point. -/
def commitState (m : CleatMsg) (s : State) : State :=
  takeCleat s m (cleatSlot s m.id true)
   (match s.cleat m.id true with
   | none => answerStale s (Cleat.blank m.id (m.epoch + 1) .track 64 s.time) (cleatSail s m none) m.src
   | some r =>
    if m.epoch.toNat < r.epoch.toNat then answerStale s r (cleatSail s m (some r)) m.src
    else
      let r' := { r with committed := true, owner := m.src, epoch := m.epoch, len := m.stateLen, at_ := s.time }
      sendCleat (putCleat s r') r' m.src 0x34 0 m.epoch)

/-! ### Handoffs (R252) -/

/-- The owner offers its state to a node at the next epoch. -/
def offerTo (s : State) (r : Cleat) (node : Nat) : State :=
  let r' := { r with epoch := r.epoch + 1, peer := node }.enter .offered s.time
  sendCleat (putCleat s r') r' node 0x35 0 r'.epoch

/-- Phase 2 at a node: this device runs the phase program on what it holds, another one gets the state. -/
def phase2At (s : State) (r : Cleat) (node : Nat) : State := if node = s.ryu.node then runPhase s r 2 else offerTo s r node

/-- Phase 2 of a state that this device holds at the commit, or again at a mirror's promotion (R256): at the node that the anchor's
command names where the anchor is this device, else at one that the fabric manager places. -/
def phase2 (s : State) (r : Cleat) : State :=
  match s.cleat r.id true with
  | some t => if t.next = 0xFFFF then askPlace s r.id .phase2 else phase2At s r t.next
  | none => askPlace s r.id .phase2

/-- COMMIT_ACK at the executor: it holds the committed state, and phase 2 is to come. -/
def commitAckState (m : CleatMsg) (s : State) : State :=
  withRecord s m false (fun r =>
    if r.st == .committing && r.epoch = m.epoch then
      let r' := { r with committed := true }.enter .held s.time
      phase2 (putCleat s r') r'
    else s)

/-- The slot of the state window that an OFFER names (R218). -/
def offerSlot (s : State) (win sl : Nat) : KeySlot := winSlot s win sl

/-- OFFER at the receiver; an epoch that a freeze refused is never accepted (R254). -/
def offerState (m : CleatMsg) (s : State) : State :=
  let decline := fun (s : State) =>
    sendCleat s { Cleat.blank m.id m.epoch .refused (cleatSail s m none) s.time with
      addr := m.stateAddr, len := m.stateLen } m.src 0x37 1 m.epoch
  let fresh := fun (s : State) => match windowOf s m.win with
    | none => decline s
    | some e =>
      if mayTake s m.id e.sail && decide (m.stateLen.toNat ≤ 4096 * e.pages) then
        cleatPump s { recordFrom s m e .copying with src := m.stateAddr }
      else decline s
  takeCleat s m (offerSlot s m.win)
   (match s.cleat m.id false with
   | none => if s.ryu.refusals.contains (m.id, m.epoch) then decline s else fresh s
   | some r =>
    if m.epoch.toNat < r.epoch.toNat then answerStale s r (cleatSail s m (some r)) m.src
    else if s.ryu.refusals.contains (m.id, m.epoch) then decline s
    else if m.epoch = r.epoch then
      match r.st with
      | .copying => cleatPump s r
      | .refused => decline s
      | _ => s
    else fresh s)

/-- ACCEPT at the anchor, which sets OWNER. -/
def acceptAnchor (m : CleatMsg) (s : State) : State :=
  match s.cleat m.id true with
  | none => s
  | some t => if m.epoch.toNat < t.epoch.toNat then answerStale s t (cleatSail s m (some t)) m.src
    else putCleat s { t with epoch := m.epoch, owner := m.src, at_ := s.time }

/-- ACCEPT at the releaser: the acknowledgement of the acceptance is on record, ACK leaves, and the state is freed. -/
def acceptReleaser (m : CleatMsg) (s : State) : State :=
  match s.cleat m.id false with
  | none => s
  | some r =>
    if m.epoch.toNat < r.epoch.toNat then answerStale s r (cleatSail s m (some r)) m.src
    else if r.st == .offered && r.epoch = m.epoch && r.peer = m.src && !r.acked then
      sendCleat (putCleat s { r with acked := true, owner := m.src, timer := none, at_ := s.time }) r m.src 0x37 0 m.epoch
    else s

/-- ACCEPT. -/
def acceptState (m : CleatMsg) (s : State) : State :=
  takeCleat s m (cleatSlot s m.id ((s.cleat m.id false).isNone)) (acceptReleaser m (acceptAnchor m s))

/-- ACK at the receiver: it holds the state, and phase 2 runs on it. -/
def ackState (m : CleatMsg) (s : State) : State :=
  withRecord s m false (fun r =>
    if r.st == .accepted && r.epoch = m.epoch then
      let r' := r.enter .held s.time
      runPhase (putCleat s r') r' 2
    else s)

/-- DECLINE at the releaser: it holds the state at the offered epoch. -/
def declineState (m : CleatMsg) (s : State) : State :=
  withRecord s m false (fun r =>
    if r.st == .offered && r.epoch = m.epoch && !r.acked then putCleat s (r.enter .held s.time) else s)

/-- STALE at the sender of a message with a lower epoch: its record and state are gone. -/
def staleState (m : CleatMsg) (s : State) : State :=
  takeCleat s m (cleatSlot s m.id false)
   (match s.cleat m.id false with
   | none => s
   | some r => if r.epoch.toNat < m.epoch.toNat then dropCleat s m.id false else s)

/-! ### The end of a request (R250, R256) -/

/-- Send RETIRE to the owner and the mirror of a cleat, and free the anchor's record. -/
def retireTrack (s : State) (t : Cleat) : State :=
  let s1 := if t.owner = 0xFFFF then s else sendCleat s t t.owner 0x38 1 t.epoch
  let s2 := if t.mirrored && t.mirrorNode != 0xFFFF && t.mirrorNode != t.owner then sendCleat s1 t t.mirrorNode 0x38 1 t.epoch
    else s1
  dropCleat s2 t.id true

/-- Complete the command of an anchor's record. -/
def endDispatch (s : State) (t : Cleat) (st : Status) : State := complete (retireTrack s t) t.q t.n st

/-- RETIRE: this device's own says that the last phase of a request has ended; an anchor's frees the record. -/
def retireState (m : CleatMsg) (s : State) : State :=
  match s.cleat m.id true with
  | some t =>
    takeCleat s m (cleatSlot s m.id true)
      (if m.src = s.ryu.node then endDispatch s t (if t.replayed then .doneReplayed else .done) else s)
  | none =>
    withRecord s m false (fun r => if m.src = anchorOf m.id then dropCleat s r.id false else s)

/-- A phase program has ended: with DONE, phase 1 goes on to the commit, and phase 2 at the anchor's own device ends the request. -/
def jobEnd (s : State) (r : Cleat) (j : Nat) : State :=
  match launched s (jobQueue j) 0 with
  | none => s
  | some (st, _) =>
    let s := dropLaunch s (jobQueue j)
    if st != .done then s
    else
      let r' := { r with job := none }
      let s := putCleat s r'
      if r.st == .open_ then phaseEnd s r'
      else match s.cleat r.id true with
        | some t => endDispatch s t (if t.replayed then .doneReplayed else .done)
        | none => s

/-- Look after the phase programs and the transfers of every record. -/
def pumpCleats (s : State) : State :=
  s.ryu.cleats.foldl (fun s r =>
    match s.cleat r.id false with
    | none => s
    | some x =>
      match x.job with
      | some j => jobEnd s x j
      | none =>
        if x.st == .copying then cleatPump s x
        else if x.st == .open_ && x.mirrored && !x.mirrorOk && !x.mirrorLost then mirrorPump s x
        else s) s

def execPh1Start (m : CleatMsg) (s : State) : Out := unitCmd s (ph1State m)
def execMirrorPut (m : CleatMsg) (s : State) : Out := unitCmd s (mirrorPutState m)
def execMirrorAck (m : CleatMsg) (s : State) : Out := unitCmd s (mirrorAckState m)
def execCommit (m : CleatMsg) (s : State) : Out := unitCmd s (commitState m)
def execCommitAck (m : CleatMsg) (s : State) : Out := unitCmd s (commitAckState m)
def execOffer (m : CleatMsg) (s : State) : Out := unitCmd s (offerState m)
def execAccept (m : CleatMsg) (s : State) : Out := unitCmd s (acceptState m)
def execAck (m : CleatMsg) (s : State) : Out := unitCmd s (ackState m)
def execDecline (m : CleatMsg) (s : State) : Out := unitCmd s (declineState m)
def execStale (m : CleatMsg) (s : State) : Out := unitCmd s (staleState m)
def execRetire (m : CleatMsg) (s : State) : Out := unitCmd s (retireState m)

/-! ### Dispatch (R247, R258) -/

/-- Whether a node is reached by a sail's cleat messages: itself, or over a port and an import with STATE; the
status otherwise (R228, R240). -/
def reachesNode (s : State) (sl node : Nat) : Option Status :=
  if node = s.ryu.node then none
  else if (routePorts s sl node).isEmpty || s.ryu.peers.get PeerState.up node == .down then some .remoteUnreachable
  else if (stateImport s sl node).isNone then some .faultPermission
  else none

/-- Start phase 1 once its node and the mirror are placed. -/
def startPhase1 (s : State) (t : Cleat) : State :=
  if t.owner = 0xFFFF || (t.mirrored && t.mirrorNode = 0xFFFF) then s
  else match reachesNode s t.sail t.owner with
    | some st => endDispatch s { t with owner := 0xFFFF, mirrorNode := 0xFFFF } st
    | none => sendCleat s t t.owner 0x30 0 t.epoch

/-- DISPATCH: a record of the anchor, with a serial never used before. -/
def dispatchState (q n : Nat) (s : State) : State :=
  match startedAs s q n 0x26, s.ctxSail (s.queueCtx q) with
  | some k, some sl =>
    if !cleatRoom s sl then s
    else
      let id := BitVec.ofNat 64 (s.ryu.node * 2 ^ 48 + s.ryu.nextCleat)
      let t := { Cleat.blank id 1 .track sl s.time with
        anchor := true, owner := bytesOf k.raw 8 9, next := bytesOf k.raw 10 11, mirrored := bytesOf k.raw 12 12 % 2 == 1,
        len := BitVec.ofNat 64 (bytesOf k.raw 16 23), entry := some (BitVec.ofNat 64 (bytesOf k.raw 24 31)), q := q, n := n }
      let s := putCleat { s with ryu := { s.ryu with nextCleat := s.ryu.nextCleat + 1 } } t
      let s := s.updCmd q n (fun c => { c with phase := .executing })
      let s := if t.owner = 0xFFFF then askPlace s id .phase1 else s
      let s := if t.mirrored then askPlace s id .mirror else s
      startPhase1 s t
  | _, _ => s

def execDispatch (q n : Nat) (s : State) : Out := unitCmd s (dispatchState q n)

/-! ### Timers (R253) -/

/-- CLEAT_TIMER_EXPIRY: 2 ms, the default, have passed in OFFERED, ACCEPTED or COMMITTING; the timer stands while a frame of the
record's message is replayed. The default is above the least value for every HOPS, and no rule names what sets another. -/
def cleatTimerState (id : Word) (s : State) : State :=
  match s.cleat id false with
  | none => s
  | some r =>
    match r.timer with
    | none => s
    | some t =>
      if r.paused.isSome || (s.time - t).toNat < 2000000 then s
      else
        let s1 := sendFm (putCleat s { r with timer := none }) (.query id r.epoch r.st)
        { s1 with ryu := { s1.ryu with queries := satInc s1.ryu.queries } }

def execCleatTimerExpiry (id : Word) (s : State) : Out := unitCmd s (cleatTimerState id)

end Sys2Proof.Machine
end

