-- ==== Sys2Proof/Machine/Dma.lean ====
section
/-! DEFINITION. The cluster DMA engines (R318 to R324): descriptors of commands and of cores, the reshuffle modes,
rings, sealing, the completion ring of a context.
Choices of the model here: log entry 7 (DESIGN CHOICE), log entry 11 (DESIGN CHOICE), log entry 42 (DEDUCED),
log entry 43 (DESIGN CHOICE). -/

namespace Sys2Proof.Machine

open Sys2Proof

/-! ### Descriptors (R319 to R321) -/

/-- A parsed descriptor. `planes` is p of modes 1 and 2, and F of modes 3 and 4. -/
structure DmaForm where
  src : Nat
  dst : Nat
  len : Nat
  mode : Nat
  planes : Nat
  esize : Nat
  srcWrap : Nat
  dstWrap : Nat
  ordered : Bool
  sealSrc : Bool
  sealDst : Bool
  pstride : Nat
  tag : Nat
  sealArray : Nat
deriving DecidableEq, Repr

def dmaForm (raw : BitVec 512) : DmaForm :=
  let f := fun w hi lo => fieldOf raw (64 * w + hi) (64 * w + lo)
  let m := f 2 35 32
  { src := f 0 55 0, dst := f 1 55 0, len := f 2 31 0, mode := m,
    planes := if m = 3 || m = 4 then f 2 39 36 + 1 else f 2 39 36, esize := 2 ^ f 2 41 40,
    srcWrap := f 2 47 42, dstWrap := f 2 53 48, ordered := f 2 54 54 == 1, sealSrc := f 2 55 55 == 1,
    sealDst := f 2 56 56 == 1, pstride := f 3 31 0, tag := f 3 47 32, sealArray := f 4 55 0 }

/-- Whether the source, or the destination, is the plane side of the mode. -/
def DmaForm.srcPlanes (d : DmaForm) : Bool := d.mode == 2 || d.mode == 3
def DmaForm.dstPlanes (d : DmaForm) : Bool := d.mode == 1 || d.mode == 4

/-- Whether a wrap field and the span it limits agree (R321). -/
def wrapOk (w span : Nat) : Bool := w == 0 || (decide (12 ≤ w) && decide (w ≤ 40) && decide (span ≤ 2 ^ w))

/-- The limits of R319 to R323 that a descriptor itself shows. -/
def dmaFormOk (raw : BitVec 512) : Bool :=
  let f := fun w hi lo => fieldOf raw (64 * w + hi) (64 * w + lo)
  let d := dmaForm raw
  let part := d.len / (max 1 d.planes)
  f 0 63 56 == 0 && f 1 63 56 == 0 && f 4 63 56 == 0 && f 2 63 57 == 0 && f 3 63 48 == 0 &&
  f 5 63 0 == 0 && f 6 63 0 == 0 && f 7 63 0 == 0 && decide (d.mode ≤ 5) &&
  (d.mode == 5 || d.src % 32 == 0) && d.dst % 32 == 0 && d.sealArray % 32 == 0 && d.len % 32 == 0 && decide (32 ≤ d.len) &&
  (match d.mode with
    | 1 => [1, 2, 4, 8].contains d.planes && d.len % (32 * d.planes) == 0
    | 2 => [1, 2, 4, 8].contains d.planes && d.len % (32 * d.planes) == 0
    | 3 => decide (2 ≤ d.planes) && d.len % (32 * d.planes) == 0 && d.pstride % 32 == 0 && decide (part ≤ d.pstride)
    | 4 => decide (2 ≤ d.planes) && d.len % (32 * d.planes) == 0 && d.pstride % 32 == 0 && decide (part ≤ d.pstride)
    | _ => true) &&
  (d.mode == 5 || wrapOk d.srcWrap (if d.srcPlanes then part else d.len)) &&
  wrapOk d.dstWrap (if d.dstPlanes then part else d.len) &&
  !(d.sealSrc && d.sealDst) && !(d.sealSrc && (d.mode == 5 || d.srcPlanes || d.srcWrap != 0)) &&
  !(d.sealDst && (d.dstPlanes || d.dstWrap != 0))

/-- Where byte address `a` of a side with wrap `w` and base `b` lies (R321). -/
def wrapAddr (w b a : Nat) : Nat :=
  if w = 0 then a
  else
    let rb := b / 2 ^ w * 2 ^ w
    rb + (a - rb) % 2 ^ w

/-- Cut a run at multiples of 4,096, and wrap each piece. -/
def runPieces (w b : Nat) : Nat → Nat → Nat → List (Nat × Nat)
  | 0, _, _ => []
  | f + 1, a, n =>
    if n = 0 then []
    else
      let k := min n (4096 - a % 4096)
      (wrapAddr w b a, k) :: runPieces w b f (a + k) (n - k)

/-- The pieces of a side in the order of its bytes: (address, length), each inside one 4 KiB page. -/
def sidePieces (d : DmaForm) (isSrc : Bool) : List (Nat × Nat) :=
  let base := if isSrc then d.src else d.dst
  let w := if isSrc then d.srcWrap else d.dstWrap
  let run := fun a n => runPieces w base (n / 4096 + 2) a n
  if isSrc && d.mode == 5 then []
  else if (isSrc && d.mode == 3) || (!isSrc && d.mode == 4) then
    (List.range d.planes).flatMap (fun f => run (base + f * d.pstride) (d.len / d.planes))
  else if (isSrc && d.mode == 2) || (!isSrc && d.mode == 1) then
    (List.range d.planes).flatMap (fun j => run (base + j * (d.len / d.planes)) (d.len / d.planes))
  else run base d.len

/-! ### Reshuffling (R320) -/

/-- A byte of data with its mark: 0 clean, 1 read from a poisoned granule, 2 from a unit whose tag failed or a poisoned completion of a host
port: it is written as poisoned. -/
abbrev Marked := Byte × Nat

/-- The mark of data that comes from several bytes. -/
def joinMarks (l : List Nat) : Nat := if l.contains 1 then 1 else if l.contains 2 then 2 else 0

/-- The mark of a span of data. -/
def markOf (l : List Marked) : Nat := joinMarks (l.map (fun p => p.2))

/-- The bytes of a span of data. -/
def plainOf (l : List Marked) : List Byte := l.map (fun p => p.1)

/-- Byte `i` of the destination of a mode, from the bytes of the source. -/
def dmaByte (d : DmaForm) (src : List Marked) (i : Nat) : Marked :=
  let at_ := fun j => src.getD j ((0, 0) : Marked)
  let part := d.len / (max 1 d.planes)
  match d.mode with
  | 1 =>
    let j := i / part
    let b := i % part
    let bits := (List.range 8).map (fun t =>
      let x := d.planes * (8 * b + t) + j
      (at_ (x / 8)).1.getLsbD (x % 8))
    (BitVec.ofNat 8 (bits.foldr (fun y a => 2 * a + (if y then 1 else 0)) 0),
      joinMarks ((List.range d.planes).map (fun t => (at_ (d.planes * b + t)).2)))
  | 2 =>
    let bits := (List.range 8).map (fun t =>
      let x := 8 * i + t
      (at_ (x % d.planes * part + x / d.planes / 8)).1.getLsbD (x / d.planes % 8))
    (BitVec.ofNat 8 (bits.foldr (fun y a => 2 * a + (if y then 1 else 0)) 0),
      joinMarks ((List.range d.planes).map (fun j => (at_ (j * part + i / d.planes)).2)))
  | 3 =>
    let k := i / d.esize
    at_ (k % d.planes * part + k / d.planes * d.esize + i % d.esize)
  | 4 =>
    let r := i % part
    at_ ((r / d.esize * d.planes + i / part) * d.esize + r % d.esize)
  | 5 => (0, 0)
  | _ => at_ i

def reshuffle (d : DmaForm) (src : List Marked) : List Marked := (List.range d.len).map (dmaByte d src)

/-! ### Translation -/

/-- The sail of a descriptor. -/
def descSail (s : State) (d : DmaDesc) : Nat := (s.ctxSail d.ctx).getD 64

/-- Serve every piece of a side: the state, the use, whether an access is held on a page. -/
def serveSide (s : State) (u : Use) (acc : Acc3) : List (Nat × Nat) → State × Use × Bool
  | [] => (s, u, false)
  | (a, n) :: t =>
    let r := serve s u a n acc
    let x := serveSide r.1 r.2.1 acc t
    (x.1, x.2.1, r.2.2 || x.2.2)

/-- The seal records of a descriptor: their place and what access they need (R323). -/
def sealPieces (d : DmaForm) : List (Nat × Nat) :=
  if d.sealSrc || d.sealDst then (List.range ((d.len + 4095) / 4096)).map (fun i => (d.sealArray + 32 * i, 32)) else []
def DmaForm.sealAcc (d : DmaForm) : Acc3 := if d.sealDst then .write else .read

/-- The first failure of a side's translation. -/
def sideFault (s : State) (u : Use) (acc : Acc3) (l : List (Nat × Nat)) : Option (Status × Nat) :=
  l.findSome? (fun p => match locate s u p.1 acc with
    | .bad st => some (st, p.1)
    | _ => none)

/-- Serve every piece that a descriptor names: its sides, and the seal records. -/
def serveDesc (s : State) (u : Use) (f : DmaForm) : State × Use × Bool :=
  let a := serveSide s u .read (sidePieces f true)
  let b := serveSide a.1 a.2.1 .write (sidePieces f false)
  let c := serveSide b.1 b.2.1 f.sealAcc (sealPieces f)
  (c.1, c.2.1, a.2.2 || b.2.2 || c.2.2)

/-- The first failure of a descriptor's translations; seal records on another node have none (log entry 42). -/
def descFault (s : State) (u : Use) (f : DmaForm) : Option ((Status × Nat) × Acc3) :=
  let away := (sealPieces f).findSome? (fun p => match locate s u p.1 f.sealAcc with
    | .remote _ _ _ => some (Status.faultTranslation, p.1)
    | _ => none)
  (sideFault s u .read (sidePieces f true)).map (fun p => (p, Acc3.read)) <|>
  (sideFault s u .write (sidePieces f false)).map (fun p => (p, Acc3.write)) <|>
  (sideFault s u f.sealAcc (sealPieces f)).map (fun p => (p, f.sealAcc)) <|>
  away.map (fun p => (p, f.sealAcc))

/-- Whether a piece lies in a host window. -/
def hostPiece (s : State) (u : Use) (acc : Acc3) (a : Nat) : Bool :=
  match locate s u a acc with
  | .loc k _ => decide (hostBase ≤ k) && decide (k < hostEnd)
  | _ => false

/-! ### Ends -/

/-- Keep the failure of the lowest descriptor of a DMA command (R318). -/
def noteDesc (s : State) (q n k : Nat) (st : Status) : State :=
  if st == .done then s
  else s.updCmd q n (fun c => { c with haltErr := match c.haltErr with
    | some (j, e) => if j ≤ k then some (j, e) else some (k, st)
    | none => some (k, st) })

/-- Take a descriptor off its engine. -/
def dropDmaDesc (s : State) (e id : Nat) : State :=
  s.setEngine e { s.engine e with descs := (s.engine e).descs.filter (fun d => d.id != id) }

/-- A descriptor completes (R318, R322): one of a command counts in AUX and leaves its engine; one of a core waits
for its ring record. -/
def finishDesc (s : State) (e : Nat) (d : DmaDesc) (st : Status) (units : Nat) : State :=
  let s := s.setEngine e { s.engine e with progress := (s.engine e).progress + 1 + units / 128 }
  let s := addProgress s 6 d.from_.cmd.1 (1 + units / 128)
  match d.from_ with
  | .command q n k =>
    let s := noteDesc (dropDmaDesc s e d.id) q n k st
    endPart (s.updCmd q n (fun c => { c with aux := c.aux + 1 })) q n
  | .core _ _ _ => setDesc s e d.id (fun x => { x with phase := .ended st, units := units })

/-! ### DMA (R308, R318) -/

/-- Descriptors of a command that stand in an engine. -/
def descsOf (s : State) (e q n : Nat) : List DmaDesc :=
  (s.engine e).descs.filter (fun d => match d.from_ with
    | .command a b _ => a == q && b == n
    | _ => false)

/-- Accept descriptors `k` onward of a command while its engine has room. -/
def acceptAll (s : State) (u : Use) (e q n base : Nat) : Nat → Nat → State
  | 0, _ => s
  | f + 1, k =>
    if (s.engine e).descs.length ≥ 256 then s
    else match vread s u (base + 64 * k) 64 with
      | .ok l => acceptAll (acceptDesc s e (BitVec.ofNat 512 (leNat l)) (.command q n k) u.ctx) u e q n base f (k + 1)
      | .bad st va =>
        let s := (descsOf s e q n).foldl (fun s d => dropDmaDesc s e d.id) s
        complete (noteXlt s u.ctx va st .read) q n st
      | _ => s

/-- DMA: the command reads its descriptors and hands them to its engine as room allows. -/
def dmaState (q n : Nat) (s : State) : State :=
  match s.cmd q n, s.ctxSail (s.queueCtx q) with
  | some c, some sl =>
    if c.opcode != 0x02 || !(c.phase == .started || c.phase == .executing) then s
    else
      let base := bytesOf c.raw 8 15
      let count := bytesOf c.raw 16 19
      match (s.sailClusters sl)[bytesOf c.raw 20 20]? with
      | none => complete s q n .malformed
      | some cl =>
        let e := 4 * cl + bytesOf c.raw 21 21
        if count = 0 || count > 256 || bytesOf c.raw 21 21 > 3 then complete s q n .malformed
        else
          let s := startXlat s q n
          let r := serve s (useOfCmd s q n) base (64 * count) .read
          if r.2.2 then r.1
          else if c.phase == .started then
            match vread r.1 r.2.1 base (64 * count) with
            | .bad st va => complete (noteXlt r.1 r.2.1.ctx va st .read) q n st
            | .ok _ =>
              let s := touchSpan r.1 r.2.1 base (64 * count)
              let s := s.updCmd q n (fun c => { c with phase := .executing, parts := count })
              acceptAll s r.2.1 e q n base count 0
            | .remote _ _ => complete r.1 q n .faultTranslation
            | .hold _ _ => r.1
          else
            let k := c.aux.toNat + (descsOf s e q n).length
            acceptAll r.1 r.2.1 e q n base (count - k) k
  | _, _ => s

def execDma (q n : Nat) (s : State) : Out := unitCmd s (dmaState q n)

/-! ### DMA_DESCRIPTOR_START (R318, R319, R323, R324) -/

/-- Whether the sides of a descriptor may be what they are: a sealed side is a host window, and a host window of a
confidential sail is sealed (R323, R324). -/
def sealJudge (s : State) (u : Use) (conf : Bool) (d : DmaForm) : Option Status :=
  let src := sidePieces d true
  let dst := sidePieces d false
  let srcHost := src.any (fun p => hostPiece s u .read p.1)
  let dstHost := dst.any (fun p => hostPiece s u .write p.1)
  if (d.sealSrc && !src.all (fun p => hostPiece s u .read p.1)) || (d.sealDst && !dst.all (fun p => hostPiece s u .write p.1)) then
    some .malformed
  else if conf && ((srcHost && !d.sealSrc) || (dstHost && !d.sealDst)) then some .faultPermission
  else none

/-- The next descriptor of an engine that has not started, if it may start. -/
def startable1 (x : DmaEng) (ok : DmaDesc → Bool) : Option DmaDesc :=
  match x.descs.find? (fun d => d.phase == .accepted && ok d) with
  | none => none
  | some d =>
    let earlier := x.descs.takeWhile (fun t => t.id != d.id)
    if (dmaForm d.raw).ordered && earlier.any (fun t => t.phase == .running || t.phase == .accepted) then none else some d

/-- DMA_DESCRIPTOR_START: the next descriptor in acceptance order is judged and starts. -/
def dmaStartState (cl eng : Nat) (s : State) : State :=
  let e := 4 * cl + eng
  match startable1 (s.engine e) (fun d => !reservedFrom s 2 e d.ctx) with
  | none => s
  | some d =>
    if outOfService s 2 e || outOfService s 1 cl then s
    else if !dmaFormOk d.raw then finishDesc s e d .malformed 0
    else
      let f := dmaForm d.raw
      let s := startXlat s d.from_.cmd.1 d.from_.cmd.2
      let u := d.use
      let sl := descSail s d
      let b := serveDesc s u f
      if b.2.2 then b.1
      else
        match descFault b.1 b.2.1 f with
        | some ((st, va), acc) => finishDesc (noteXlt b.1 d.ctx va st acc) e d st 0
        | none =>
          let conf := ((b.1.desc sl).map (·.conf)).getD false
          match sealJudge b.1 b.2.1 conf f with
          | some st => finishDesc b.1 e d st 0
          | none =>
            if (f.sealSrc || f.sealDst) && (b.1.memSlot sl).st != .active then finishDesc b.1 e d .abortKeyRevoked 0
            else
              let s := (sidePieces f true ++ sidePieces f false).foldl (fun s p => cacheRange s (mastOf (e / 4)) sl b.2.1 p.1) b.1
              setDesc s e d.id (fun x => { x with phase := .running, keyGen := b.1.memGen sl })

def execDmaDescriptorStart (cl eng : Nat) (s : State) : Out := unitCmd s (dmaStartState cl eng)

/-! ### The transfer -/

/-- Issue the reads of a descriptor's remote source pieces, from piece number `i`: `asked` counts those issued. -/
def dmaReads (s : State) (u : Use) (e sl : Nat) (d : DmaDesc) : Nat → List (Nat × Nat) → State
  | _, [] => s
  | i, (a, n) :: t =>
    match locate s u a .read with
    | .remote node g _ =>
      if i < d.asked then dmaReads s u e sl d (i + 1) t
      else match issueAccess s false sl d.ctx node g n [] [] (.dma (e / 4) (e % 4) d.id i) with
        | .sent s1 _ => dmaReads (setDesc s1 e d.id (fun x => { x with asked := i + 1 })) u e sl d (i + 1) t
        | .stall => s
        | .fail st => setDesc s e d.id (fun x => { (x.note st) with asked := i + 1, got := x.got ++ [(i, [], [])] })
    | _ => dmaReads s u e sl d (i + 1) t

/-- Whether a remote operation of a descriptor is in flight. -/
def dmaBusy (s : State) (e id : Nat) : Bool :=
  s.ryu.tags.any (fun p => match p.2.op with
    | none => false
    | some o => match o.from_ with
      | .dma c g i _ => 4 * c + g == e && i == id
      | _ => false)

/-- The numbers of the remote pieces of a side. -/
def remoteNos (s : State) (u : Use) (acc : Acc3) (l : List (Nat × Nat)) : List Nat :=
  l.zipIdx.filterMap (fun p => match locate s u p.1.1 acc with
    | .remote _ _ _ => some p.2
    | _ => none)

/-- The bytes of a local source piece with their marks; a read that carries a stale key generation returns poison
(R184, R186), and a poisoned completion of a host port poisons its granules at the destination. -/
def readPiece (s : State) (key n : Nat) (stale : Bool) : List Marked :=
  let l := readBytes s key n
  let bad := stale && protectedKey key
  let host := decide (hostBase ≤ key) && decide (key < hostEnd)
  l.zipIdx.map (fun p => (p.1,
    if bad then 1 else if isPoison s ((key + p.2) / granule key * granule key) then (if host then 2 else 1) else 0))

/-- The bytes of a source, in the order of its pieces. -/
def readSide (s : State) (u : Use) (d : DmaDesc) (stale : Bool) (l : List (Nat × Nat)) : List Marked :=
  l.zipIdx.flatMap (fun p =>
    match locate s u p.1.1 .read with
    | .loc key _ => readPiece s key p.1.2 stale
    | .remote _ _ _ =>
      match d.got.find? (fun g => g.1 == p.2) with
      | some (_, b, m) => b.zipIdx.map (fun x => (x.1, if m.getD (x.2 / 32) false then 1 else 0))
      | none => List.replicate p.1.2 (0, 1)
    | _ => List.replicate p.1.2 (0, 1))

/-- Open a sealed source (R323) unit by unit: the data of a unit whose tag fails is written as poisoned. -/
def openUnits (s : State) (u : Use) (key : BitVec 256) (f : DmaForm) : Nat → Nat → List Marked → List Marked
  | 0, _, _ => []
  | g + 1, i, l =>
    if l.isEmpty then []
    else
      let ct := l.take 4096
      let rest := openUnits s u key f g (i + 1) (l.drop 4096)
      match vread s u (f.sealArray + 32 * i) 32 with
      | .ok r =>
        let iv := BitVec.ofNat 96 (leNat ((r.drop 16).take 12))
        let pt := fitTo ct.length (Config.gcmOpen key iv (leBytes 8 (f.src + 4096 * i)) (plainOf ct ++ r.take 16))
        let m := if Config.gcmTag key iv (leBytes 8 (f.src + 4096 * i)) (plainOf ct) == r.take 16 then 0 else 2
        (pt.zip ct).map (fun p => (p.1, if p.2.2 = 1 then 1 else m)) ++ rest
      | _ => ct.map (fun p => (p.1, 1)) ++ rest

/-- Write the data of a local destination piece granule by granule (R186, R323): a granule with poisoned source data
is not written, one of a unit whose tag failed is written as poisoned. The second component counts the 32-byte
units written. -/
def writeGranules (u : Use) (stale : Bool) : State → List (Nat × Nat) → List Marked → State × Nat
  | s, [], _ => (s, 0)
  | s, (va, n) :: t, l =>
    let m := markOf (l.take n)
    let r := match locate s u va .write with
      | .loc key e =>
        if m = 1 || (m = 2 && hostBase ≤ key && key < hostEnd) then (s, 0)
        else if stale && protectedKey key then (staleAccess s u va key e n, n / 32)
        else (writeAt s u va key e (plainOf (l.take n)) (m == 2), n / 32)
      | _ => (s, 0)
    let x := writeGranules u stale r.1 t (l.drop n)
    (x.1, r.2 + x.2)

/-- The granules of a piece: 32 bytes for a scratchpad, 64 elsewhere. -/
def pieceGranules (s : State) (u : Use) (a n : Nat) : List (Nat × Nat) :=
  let spad := match locate s u a .write with
    | .loc key _ => decide (2 ^ 48 ≤ key)
    | _ => false
  if spad then (List.range (n / 32)).map (fun i => (a + 32 * i, 32)) else cut a n

/-- Write every local piece of a destination. -/
def writeSide (u : Use) (stale : Bool) : State → List (Nat × Nat) → List Marked → State × Nat
  | s, [], _ => (s, 0)
  | s, (a, n) :: t, l =>
    let r := match locate s u a .write with
      | .loc _ _ => writeGranules u stale s (pieceGranules s u a n) (l.take n)
      | .remote _ _ _ => (s, if markOf (l.take n) = 1 then 0 else n / 32)
      | _ => (s, 0)
    let x := writeSide u stale r.1 t (l.drop n)
    (x.1, r.2 + x.2)

/-- Seal a destination unit by unit (R323): ciphertext, then the seal record. The outcome says whether the sealing
count is exhausted. A unit with poisoned data is not written. -/
def sealUnits (sl slot : Nat) (u : Use) (stale : Bool) (f : DmaForm) : Nat → Nat → State → List Marked → State × Nat × Bool
  | 0, _, s, _ => (s, 0, false)
  | g + 1, i, s, l =>
    if l.isEmpty then (s, 0, false)
    else
      let k := s.slot slot
      let pt := l.take 4096
      if k.dmaCount = BitVec.allOnes 64 then (s, 0, true)
      else if markOf pt ≠ 0 then sealUnits sl slot u stale f g (i + 1) s (l.drop 4096)
      else if stale then
        let s1 := { s with tiers := { s.tiers with staleWrites := satInc s.tiers.staleWrites } }
        sealUnits sl slot u stale f g (i + 1) s1 (l.drop 4096)
      else
        let a := f.dst + 4096 * i
        let iv := ivOf k.dmaSender k.dmaCount
        let c := gcmEncrypt k.dmaKey iv (leBytes 8 a) (plainOf pt)
        let s1 := vwrite (s.setSlot slot { k with dmaCount := k.dmaCount + 1 }) u a c.1
        let s2 := vwrite s1 u (f.sealArray + 32 * i) (c.2 ++ leBytes 12 iv.toNat ++ leBytes 4 pt.length)
        let x := sealUnits sl slot u stale f g (i + 1) s2 (l.drop 4096)
        (x.1, pt.length / 32 + x.2.1, x.2.2)

/-- Issue the writes of a descriptor's remote destination pieces; `wasked` is the number of the next piece. A piece
with poisoned source data is not sent. -/
def dmaWrites (s : State) (u : Use) (e sl : Nat) (d : DmaDesc) : Nat → List (Nat × Nat) → List Marked → State
  | _, [], _ => s
  | i, (a, n) :: t, l =>
    let data := l.take n
    let skip := markOf data = 1
    match locate s u a .write with
    | .remote node g r =>
      if i < d.wasked || skip then dmaWrites s u e sl d (i + 1) t (l.drop n)
      else
        let marks := (List.range (n / 32)).map (fun j => ((data.drop (32 * j)).take 32).any (fun p => p.2 == 2))
        match issueAccess s true sl d.ctx node g n (plainOf data) marks (.dma (e / 4) (e % 4) d.id i) with
        | .sent s1 _ => dmaWrites (dirtyMark (setDesc s1 e d.id (fun x => { x with wasked := i + 1 })) u r a) u e sl d (i + 1) t (l.drop n)
        | .stall => s
        | .fail st => setDesc s e d.id (fun x => { (x.note st) with wasked := i + 1, wgot := x.wgot + 1 })
    | _ => dmaWrites s u e sl d (i + 1) t (l.drop n)

/-- The remote destination pieces that are sent. -/
def sentNos (s : State) (u : Use) : Nat → List (Nat × Nat) → List Marked → List Nat
  | _, [], _ => []
  | i, (a, n) :: t, l =>
    let rest := sentNos s u (i + 1) t (l.drop n)
    match locate s u a .write with
    | .remote _ _ _ => if markOf (l.take n) = 1 then rest else i :: rest
    | _ => rest

/-- The bytes that a side moves at memory controllers count for THROUGHPUT (R345, R346). -/
def spendSide (s : State) (u : Use) (sl : Nat) (write : Bool) (l : List (Nat × Nat)) : State :=
  l.foldl (fun s p => match locate s u p.1 (if write then .write else .read) with
    | .loc k _ => spend s sl 1 k p.2 write
    | _ => s) s

/-- Count the granules of a side that a stale generation made read as poison (R184). -/
def noteStaleSide (s : State) (u : Use) (l : List (Nat × Nat)) : State :=
  l.foldl (fun s p => match locate s u p.1 .read with
    | .loc k _ => if protectedKey k then noteStaleRead s k p.2 else s
    | _ => s) s

/-- The status that the marks of the data leave. -/
def markStatus (l : List Marked) : Status := if markOf l = 0 then .done else .faultPoison

/-- Move the data of a descriptor whose remote source has arrived. -/
def dmaMove (s : State) (u : Use) (e sl : Nat) (d : DmaDesc) (f : DmaForm) : State :=
  let stale := s.memGen sl != d.keyGen
  let raw := readSide s u d stale (sidePieces f true)
  let slot := ((s.desc sl).map (·.memKey)).getD 0
  let src := if f.sealSrc then openUnits s u (s.slot slot).dmaKey f (f.len / 4096 + 1) 0 raw else raw
  let data := reshuffle f src
  let dst := sidePieces f false
  let s := if f.sealDst then s else dmaWrites s u e sl d 0 dst data
  match (s.engine e).descs.find? (fun x => x.id == d.id) with
  | none => s
  | some d' =>
    let sent := sentNos s u 0 dst data
    let issued := d'.bad.isSome || sent.all (fun i => decide (i < d'.wasked))
    if !f.sealDst && (!issued || dmaBusy s e d.id) then s
    else
      let s := if stale then noteStaleSide s u (sidePieces f true) else s
      let s := (sidePieces f true).foldl (fun s p => touchSpan s u p.1 p.2) s
      let s := spendSide (spendSide s u sl false (sidePieces f true)) u sl true dst
      match d'.bad with
      | some st => finishDesc s e d st 0
      | none =>
        if f.sealDst then
          let x := sealUnits sl slot u stale f (f.len / 4096 + 1) 0 s data
          finishDesc x.1 e d (if x.2.2 then .abortKeyRevoked else markStatus data) x.2.1
        else
          let x := writeSide u stale s dst data
          finishDesc x.1 e d (markStatus data) x.2

/-- DMA_DESCRIPTOR_COMPLETE: descriptor `k` of an engine, one of context `ctx`, does its transfer and ends. It stays in flight while pages or other nodes are waited for. -/
def dmaCompleteState (cl eng k ctx : Nat) (s : State) : State :=
  let e := 4 * cl + eng
  match (s.engine e).descs.find? (fun d => d.id == k && d.ctx == ctx) with
  | none => s
  | some d =>
    match d.phase, d.from_ with
    | .ended st, .command _ _ _ => finishDesc s e d st 0
    | .running, _ =>
      let f := dmaForm d.raw
      let u := d.use
      let sl := descSail s d
      let b := serveDesc s u f
      if b.2.2 then b.1
      else
        let u := b.2.1
        match descFault b.1 u f with
        | some ((st, va), acc) => finishDesc (noteXlt b.1 d.ctx va st acc) e d st 0
        | none =>
          let s := dmaReads b.1 u e sl d 0 (sidePieces f true)
          match (s.engine e).descs.find? (fun x => x.id == k) with
          | none => s
          | some d' =>
            let need := remoteNos s u .read (sidePieces f true)
            match d'.bad with
            | some st => if dmaBusy s e k then s else finishDesc s e d' st 0
            | none =>
              if need.any (fun i => !d'.got.any (fun g => g.1 == i)) then s
              else dmaMove s u e sl d' f
    | _, _ => s

def execDmaDescriptorComplete (cl eng k ctx : Nat) (s : State) : Out := unitCmd s (dmaCompleteState cl eng k ctx)

/-! ### The completion ring (R300, R322) -/

/-- A ring record (R322). -/
def ringBytes (x : Ctx) (cl eng : Nat) (d : DmaDesc) (st : Status) (now : Word) : List Byte :=
  let phase := (x.ringProd / 2 ^ x.dmaCqLog2 + 1) % 2
  leBytes 2 (dmaForm d.raw).tag ++ leBytes 2 st.code.toNat ++ leBytes 1 (phase + 2 * eng) ++ leBytes 1 cl ++
    leBytes 2 0 ++ leBytes 6 now.toNat ++ leBytes 2 0 ++ leBytes 4 d.units ++ leBytes 12 0

/-- DMA_RING_RECORD: the oldest descriptor of a core in an engine writes its record once it has completed and the
ring has room; the engine reads the consumed count at most once per µs. -/
def dmaRingState (cl eng : Nat) (s : State) : State :=
  let e := 4 * cl + eng
  let isCore := fun (d : DmaDesc) => match d.from_ with
    | .core _ _ _ => true
    | _ => false
  match (s.engine e).descs.find? isCore with
  | none => s
  | some d =>
    match d.phase with
    | .ended st =>
      let x := s.ctx d.ctx
      let u := useNow s d.ctx
      let size := 2 ^ x.dmaCqLog2
      let due := match (s.engine e).consRead with
        | none => true
        | some t => decide (1000 ≤ (s.time - t).toNat)
      let cons := if !due then x.ringCons else match vread s u (x.dmaCq + 32 * size) 8 with
        | .ok l => leNat l
        | _ => x.ringCons
      let s := if due then s.setEngine e { s.engine e with consRead := some s.time } else s
      let s := s.updCtx d.ctx (fun x => { x with ringCons := cons })
      if (2 ^ 64 + x.ringProd - cons) % 2 ^ 64 ≥ size then s
      else
        let a := x.dmaCq + 32 * (x.ringProd % size)
        let s := match spanFault s u a 32 .write with
          | some (f, va) => noteXlt s d.ctx va f .write
          | none => vwrite s u a (ringBytes x cl eng d st s.time)
        let s := s.updCtx d.ctx (fun x => { x with ringProd := x.ringProd + 1 })
        noReplay (dropDmaDesc s e d.id) d.from_.cmd.1 d.from_.cmd.2
    | _ => s

def execDmaRingRecord (cl eng : Nat) (s : State) : Out := unitCmd s (dmaRingState cl eng)

end Sys2Proof.Machine
end

