-- ==== Sys2Proof/Machine/Ingest.lean ====
section
/-! DEFINITION. Ingest streams (R242 to R246).
Choices of the model here: log entry 5 (DESIGN CHOICE), log entry 33 (DESIGN CHOICE). -/

namespace Sys2Proof.Machine

open Sys2Proof

/-- Write a stream, or drop it. -/
def setIngest (s : State) (i : Nat) (v : Option Ingest) : State :=
  let rest := s.ryu.ingest.erase i
  { s with ryu := { s.ryu with ingest := match v with
    | none => rest
    | some x => rest.insert i x } }

/-- The form of a stream descriptor (R242). -/
def ingestOk (l : List Byte) : Bool :=
  let f := recField l
  f 0 23 23 == 0 && f 0 63 40 == 0 && f 1 63 56 == 0 && f 2 63 56 == 0 && f 3 63 56 == 0 && f 4 63 32 == 0 &&
  f 5 63 0 == 0 && f 6 63 0 == 0 && f 7 63 0 == 0 && decide (f 0 15 0 < 256) && decide (12 ≤ f 0 21 16) &&
  decide (f 0 21 16 ≤ 40) && f 1 55 0 % 2 ^ f 0 21 16 == 0

/-- A parsed stream descriptor: nothing produced, nothing consumed, no loss pending. -/
def ingestOf (l : List Byte) (sl c : Nat) (now : Word) : Ingest :=
  let f := recField l
  { sail := sl, ctx := c, log2 := f 0 21 16, plain := f 0 22 22 == 1, source := f 0 39 24, buf := f 1 55 0,
    prodVa := f 2 55 0, consVa := f 3 55 0, seq := BitVec.ofNat 32 (f 4 31 0), prod := 0, cons := 0, consAt := now,
    lostFrames := 0, lostEvents := 0, lossSeq := 0, lossTime := 0, lossCause := 0 }

/-- ING_OPEN (R242). -/
def ingOpenState (q n : Nat) (s : State) : State :=
  match startedAs s q n 0x24, s.ctxSail (s.queueCtx q) with
  | some k, some sl =>
    match busRead s q (bytesOf k.raw 8 15) 64 with
    | none => complete s q n .faultTranslation
    | some l =>
      let i := recField l 0 15 0
      let mine := (s.ryu.ingest.filter (fun p => p.2.sail == sl)).length
      if !ingestOk l || (Tbl.look s.ryu.ingest i).isSome || decide (((s.desc sl).map (·.ingest)).getD 0 ≤ mine) then
        complete s q n .malformed
      else complete (setAux (setIngest s i (some (ingestOf l sl (s.queueCtx q) s.time))) q n i) q n .done
  | _, _ => s

/-! ### Records (R243) -/

/-- The header of a record: kind, length in 32-byte units, sequence, two counts, time, cause. -/
def ingHeader (kind units seq a b : Nat) (time : Word) (cause : Nat) : List Byte :=
  leBytes 2 kind ++ leBytes 2 units ++ leBytes 4 seq ++ leBytes 4 a ++ leBytes 4 b ++ leBytes 8 time.toNat ++
  leBytes 8 cause

/-- Where a record of `n` bytes lies from a produced count: the length of the PAD before it, and the count after
it. -/
def ingPlace (i : Ingest) (p n : Nat) : Nat × Nat :=
  let left := 2 ^ i.log2 - p % 2 ^ i.log2
  if left < n then (left, p + left + n) else (0, p + n)

/-- The GAP record of the pending loss. -/
def Ingest.gap (i : Ingest) : List Byte :=
  ingHeader 2 0 i.lossSeq.toNat i.lostFrames.toNat i.lostEvents.toNat i.lossTime i.lossCause.toNat

def Ingest.clear (i : Ingest) : Ingest :=
  { i with lostFrames := 0, lostEvents := 0, lossSeq := 0, lossTime := 0, lossCause := 0 }

/-- Add a loss: frames, events, the first lost sequence, the cause bits (R244, R245). -/
def Ingest.lose (i : Ingest) (frames events : Nat) (seq : BitVec 32) (now : Word) (cause : BitVec 16) : Ingest :=
  let first := i.lossCause == 0
  { i with lostFrames := satAdd i.lostFrames frames, lostEvents := satAdd i.lostEvents events,
           lossSeq := if first then seq else i.lossSeq, lossTime := if first then now else i.lossTime,
           lossCause := i.lossCause ||| cause }

/-- Write one record at the produced count of a stream, after the PAD that it needs; the payload of a PAD is a free
value. -/
def ingWrite (s : State) (i : Ingest) (head body : List Byte) (poison : Bool) : State × Ingest :=
  let size := 2 ^ i.log2
  let p := i.prod.toNat
  let n := head.length + body.length
  let x := ingPlace i p n
  let u := useNow s i.ctx
  let s1 := if x.1 = 0 then s else
    let pay := (List.range (x.1 - 32)).map (fun j => Config.freeByte s.free j)
    vwrite { s with free := s.free + 1 } u (i.buf + p % size) (ingHeader 3 ((x.1 - 32) / 32) 0 0 0 0 0 ++ pay)
  let at_ := i.buf + (p + x.1) % size
  let s2 := vwrite s1 u at_ head
  let s3 := vwrite s2 u (at_ + head.length) body poison
  (s3, { i with prod := BitVec.ofNat 64 x.2 })

/-- Write PROD with the produced count (R243). -/
def ingPublish (s : State) (i : Ingest) : State := vwrite s (useNow s i.ctx) i.prodVa (leBytes 8 i.prod.toNat)

/-! ### CONS (R244) -/

/-- Read CONS when the last read is at least 1 µs old: a value below the previous count or above P is ignored and
counted. -/
def readCons (s : State) (i : Ingest) : State × Ingest :=
  if (s.time - i.consAt).toNat < 1000 then (s, i)
  else
    let i := { i with consAt := s.time }
    match vread s (useNow s i.ctx) i.consVa 8 with
    | .ok l =>
      let c := leNat l
      if c < i.cons.toNat || c > i.prod.toNat then (bumpMisroute s, i) else (s, { i with cons := BitVec.ofNat 64 c })
    | _ => (s, i)

/-- CONS_READ. -/
def consReadState (n : Nat) (s : State) : State :=
  match Tbl.look s.ryu.ingest n with
  | none => s
  | some i =>
    let r := readCons s i
    setIngest r.1 n (some r.2)

/-! ### Frames (R244, R245) -/

/-- The produced count once the pending GAP record and a record of `n` bytes have landed. -/
def ingEnd (i : Ingest) (n : Nat) : Nat :=
  let p := if i.lossCause == 0 then i.prod.toNat else (ingPlace i i.prod.toNat 32).2
  if n = 0 then p else (ingPlace i p n).2

def ingFits (i : Ingest) (n : Nat) : Bool := decide (ingEnd i n ≤ i.cons.toNat + 2 ^ i.log2)

/-- The spans that landing writes translate. -/
def ingWritable (s : State) (i : Ingest) (n : Nat) : Bool :=
  let u := useNow s i.ctx
  let size := 2 ^ i.log2
  let p := i.prod.toNat % size
  let m := ingEnd i n - i.prod.toNat
  let spans := if p + m ≤ size then [(i.buf + p, m)] else [(i.buf + p, size - p), (i.buf, p + m - size)]
  (spans ++ [(i.prodVa, 8)]).all (fun x => (cut x.1 x.2).all (fun y => match locate s u y.1 .write with
    | .loc _ _ => true
    | _ => false))

/-- Write the pending loss as a GAP record. -/
def ingGap (s : State) (i : Ingest) : State × Ingest :=
  if i.lossCause == 0 then (s, i)
  else
    let r := ingWrite s i i.gap [] false
    (r.1, r.2.clear)

/-- Land a frame, or add it to the pending loss. -/
def ingLand (s0 : State) (n : Nat) (i0 : Ingest) (m : RyuMsg) : State :=
  let events := m.arg.toNat / 2 ^ 32
  let body := m.payload ++ List.replicate (pad32 m.payload.length - m.payload.length) 0
  let seq := m.arg.setWidth 32
  let r := readCons s0 i0
  let s := r.1
  let i := { r.2 with seq := seq + 1 }
  if ingFits i (32 + body.length) && ingWritable s i (32 + body.length) then
    let g := ingGap s i
    let w := ingWrite g.1 g.2 (ingHeader 1 (body.length / 32) seq.toNat events 0 s.time 0) body (m.poison.contains true)
    setIngest (ingPublish w.1 w.2) n (some w.2)
  else setIngest s n (some (i.lose 1 events seq s.time 1))

/-- The key slot of an ingest frame (R218): through its stream. -/
def ingSlot (s : State) (win sl : Nat) : KeySlot :=
  match Tbl.look s.ryu.ingest win with
  | some i => s.linkSlot i.sail
  | none => s.linkSlot sl

/-- ING (R242, R244, R245): what no open stream takes is dropped and counted. -/
def ingState (port : Nat) (m : RyuMsg) (s : State) : State :=
  match Tbl.look s.ryu.ingest m.win with
  | none => takeMsg s port m true (ingSlot s m.win) (fun _ => bumpMisroute s)
  | some i =>
    takeMsg s port m i.plain (ingSlot s m.win) (fun sl =>
      let x := m.arg.setWidth 32 - i.seq
      if (i.source != 0xFFFF && m.src != i.source) || sl != i.sail || m.payload.isEmpty || m.payload.length > 512 then
        bumpMisroute s
      else if m.enc && m.keyGen != (s.linkSlot i.sail).gen then bumpStale s
      else if x.toNat ≥ 2 ^ 31 then bumpLate s
      else ingLand s m.win (if x = 0 then i else i.lose x.toNat 0 i.seq s.time 2) m)

/-- End a stream (R246): a pending loss is written if it fits, and is counted otherwise. -/
def closeIngest (s : State) (n : Nat) : State :=
  match Tbl.look s.ryu.ingest n with
  | none => s
  | some i =>
    let s1 := if i.lossCause == 0 then s
      else if ingFits i 0 && ingWritable s i 0 then
        let g := ingGap s i
        ingPublish g.1 g.2
      else { s with ryu := { s.ryu with misroute := satAdd s.ryu.misroute i.lostFrames.toNat } }
    setIngest s1 n none

/-- ING_CLOSE (R246). -/
def ingCloseState (q n : Nat) (s : State) : State :=
  match startedAs s q n 0x25, s.ctxSail (s.queueCtx q) with
  | some k, some sl =>
    let w := bytesOf k.raw 8 9
    match Tbl.look s.ryu.ingest w with
    | none => complete s q n .malformed
    | some i => if i.sail != sl then complete s q n .faultPermission else complete (closeIngest s w) q n .done
  | _, _ => s

def execIng (port : Nat) (m : RyuMsg) (s : State) : Out := unitCmd s (ingState port m)
def execConsRead (n : Nat) (s : State) : Out := unitCmd s (consReadState n)
def execIngOpen (q n : Nat) (s : State) : Out := unitCmd s (ingOpenState q n)
def execIngClose (q n : Nat) (s : State) : Out := unitCmd s (ingCloseState q n)

end Sys2Proof.Machine
end

