-- ==== Sys2Proof/Machine/Sample.lean ====
section
/-! DEFINITION. Scratchpad samples before a reset (R375, R423).
Choices of the model here: log entry 44 (DESIGN CHOICE). -/

namespace Sys2Proof.Machine

open Sys2Proof

/-- The bytes of the sample ring; a LOG2 outside 16 to 40 acts as 20. -/
def sampleSize (t : TtlSt) : Nat :=
  let l := t.sampleLog2.toNat
  2 ^ (if l < 16 || 40 < l then 20 else l)

/-- Header bytes 0 to 47 of a sample (R375). -/
def sampleHead (s : State) (sl k : Nat) (p : Prog) (cause : Nat) (conf : Bool) (count : Word) : List Byte :=
  leBytes 4 0x4D534A4C ++ leBytes 2 sl ++ leBytes 2 (k / 34) ++ leBytes 1 (k % 34) ++ leBytes 1 cause ++
  leBytes 2 p.live.toNat ++ leBytes 1 (if conf then 1 else 0) ++ leBytes 3 0 ++ leBytes 8 s.time.toNat ++
  leBytes 4 (256 * (k / 34) + k % 34) ++ leBytes 8 count.toNat ++ leBytes 12 0

/-- The body of a sample: the live scratchpad bytes and the poison marks. -/
def sampleBody (s : State) (k : Nat) (p : Prog) : List Byte :=
  match s.spadBase k with
  | none => []
  | some b => readBytes s b (4096 * p.live.toNat) ++ poisonBytes s b

/-- A sample was not written (R423). -/
def dropSample (s : State) : State := { s with ttl := { s.ttl with sampleDrop := satInc s.ttl.sampleDrop } }

/-- A sample that the link cannot take stays until sampling ends. -/
def holdSample (s : State) : State :=
  { s with ttl := { s.ttl with sampling := some (s.ttl.sampling.getD s.time), held := s.ttl.held + 1 } }

/-- Put `n` bytes into the sample ring: the bus address, and the ring after it; none when they do not fit. -/
def sampleRoom (t : TtlSt) (n : Nat) : Option (Nat × Word) :=
  let size := sampleSize t
  let off := t.sampleProd.toNat % size
  let skip := if off + n > size then size - off else 0
  if (t.sampleProd - t.sampleCons).toNat + skip + n ≤ size then
    some (64 * t.sampleBase.toNat + (off + skip) % size, t.sampleProd + BitVec.ofNat 64 (skip + n))
  else none

/-- Sample core `k`. A sample of a confidential sail is encrypted under the sample key, and without one it is not
written. -/
def sampleCore (s : State) (cause k : Nat) : State :=
  match s.prog k, s.clusterSail (k / 34) with
  | some p, some sl =>
    let conf := ((s.desc sl).map (·.conf)).getD false
    let slot := ((s.desc sl).map (·.memKey)).getD 0
    let key := s.slot slot
    let port := if s.ttl.samplePort then 1 else 0
    let body := sampleBody s k p
    if s.ttl.sampleBase = 0 then s
    else if conf && key.st != .active then dropSample s
    else if !hostUp s port then holdSample s
    else
      match sampleRoom s.ttl (64 + body.length) with
      | none => dropSample s
      | some (a, prod) =>
        let count := if conf then key.sampleCount else 0
        let head := sampleHead s sl k p cause conf count
        let c := if conf then gcmEncrypt key.sampleKey (ivOf (BitVec.ofNat 32 (256 * (k / 34) + k % 34)) count) head body
          else (body, leBytes 16 0)
        let s := if conf then s.setSlot slot { key with sampleCount := key.sampleCount + 1 } else s
        let s := store s (busKey port a) (head ++ c.2 ++ c.1)
        { s with ttl := { s.ttl with sampleProd := prod } }
  | _, _ => s

/-- Take samples of the cores that hold a resident context (R423). -/
def takeSamples (s : State) (cause : Nat) (cores : List Nat) : State := cores.foldl (fun s k => sampleCore s cause k) s

/-- SAMPLING_TIMEOUT: 10 ms after sampling began, what could not be written is counted as dropped. -/
def samplingTimeoutState (s : State) : State :=
  match s.ttl.sampling with
  | none => s
  | some t =>
    if (s.time - t).toNat < 10000000 then s
    else { s with ttl := { s.ttl with sampling := none, held := 0, sampleDrop := satAdd s.ttl.sampleDrop s.ttl.held } }

def execSamplingTimeout (s : State) : Out := unitCmd s samplingTimeoutState

end Sys2Proof.Machine
end

