-- ==== Sys2Proof/Machine/Context.lean ====
section
/-! DEFINITION. The life of contexts and queues (R291, R298 to R301, R325 to R327, R429): CREATE, DESTROY, RESET,
RESUME, DISABLE, the function level reset of a VF.
Choices of the model here: log entry 27 (DESIGN CHOICE), log entry 40 (DEDUCED). -/

namespace Sys2Proof.Machine

open Sys2Proof

/-! ### Ending commands (R325, R429) -/

/-- End a RUN that runs: its programs stop at their next instruction boundary. -/
def endRun (s : State) (q n : Nat) (st : Status) : State :=
  let s := stopCommand (s.updCmd q n (fun c => { c with firstErr := some st })) q n
  if !(coresOf s q n).isEmpty || s.sails.any (fun p => p.2.saved.any (fun v => v.prog.q == q && v.prog.n == n)) then s
  else complete s q n st

/-- End the internal RUN of a sequence or a step, if it has one. -/
def endLaunch (s : State) (q n : Nat) (st : Status) : State :=
  match s.cmd q n with
  | none => s
  | some c =>
    if c.isCompleted then s
    else if c.phase == .executing then endRun s q n st
    else complete s q n st

/-- The sequence that a SEQ_SUBMIT holds, with its sail. -/
def seqOf (s : State) (q n : Nat) : Option (Nat × Seq) :=
  s.sails.findSome? (fun p => (p.2.seqs.find? (fun y => y.q == q && y.n == n)).map (fun y => (p.1, y)))

/-- End a command that has not completed (R325): a RUN stops, the descriptors of a DMA are abandoned, a cleat's
record is retired, a sequence leaves its slot. -/
def endCommand (s : State) (q n : Nat) (st : Status) : State :=
  match s.cmd q n with
  | none => s
  | some c =>
    if c.isCompleted then s
    else if c.phase == .fetched then refuse s q n st
    else if c.phase != .executing then complete s q n st
    else match c.opcode with
      | 0x01 => endRun s q n st
      | 0x02 =>
        let s := s.dma.foldl (fun s p => (descsOf s p.1 q n).foldl (fun s d => dropDmaDesc s p.1 d.id) s) s
        complete s q n st
      | 0x26 =>
        match s.ryu.cleats.find? (fun r => r.anchor && r.q == q && r.n == n) with
        | some t => endDispatch s t st
        | none => complete s q n st
      | 0x27 =>
        match seqOf s q n with
        | some (sl, y) => endSeq (endLaunch s (fallbackQueue y.slot) n st) sl y st
        | none => complete s q n st
      | _ => complete s q n st

/-- End every command of a queue that has not completed, in the queue's order. -/
def endCommands (s : State) (q : Nat) (st : Status) : State :=
  (s.queue q).cmds.foldl (fun s c => endCommand s q c.n st) s

/-- End the phase programs that run in a context (R250). -/
def endJobs (s : State) (c : Nat) (st : Status) : State :=
  ((s.queues.filter (fun p => decide (65536 ≤ p.1) && p.2.ctx == c)).map (·.1)).foldl (fun s q => endCommands s q st) s

/-- End the step of the batch builder that serves a context, and the phase programs that run in it. -/
def endBatch (s : State) (c : Nat) (st : Status) : State :=
  let s := endJobs s c st
  match s.ctxSail c with
  | none => s
  | some sl =>
    match (s.sail sl).step with
    | none => s
    | some y =>
      if (s.sail sl).bCtx.toNat != c then s
      else (endLaunch s (stepQueue sl) y.number st).updSail sl (fun x => { x with step := none })

/-! ### Queues (R325) -/

/-- Disable a queue: submitted commands that have not been fetched are dropped, the others end. With `silent`, no
record is written any more (R291, R385). -/
def disableQueue (s : State) (q : Nat) (silent : Bool) : State :=
  let x := s.queue q
  if x.st == .idle then s
  else
    let s := s.setQueue q { x with
      st := .disabling, tail := x.head, stamps := [], resetTo := none, noRecords := x.noRecords || silent }
    let s := endCommands s q .abortDestroy
    let s := if (s.queue q).noRecords then
        s.updQueue q (fun x => { x with cmds := x.cmds.filter (fun c => !c.isCompleted) })
      else s
    settleQueue s q

/-- DISABLE (R325). -/
def disableState (fn : HostFn) (q : Nat) (s : State) : State :=
  if fromOwner s fn q && (s.queue q).st == .active then disableQueue s q false else s

def execDisable (fn : HostFn) (q : Nat) (s : State) : Out := unitCmd s (disableState fn q)

/-- The queues that satisfy `f`. -/
def queuesOf (s : State) (f : Queue → Bool) : List Nat :=
  (s.queues.filter (fun p => decide (p.1 < 8192) && p.2.st != .idle && f p.2)).map (·.1)

/-- VF_FUNCTION_LEVEL_RESET (R291): every queue that was enabled through the VF is disabled, and no record is written
for its commands. -/
def vfResetState (port k : Nat) (s : State) : State :=
  (queuesOf s (fun x => x.fn == some (.vf port k))).foldl (fun s q => disableQueue s q true) s

def execVfFunctionLevelReset (port k : Nat) (s : State) : Out := unitCmd s (vfResetState port k)

/-! ### CREATE (R298, R299) -/

/-- The descriptor's fields. -/
def ctxOf (l : List Byte) : Ctx :=
  let f := recField l
  { Ctx.empty with
    st := .active, sof := f 1 16 16 == 1, xltBase := f 0 47 0, cbBase := f 1 5 0, cbSize := f 1 12 6, share := f 1 47 32,
    dmaCq := f 2 55 0, dmaCqLog2 := f 2 60 56 }

/-- The limits of R299. -/
def ctxDescOk (l : List Byte) : Bool :=
  let f := recField l
  let x := ctxOf l
  f 0 63 48 == 0 && f 1 15 13 == 0 && f 1 31 17 == 0 && f 1 63 48 == 0 && f 2 63 61 == 0 &&
  (List.range 13).all (fun i => f (3 + i) 63 0 == 0) && x.xltBase % 65536 == 0 && decide (1 ≤ x.cbSize) &&
  decide (x.cbSize ≤ 64) && decide (x.cbBase + x.cbSize ≤ 64) && decide (1 ≤ x.share) && decide (6 ≤ x.dmaCqLog2) &&
  decide (x.dmaCqLog2 ≤ 20) && x.dmaCq % (32 * 2 ^ x.dmaCqLog2) == 0

/-- The channel of an address, if a DRAM or GDDR7 channel holds it. -/
def channelOf (a : Nat) : Option Nat :=
  match regionOf a with
  | some (.dram c) => some c
  | some (.gddr c) => some (128 + c)
  | _ => none

/-- The translation area lies in one channel of the sail (R299): the status of a context whose area does not. -/
def xltJudge (s : State) (sl a : Nat) : Option Status :=
  let last := a + 4160 * 1024 - 1
  match channelOf a, channelOf last with
  | some c, some d =>
    if c != d then some .malformed
    else if s.ownsAddr sl a then none else some .faultPermission
  | _, _ => some .faultPermission

/-- CREATE on a FREE context: its status, and the new context when it is DONE. -/
def createCtx (s : State) (fn : HostFn) (sl c : Nat) : State × Status :=
  let p := fn.hostPort
  if (s.ctx c).st != .free then (s, .malformed)
  else if !hostUp s p || !busOk (s.sail sl).ctxDesc 128 then (s, .faultTranslation)
  else
    let l := readBytes s (busKey p (s.sail sl).ctxDesc) 128
    if !ctxDescOk l then (s, .malformed)
    else match xltJudge s sl (ctxOf l).xltBase with
      | some st => (s, st)
      | none => (s.setCtx c (ctxOf l), .done)

/-! ### DESTROY (R325) and RESET (R429) -/

/-- Close an import whose context ends; the owner is told. -/
def abandonImport (s : State) (h : Nat) (i : Import) : State :=
  let s := closeImport s h
  if !i.ready || i.closing then setImport s h none
  else match issueOp s .impClose i.sail i.ctx i.node i.win h i.timeout 0 0 0 i.ogen 0 [] [] (.importCmd 32768 0) with
    | .sent s1 _ => s1
    | _ => setImport s h none

/-- Drop the DMA descriptors of a context from every engine. -/
def dropCtxDescs (s : State) (c : Nat) : State :=
  { s with dma := s.dma.map (fun p => (p.1, { p.2 with descs := p.2.descs.filter (fun d => d.ctx != c) })) }

/-- End a context's fabric objects and order slots (R325). -/
def endObjects (s : State) (c : Nat) : State :=
  let s := s.ryu.exports.foldl (fun s p => if p.2.creator == c then closeExport s p.1 else s) s
  let s := s.ryu.imports.foldl (fun s p => if p.2.ctx == c then abandonImport s p.1 p.2 else s) s
  let s := s.ryu.ingest.foldl (fun s p => if p.2.ctx == c then closeIngest s p.1 else s) s
  s.yards.foldl (fun s p => s.updYard p.1 (fun y => { y with orders := y.orders.filter (fun o => o.2.ctx != c) })) s

/-- Discard the ranges of a context (R325). -/
def dropRanges (s : State) (c : Nat) : State :=
  match s.ctxSail c with
  | none => s
  | some sl =>
    let s := (s.ctx c).ranges.foldl (fun s e => shareRef s sl e false) s
    let lines := coveredLines s c (s.ctx c).ranges
    let s := dropTranslations (dropCached s c [] lines true) c [] true
    s.updCtx c (fun x => { x with
      ranges := [], tombs := [], past := [], drain := none, rigDrain := none, waitRange := [], migs := [] })

/-- DESTROY of an ACTIVE or STOPPED context (R325), or of one whose sail is removed (R370). -/
def destroyCtx (s : State) (c : Nat) : State :=
  let s := s.updCtx c (fun x => { x with st := .destroying })
  let s := (queuesOf s (fun x => x.ctx == c)).foldl (fun s q => disableQueue s q false) s
  let s := dropCtxDescs (endBatch s c .abortDestroy) c
  let s := endQuotaWaits (endGroups s (fun g => g.ctx == c)) (fun r => r.ctx == c) .abortDestroy
  settleCtx (dropRanges (endObjects (releaseHolds s c) c) c) c

/-- The commands of a queue that were submitted before a context reset (R429, step 1). -/
def resetQueue (s : State) (q : Nat) (st : Status) : State :=
  let x := s.queue q
  let s := if x.st == .active && x.head != x.tail then s.setQueue q { x with resetTo := some x.tail } else s
  endCommands s q st

/-- The cores on which a context is resident. -/
def ctxCores (s : State) (c : Nat) : List Nat :=
  (s.cores.filter (fun p => match p.2.prog with
    | some g => g.ctx == c
    | none => false)).map (·.1)

/-- The context step on a reset point (R423, R429). -/
def resetCtx (s : State) (c cause : Nat) (sampled : Bool := false) : State :=
  let s := beginStep s 1 (.context c) cause
  let s := if sampled then s else takeSamples s cause (ctxCores s c)
  let s := s.updCtx c (fun x => { x with st := .resetting })
  let s := (queuesOf s (fun x => x.ctx == c)).foldl (fun s q => resetQueue s q .abortContextReset) s
  let s := dropCtxDescs (endBatch s c .abortContextReset) c
  let s := endQuotaWaits (endGroups s (fun g => g.ctx == c)) (fun r => r.ctx == c) .abortContextReset
  let s := releaseHolds s c
  let s := s.updCtx c (fun x => { x with arith := 0, cf := Ctx.empty.cf, semRev := false, deferredAt := none })
  settleCtx s c

/-! ### The mailbox of a sail (R298) -/

/-- Whether a write to SAIL_CTX_CMD reaches the sail's block. -/
def mailbox (s : State) (fn : HostFn) (sl c : Nat) (f : State → State) : State :=
  match s.desc sl with
  | none => s
  | some d =>
    if !s.reaches fn sl then s
    else if (s.sail sl).busy || c < d.ctxFirst || d.ctxFirst + d.ctxCount ≤ c || (s.sail sl).state != 1 then
      s.updSail sl (fun x => { x with ignored := true })
    else f (s.updSail sl (fun x => { x with resCtx := c }))

/-- An operation that ends at once. -/
def endsWith (s : State) (sl : Nat) (st : Status) : State := s.updSail sl (fun x => { x with status := st })

def createState (fn : HostFn) (sl c : Nat) (s : State) : State :=
  mailbox s fn sl c (fun s =>
    let r := createCtx s fn sl c
    endsWith r.1 sl r.2)

/-- DESTROY (R298, R325, R327). -/
def destroyState (fn : HostFn) (sl c : Nat) (s : State) : State :=
  mailbox s fn sl c (fun t =>
    match (t.ctx c).st with
    | .active => destroyCtx (t.updSail sl (fun x => { x with busy := true })) c
    | .stopped => destroyCtx (t.updSail sl (fun x => { x with busy := true })) c
    | .resetting => s.updSail sl (fun x => { x with ignored := true })
    | _ => endsWith t sl .malformed)

/-- RESET (R298, R429). -/
def resetState (fn : HostFn) (sl c : Nat) (s : State) : State :=
  mailbox s fn sl c (fun t =>
    match (t.ctx c).st with
    | .active => resetCtx (t.updSail sl (fun x => { x with busy := true })) c 0x0B
    | .stopped => resetCtx (t.updSail sl (fun x => { x with busy := true })) c 0x0B
    | _ => endsWith t sl .malformed)

/-- RESUME (R298, R301). -/
def resumeState (fn : HostFn) (sl c : Nat) (s : State) : State :=
  mailbox s fn sl c (fun t =>
    match (t.ctx c).st with
    | .active => endsWith t sl .done
    | .stopped =>
      let u := t.updCtx c (fun x => { x with st := .active })
      scheduleCtx (endsWith (if (readyOf u sl c).isEmpty then u else becomeReady t sl c |>.updCtx c (fun x => { x with st := .active })) sl .done) c
    | _ => endsWith t sl .malformed)

def execCreate (fn : HostFn) (sl c : Nat) (s : State) : Out := unitCmd s (createState fn sl c)
def execDestroy (fn : HostFn) (sl c : Nat) (s : State) : Out := unitCmd s (destroyState fn sl c)
def execReset (fn : HostFn) (sl c : Nat) (s : State) : Out := unitCmd s (resetState fn sl c)
def execResume (fn : HostFn) (sl c : Nat) (s : State) : Out := unitCmd s (resumeState fn sl c)

end Sys2Proof.Machine
end

