-- ==== Sys2Proof/Machine/Sec.lean ====
section
/-! DEFINITION. Keys, attestation and the removal of a tenant (R292, R356 to R374).
Choices of the model here: log entry 7 (DESIGN CHOICE), log entry 11 (DESIGN CHOICE), log entry 45 (DEDUCED),
log entry 46 (DEDUCED). -/

namespace Sys2Proof.Machine

open Sys2Proof

/-! ### Mailboxes (R292, R364) -/

/-- The last response of a function's mailbox. -/
def answerDoe (s : State) (fn : HostFn) (st : BitVec 16) (body : List Byte) : State :=
  let r : HostFn × DoeResponse := (fn, { status := st, body := body })
  { s with sec := { s.sec with doe := s.sec.doe.filter (fun p => p.1 != fn) ++ [r] } }

/-- The protocol types that a function's mailbox reports after the discovery protocol (R292). -/
def doeTypes (fn : HostFn) : List Nat := if fn.isPf then [1, 2] else [2]

/-- DOE_DISCOVERY: the entry at an index with the index of the next, 0 after the last. -/
def doeDiscoveryState (fn : HostFn) (i : Nat) (s : State) : State :=
  let l := doeTypes fn
  let next := if i < l.length then i + 1 else 0
  if i = 0 then answerDoe s fn 0 (leBytes 4 (1 + 2 ^ 24 * next))
  else match l[i - 1]? with
    | some t => answerDoe s fn 0 (leBytes 4 (Config.vendorId.toNat + 2 ^ 16 * t + 2 ^ 24 * next))
    | none => answerDoe s fn 0 (leBytes 4 0xFFFF)

def execDoeDiscovery (fn : HostFn) (i : Nat) (s : State) : Out := unitCmd s (doeDiscoveryState fn i)

/-- The sail that an ATTEST object acts on: a VF's own, else the one it names (R364). -/
def attestSail (s : State) (fn : HostFn) (sl : Nat) : Option Nat :=
  match fn with
  | .vf p k => s.vfSail p k
  | _ => some sl

/-- Whether a function reaches mailboxes through a physical function. -/
def viaPf (fn : HostFn) : Bool :=
  match fn with
  | .vf _ _ => false
  | _ => true

/-! ### Reports (R361 to R363, R367) -/

/-- The 128 bytes of a sail's descriptor (R267). -/
def descBytes (d : SailDesc) : List Byte :=
  let b := fun (x : Bool) (i : Nat) => if x then 2 ^ i else 0
  leBytes 8 (1 + 2 * d.role + b d.conf 3 + 2 ^ 16 * d.memKey + 2 ^ 24 * d.linkKey + 2 ^ 32 * d.leaseRef.toNat) ++
  leBytes 8 (d.ctxFirst + 2 ^ 11 * d.ctxCount + 2 ^ 23 * d.qFirst + 2 ^ 36 * d.qCount) ++
  leBytes 8 (d.semFirst + 2 ^ 14 * d.semCount + 2 ^ 29 * d.seqFirst + 2 ^ 37 * d.seqCount) ++
  leBytes 8 (d.vf0 + 2 ^ 8 * d.vf1 + 2 ^ 16 * d.cgQuota + 2 ^ 32 * d.cgHold) ++
  leBytes 8 (d.devTags + 2 ^ 16 * d.cleats + 2 ^ 29 * d.exports + 2 ^ 40 * d.imports + 2 ^ 53 * d.ingest) ++
  leBytes 8 (d.migYard + b d.migEn 4 + 2 ^ 8 * d.cxl0 + 2 ^ 19 * d.cxl1 + 2 ^ 32 * d.trimWeight) ++
  leBytes 8 d.saveBase ++ leBytes 72 d.saveLen

/-- The lease encapsulation key of a sail. -/
def leaseKeyOf (s : State) (sl : Nat) : Option (List Byte) :=
  match s.sec.leaseKeys.get 0 sl with
  | 0 => none
  | n + 1 => some (fitTo 1568 (Config.leaseKey n))

def LcState.code : LcState → Nat
  | .maker => 0 | .integrator => 1 | .fielded => 2 | .analysis => 3 | .scrapped => 4

def LcState.ofCode (n : Nat) : Option LcState :=
  match n with
  | 0 => some .maker
  | 1 => some .integrator
  | 2 => some .fielded
  | 3 => some .analysis
  | 4 => some .scrapped
  | _ => none

/-- The 256 bytes of a report's body (R367); no sail for the device report. -/
def reportBody (s : State) (sl : Option Nat) (nonce : BitVec 256) : List Byte :=
  let d := match sl with
    | none => none
    | some i => s.desc i
  let conf := (d.map (·.conf)).getD false
  let mem := (d.map (fun d => s.slot d.memKey)).getD KeySlot.empty
  let link := (d.map (fun d => s.slot d.linkKey)).getD KeySlot.empty
  let lease := match sl with
    | none => none
    | some i => leaseKeyOf s i
  let digest := fun (l : Option (List Byte)) => match l with
    | none => leBytes 32 0
    | some b => leBytes 32 (Config.sha256 b).toNat
  let bit := fun (x : Bool) (i : Nat) => if x then 2 ^ i else 0
  leBytes 4 0x54414A4C ++ leBytes 2 1 ++ leBytes 2 (sl.getD 0xFFFF) ++ leBytes 32 s.sec.unitId.toNat ++
  leBytes 1 s.sec.lc.code ++ leBytes 1 (bit conf 0 + bit (mem.st == .active) 1 + bit s.sec.dbgSince 2) ++
  leBytes 2 s.rst.fwVer.toNat ++ leBytes 1 0xB1 ++ leBytes 1 0x23 ++ leBytes 2 0 ++ leBytes 32 s.rst.fwDigest.toNat ++
  leBytes 32 ((s.rig.active.map (fun r => r.digest.toNat)).getD 0) ++
  leBytes 8 ((s.rig.active.map (·.serial)).getD 0) ++ digest (d.map descBytes) ++ digest lease ++
  leBytes 32 nonce.toNat ++ leBytes 8 s.time.toNat ++ leBytes 4 s.sec.lcCounter.toNat ++ leBytes 2 mem.gen.toNat ++
  leBytes 2 link.gen.toNat ++ leBytes 4 ((d.map (fun d => d.leaseRef.toNat)).getD 0) ++ leBytes 20 0

/-- Whether the masthead may sign now: fewer than 1,000 reports in this second, and the bottom tree of the next leaf
is built (R363). -/
def maySign (s : State) : Bool :=
  let sec := s.time.toNat / 1000000000
  let q := s.sec.leafNext.toNat
  (s.sec.reportSecond != sec || decide (s.sec.reports < 1000)) &&
    (q % 2 ^ 20 != 0 || q == 0 || s.sec.treeReady)

/-- Use the next leaf (R362): RESV moves first, NEXT after. The last leaf of the tree disables attestation. -/
def useLeaf (s : State) : State :=
  let x := s.sec
  let q := x.leafNext
  let sec := s.time.toNat / 1000000000
  { s with sec := { x with
      leafResv := if q.toNat < x.leafResv.toNat then x.leafResv else satAdd q 256
      leafNext := satInc q
      leafDisabled := x.leafDisabled || q == BitVec.allOnes 40
      treeReady := x.treeReady && !(q.toNat % 2 ^ 20 == 0 && q != 0)
      reportSecond := sec
      reports := if x.reportSecond = sec then x.reports + 1 else 1 } }

/-- Sign a report and answer it, followed by the lease encapsulation key. -/
def signReport (s : State) (fn : HostFn) (sl : Option Nat) (nonce : BitVec 256) : State :=
  let body := reportBody s sl nonce
  let sig := fitTo 5716 (Config.hssSign s.sec.leafNext.toNat body)
  let key := match sl with
    | none => []
    | some i => (leaseKeyOf s i).getD []
  answerDoe (useLeaf s) fn Status.done.code (leBytes 2 0 ++ body ++ sig ++ key)

/-- What a request for a report gets when it is not signed. -/
def reportRefusal (s : State) (t : Option Nat) : Option Status :=
  if s.sec.lc == .analysis || s.sec.lc == .scrapped then some .faultPermission
  else if (t.map (fun i => (s.desc i).isNone)).getD false then some .faultPermission
  else if s.sec.leafDisabled then some .abortKeyRevoked
  else none

/-- Answer a request for a report. -/
def answerReport (s : State) (w : ReportWait) : State :=
  match reportRefusal s w.sail with
  | some st => answerDoe s w.fn st.code (leBytes 2 0)
  | none => signReport s w.fn w.sail w.nonce

/-- The requests that wait in their mailboxes are answered in order while the masthead may sign (R363). -/
def serveReports (s : State) : State :=
  (List.range s.sec.reportWaits.length).foldl (fun s _ =>
    match s.sec.reportWaits with
    | [] => s
    | w :: t =>
      if maySign s || (reportRefusal s w.sail).isSome then
        answerReport { s with sec := { s.sec with reportWaits := t } } w
      else s) s

/-- GET_REPORT (R362 to R364, R367, R376): a request beyond the rate waits in its mailbox (R363). -/
def getReportState (fn : HostFn) (sl : Nat) (nonce : BitVec 256) (s : State) : State :=
  match attestSail s fn sl with
  | none => s
  | some t =>
    if !s.rst.fwRun then s
    else
      let w : ReportWait := { fn := fn, sail := if viaPf fn && t == 0xFFFF then none else some t, nonce := nonce }
      match reportRefusal s w.sail with
      | some st => answerDoe s fn st.code (leBytes 2 0)
      | none => serveReports { s with sec := { s.sec with
          reportWaits := s.sec.reportWaits.filter (fun x => x.fn != fn) ++ [w] } }

def execGetReport (fn : HostFn) (sl : Nat) (nonce : BitVec 256) (s : State) : Out := unitCmd s (getReportState fn sl nonce)

/-- GET_CERT (R361). -/
def getCertState (fn : HostFn) (s : State) : State :=
  match attestSail s fn 0 with
  | none => s
  | some _ =>
    if s.rst.fwRun then answerDoe s fn Status.done.code (leBytes 2 0 ++ Config.deviceCert s.sec.unitId) else s

def execGetCert (fn : HostFn) (s : State) : Out := unitCmd s (getCertState fn)

/-- BOTTOM_TREE_BUILD (R363): the next bottom tree is ready. -/
def execBottomTreeBuild (s : State) : Out :=
  unitCmd s (fun s => if s.rst.fwRun then serveReports { s with sec := { s.sec with treeReady := true } } else s)

/-! ### Slots (R358, R359) -/

/-- The next generation: after 0xFFFF comes 0x0001. -/
def nextGen (g : BitVec 16) : BitVec 16 := if g = 0xFFFF then 1 else g + 1

/-- Whether a sail has a link slot of its own (R357). -/
def SailDesc.hasLink (d : SailDesc) : Bool := d.linkKey != d.memKey

/-- A slot enters DRAINING; an EMPTY or DRAINING one stays as it is (R372). -/
def drainSlot (s : State) (k : Nat) : State :=
  let x := s.slot k
  if x.st == .loaded || x.st == .active then
    s.setSlot k { x with st := .draining, gen := nextGen x.gen, drainAt := some s.time }
  else s

/-- A memory slot of an added sail gets a memory key (R277, step 4, R358). -/
def loadMemSlot (s : State) (k sl : Nat) (conf : Bool) : State :=
  let x := s.slot k
  { (s.setSlot k { KeySlot.empty with
      st := .loaded, kind := .memory, sail := sl, conf := conf, gen := nextGen x.gen, deliveries := x.deliveries,
      badKill := x.badKill, memKey := some s.free }) with free := s.free + 1 }

/-- A slot becomes the link slot of an added sail. -/
def loadLinkSlot (s : State) (k sl : Nat) (conf : Bool) : State :=
  let x := s.slot k
  s.setSlot k { KeySlot.empty with
    st := .loaded, kind := .link, sail := sl, conf := conf, gen := nextGen x.gen, deliveries := x.deliveries,
    badKill := x.badKill }

/-- What was written under a memory key cannot be read without it (R183, R360): the DRAM and GDDR7 channels and the far segments of the
slot's sail hold free values. -/
def loseKeyed (s : State) (k : Nat) : State :=
  let x := s.slot k
  let mine := fun (base n : Nat) => (List.range n).filter (fun i => s.ownerAt (base + i) == some x.sail)
  if x.kind != .memory || x.st == .empty || ((s.desc x.sail).map (·.memKey)) != some k then s
  else
    let s1 := (mine 0 128).foldl (fun s i => loseSpan s (i * 2 ^ 29) (2 ^ 29)) s
    let s2 := (mine offGddr 64).foldl (fun s i => loseSpan s (gddrBase + i * 2 ^ 30) (2 ^ 30)) s1
    ((mine offFar 4096).filter (farPopulated s)).foldl eraseFar s2

/-- A zeroized slot keeps its generation and its counts; what its memory key encrypted is lost. -/
def zeroSlot (s : State) (k : Nat) : State :=
  let x := s.slot k
  (loseKeyed s k).setSlot k { KeySlot.empty with gen := x.gen, deliveries := x.deliveries, badKill := x.badKill }

/-! ### KEY_DELIVER (R364, R365) -/

def byteAt (l : List Byte) (i : Nat) : Nat := ((l[i]?).map (·.toNat)).getD 0

/-- The form of a request: its length, its reserved bytes, its FLAGS. -/
def deliverFormOk (fn : HostFn) (l : List Byte) : Bool :=
  l.length == 1768 && byteAt l 0 == 3 && decide (byteAt l 1 < 8) && leNat ((l.drop 4).take 4) == 0 &&
    (viaPf fn || leNat ((l.drop 2).take 2) == 0)

/-- The keys that FLAGS marks are loaded (R365). -/
def loadKeys (s : State) (d : SailDesc) (flags : Nat) (p : KeyPackage) : State :=
  let m := s.slot d.memKey
  let dma := flags % 2 = 1
  let sample := flags / 4 % 2 = 1
  let m1 : KeySlot := if dma then
      { m with dmaKey := p.dmaKey, dmaSender := p.dmaSender, killCode := p.killCode, dmaCount := 0, st := .active }
    else m
  let m2 : KeySlot := if sample then { m1 with sampleKey := p.sampleKey, sampleCount := 0 } else m1
  let s := if dma || sample then s.setSlot d.memKey { m2 with deliveries := satInc m2.deliveries } else s
  if flags / 2 % 2 = 1 then
    let k := s.slot d.linkKey
    let again := k.st == .active
    s.setSlot d.linkKey { k with
      linkKey := p.linkKey, senderId := p.senderId, linkCount := 0, st := .active, deliveries := satInc k.deliveries
      gen := if again then nextGen k.gen else k.gen
      rekeyAt := if again then some s.time else k.rekeyAt }
  else s

/-- The checks of R365 in their order; `none` when they pass. -/
def deliverJudge (s : State) (fn : HostFn) (sl : Nat) (d : SailDesc) (l : List Byte) (opened : Bool) : Option Status :=
  let flags := byteAt l 1
  let m := s.slot d.memKey
  let k := s.slot d.linkKey
  let out := fun (x : KeySlot) => x.st == .empty || x.st == .draining
  let soon := match k.rekeyAt with
    | none => false
    | some t => decide ((s.time - t).toNat < 10000000)
  if viaPf fn && d.conf then some .faultPermission
  else if out m || (d.hasLink && out k) then some .abortKeyRevoked
  else match leaseKeyOf s sl with
    | none => some .abortKeyRevoked
    | some key =>
      if leNat ((l.drop 8).take 32) != (Config.sha256 key).toNat ||
        ((flags % 2 == 1 || flags / 4 % 2 == 1) && m.st == .active) || (flags / 2 % 2 == 1 && !d.hasLink) ||
        (d.conf && m.st == .loaded && !(flags % 2 == 1 && flags / 4 % 2 == 1)) ||
        (flags / 2 % 2 == 1 && k.st == .active && soon) then some .faultPermission
      else if !opened then some .faultPoison
      else none

/-- KEK of a delivery (R365): the hash of the decapsulated secret, the label, UNIT_ID, the sail and the digest of the lease key. -/
def kekOf (s : State) (sl : Nat) (l : List Byte) : BitVec 256 :=
  Config.sha256 (Config.mlkemDecaps (s.sec.leaseKeys.get 0 sl - 1) ((l.drop 40).take 1568) ++
    [0x4C, 0x4A, 0x36, 0x34, 0x4B, 0x45, 0x4B, 0x31] ++ leBytes 32 s.sec.unitId.toNat ++ leBytes 2 sl ++ (l.drop 8).take 32)

/-- The package of a delivery, when its GCM tag passes (R365). -/
def openPackage (s : State) (sl : Nat) (l : List Byte) : Option KeyPackage :=
  let k := kekOf s sl l
  let ct := (l.drop 1608).take 144
  if Config.gcmTag k 0 (l.take 1608) ct = (l.drop 1752).take 16 then
    let p := fitTo 144 (Config.gcmOpen k 0 (l.take 1608) ct)
    let f := fun (o n : Nat) => leNat ((p.drop o).take n)
    some { dmaKey := BitVec.ofNat 256 (f 0 32), dmaSender := BitVec.ofNat 32 (f 32 4), linkKey := BitVec.ofNat 256 (f 36 32),
           senderId := BitVec.ofNat 32 (f 68 4), sampleKey := BitVec.ofNat 256 (f 72 32), killCode := BitVec.ofNat 256 (f 104 32) }
  else none

/-- KEY_DELIVER. -/
def keyDeliverState (fn : HostFn) (l : List Byte) (s : State) : State :=
  match attestSail s fn (leNat ((l.drop 2).take 2)) with
  | none => s
  | some sl =>
    let fail := fun (st : Status) => answerDoe s fn st.code (leBytes 2 0)
    if !s.rst.fwRun then s
    else if !deliverFormOk fn l then fail .malformed
    else match s.desc sl with
      | none => fail .faultPermission
      | some d =>
        let opened := openPackage s sl l
        match deliverJudge s fn sl d l opened.isSome, opened with
        | none, some p =>
          let s := loadKeys s d (byteAt l 1) p
          answerDoe s fn Status.done.code (leBytes 2 (s.slot d.memKey).gen.toNat ++ leBytes 2 (s.slot d.linkKey).gen.toNat)
        | some st, _ => fail st
        | none, none => fail .faultPoison

/-- KEY_DELIVER as a row: the request is `l` followed by the end of it, such as its package, in `package`. -/
def execKeyDeliver (fn : HostFn) (l package : List Byte) (s : State) : Out := unitCmd s (keyDeliverState fn (l ++ package))

/-! ### The removal of a tenant (R366, R370, R371) -/

def countDiscards (s : State) (n : Nat) : State :=
  { s with sec := { s.sec with drained := satAdd s.sec.drained n } }

/-- The request tag that an unsent frame carries, if its operation holds a tag of this device. -/
def frameTag (f : TxFrame) : Option Nat :=
  match f.for_ with
  | .req t => some t
  | _ => none

/-- Outgoing frames of a sail that have not been sent are never sent (R371): the messages and frames dropped are
counted, and their operations complete with ABORT_KEY_REVOKED. -/
def dropUnsent (s : State) (sl : Nat) : State :=
  let mine := fun (p lease : Nat) => leaseSail s p lease == some sl
  let gone := s.ryu.outbox.filter (fun m => decide (m.port < 32) && mine m.port m.lease)
  let tags := gone.filterMap (fun m => if [0x01, 0x02, 0x10, 0x60, 0x62].contains m.op then some m.tag else none)
  let s1 := { s with ryu := { s.ryu with
    outbox := s.ryu.outbox.filter (fun m => !(decide (m.port < 32) && mine m.port m.lease)) } }
  let unsent := fun (p : Nat) (f : TxFrame) => f.resends == 0 && mine p f.lease
  let frames := s1.ryu.ports.flatMap (fun p => p.2.sendQ.filter (unsent p.1))
  let s2 := { s1 with ryu := { s1.ryu with ports := s1.ryu.ports.map (fun p =>
    (p.1, { p.2 with sendQ := p.2.sendQ.filter (fun f => !unsent p.1 f) })) } }
  let all := (tags ++ frames.filterMap frameTag).eraseDups
  let s3 := all.foldl (fun s t => match (s.ryu.tags.get TagSt.free t).op with
    | some o => if o.sail == sl then endOp s t o .abortKeyRevoked [] [] else s
    | none => s) s2
  countDiscards s3 (gone.length + frames.length)

/-- Step 1 of R370 for a sail: both slots drain, its exports and ingest streams end, its lease key is gone. -/
def beginDrain (s : State) (sl : Nat) (d : SailDesc) : State :=
  let s := drainSlot s d.memKey
  let s := if d.hasLink then drainSlot s d.linkKey else s
  let s := s.ryu.exports.foldl (fun s p => if p.2.sail == sl then releaseExport s p.1 else s) s
  let s := s.ryu.ingest.foldl (fun s p => if p.2.sail == sl then closeIngest s p.1 else s) s
  dropUnsent { s with sec := { s.sec with leaseKeys := s.sec.leaseKeys.erase sl } } sl

/-- The queues of a sail with a context. -/
def sailQueues (s : State) (sl : Nat) : List Nat :=
  (s.queues.filter (fun p => decide (p.1 < 8192) && p.2.st != .idle && s.ctxSail p.2.ctx == some sl)).map (·.1)

/-- Every command of a sail that has started is ended as by a context reset; a RUN that waits for its cores has not
started (R366). -/
def revokeCommands (s : State) (sl : Nat) : State :=
  let s := (sailQueues s sl).foldl (fun s q =>
    (s.queue q).cmds.foldl (fun s c =>
      if c.isCompleted || c.phase == .fetched then s
      else endCommand s q c.n (if c.isStarted then .abortContextReset else .abortKeyRevoked)) s) s
  (sailCtxs s sl).foldl (fun s c => endBatch s c .abortContextReset) s

/-- KEY_REVOKE (R364, R366, R372). -/
def keyRevokeState (fn : HostFn) (sl : Nat) (code : BitVec 256) (s : State) : State :=
  match attestSail s fn sl with
  | none => s
  | some t =>
    let answer := fun (s : State) (st : Status) => answerDoe s fn st.code (leBytes 2 0)
    if !s.rst.fwRun then s
    else match s.desc t with
      | none => answer s .faultPermission
      | some d =>
        let m := s.slot d.memKey
        if viaPf fn && d.conf then answer s .faultPermission
        else if !(m.st == .active || m.st == .draining) || m.killCode != code then
          answer (s.setSlot d.memKey { m with badKill := satInc m.badKill }) .faultPermission
        else if m.st == .draining then answer s .done
        else
          let s := beginDrain s t d
          let s := revokeCommands (s.updSail t (fun x => { x with revoked := true })) t
          answer s .done

def execKeyRevoke (fn : HostFn) (sl : Nat) (code : BitVec 256) (s : State) : Out := unitCmd s (keyRevokeState fn sl code)

/-- The slots of a sail that have drained for 2 ms. -/
def drainedSlots (s : State) (sl : Nat) : List Nat :=
  (s.sec.slots.filter (fun p => p.2.sail == sl && p.2.st == .draining && (match p.2.drainAt with
    | none => false
    | some t => decide ((s.time - t).toNat ≥ 2000000)))).map (·.1)

/-- The migrations of a sail's contexts that began under an old generation of its memory slot. -/
def oldMigs (s : State) (sl : Nat) : List (Nat × Migration) :=
  (s.ctxs.filter (fun c => s.ctxSail c.1 == some sl)).flatMap (fun c =>
    (c.2.migs.filter (fun m => m.keyGen != s.memGen sl)).map (fun m => (c.1, m)))

/-- DRAIN_BOUND_EXPIRY (R370, step 3): descriptors and migrations that still carry an old generation are discarded and counted, and
the slots are zeroized. -/
def drainBoundState (sl : Nat) (s : State) : State :=
  let l := drainedSlots s sl
  if l.isEmpty then s
  else
    let old := s.dma.flatMap (fun p => (p.2.descs.filter (fun d =>
      d.phase == .running && s.ctxSail d.ctx == some sl && d.keyGen != s.memGen sl)).map (fun d => (p.1, d)))
    let s := old.foldl (fun s p => finishDesc s p.1 p.2 .abortKeyRevoked 0) s
    let migs := oldMigs s sl
    let s := migs.foldl (fun s m => migFail s m.1 m.2 .abortKeyRevoked) s
    l.foldl zeroSlot (countDiscards s (old.length + migs.length))

def execDrainBoundExpiry (sl : Nat) (s : State) : Out := unitCmd s (drainBoundState sl)

/-! ### CONF_COUNTER_WINDOW (R374) -/

/-- The 1 ms window that has ended gives a physical function's view of a confidential sail's counters: what they held at its
end. -/
def confWindowState (sl : Nat) (s : State) : State :=
  let w := s.time.toNat / 1000000
  if ((s.desc sl).map (·.conf)).getD false && decide (s.sec.confWindow.get 0 sl < w) then
    let s := s.updSail sl (fun x => { x with energyPf := x.energyHeld, coreTimePf := x.coreTimeHeld })
    { s with sec := { s.sec with confWindow := s.sec.confWindow.set 0 sl w } }
  else s

def execConfCounterWindow (sl : Nat) (s : State) : Out := unitCmd s (confWindowState sl)

end Sys2Proof.Machine
end

