-- ==== Sys2Proof/Machine/Mesh.lean ====
section
/-! DEFINITION. The scheduled mesh (R141 to R170): links, slot tables, what a router takes from its local interface and delivers
to it, one slot of a router, the swap flag.
Choices of the model here: log entry 19 (DESIGN CHOICE), log entry 20 (DESIGN CHOICE), log entry 63 (DESIGN
CHOICE). -/

namespace Sys2Proof.Machine

open Sys2Proof

/-! ### Links (R141, R142, R145) -/

def routers : Nat := 2465

/-- A core router by mast, row and column. -/
def coreRouterAt (m row col : Nat) : Nat := 288 * m + 24 * row + col

/-- The edge router behind the south side of a mast's row 11, if any. -/
def southEdge (m col : Nat) : Option Nat :=
  if m = 5 && 4 ≤ col && col ≤ 7 then some (2432 + (col - 4))
  else if m = 6 && 16 ≤ col && col ≤ 19 then some (2436 + (col - 16))
  else if (m = 1 || m = 2) && 3 ≤ col && col ≤ 8 then some (2440 + 12 * (m - 1) + (col - 3))
  else if (m = 1 || m = 2) && 15 ≤ col && col ≤ 20 then some (2446 + 12 * (m - 1) + (col - 15))
  else if m = 0 && col = 10 then some 2464
  else none

/-- Where a core router's output leads: the router, its input, and δ. -/
def coreLink (r : Nat) (d : Dir) : Option (Nat × Dir × Nat) :=
  let m := r / 288
  let row := r % 288 / 24
  let col := r % 24
  match d with
  | .n =>
    if row > 0 then some (r - 24, .s, 1)
    else some (2304 + 6 * (4 * (col / 6) + m % 4) + col % 6, (if m < 4 then .n else .s), 7)
  | .s =>
    if row < 11 then some (r + 24, .n, 1) else (southEdge m col).map (fun e => (e, .n, 7))
  | .e =>
    if col < 23 then some (r + 1, .w, if col = 11 then 2 else 1)
    else if m % 4 ≠ 3 then some (coreRouterAt (m + 1) row 0, .w, 7)
    else if row < 8 then some (2400 + (if m = 3 then 8 else 24) + row, .n, 7)
    else none
  | .w =>
    if col > 0 then some (r - 1, .e, if col = 12 then 2 else 1)
    else if m % 4 ≠ 0 then some (coreRouterAt (m - 1) row 23, .e, 7)
    else if row < 8 then some (2400 + (if m = 0 then 0 else 16) + row, .n, 7)
    else none
  | .l => none

/-- Where a yard router's output leads. -/
def yardLink (r : Nat) (d : Dir) : Option (Nat × Dir × Nat) :=
  let y := (r - 2304) / 6
  let j := (r - 2304) % 6
  match d with
  | .n => some (coreRouterAt (y % 4) 0 (6 * (y / 4) + j), .n, 7)
  | .s => some (coreRouterAt (y % 4 + 4) 0 (6 * (y / 4) + j), .n, 7)
  | .e => if j < 5 then some (r + 1, .w, 1) else none
  | .w => if j > 0 then some (r - 1, .e, 1) else none
  | .l => none

/-- Where an edge router's one output leads. -/
def edgeLink (r : Nat) (d : Dir) : Option (Nat × Dir × Nat) :=
  match d with
  | .n =>
    if r < 2432 then
      let p := r - 2400
      let m := [0, 3, 4, 7].getD (p / 8) 0
      some (coreRouterAt m (p % 8) (if m % 4 = 0 then 0 else 23), (if m % 4 = 0 then .w else .e), 7)
    else if r < 2440 then
      let h := (r - 2432) / 4
      some (coreRouterAt (5 + h) 11 ((if h = 0 then 4 else 16) + (r - 2432) % 4), .s, 7)
    else if r < 2464 then
      let g := (r - 2440) / 6
      some (coreRouterAt (1 + g / 2) 11 ((if g % 2 = 0 then 3 else 15) + (r - 2440) % 6), .s, 7)
    else some (coreRouterAt 0 11 10, .s, 7)
  | _ => none

/-- The link at an output of a router: the far router, its input, δ. -/
def linkEnd (r : Nat) (d : Dir) : Option (Nat × Dir × Nat) :=
  if r < 2304 then coreLink r d else if r < 2400 then yardLink r d else if r < routers then edgeLink r d else none

def dirs : List Dir := [.n, .e, .s, .w]

def dirNo : Dir → Nat
  | .n => 0 | .e => 1 | .s => 2 | .w => 3 | .l => 4

/-- The key of the tokens in flight towards an input. -/
def inKey (r : Nat) (d : Dir) : Nat := 8 * r + dirNo d

def nullToken : Token := { kind := .null, swap := false }

/-- The tokens in flight towards an input: δ NULL tokens at the start (R145). -/
def tokensIn (s : State) (r : Nat) (d : Dir) : List Token :=
  match Tbl.look s.mesh.links (inKey r d) with
  | some l => l
  | none => match linkEnd r d with
    | none => []
    | some (_, _, n) => List.replicate n nullToken

def setTokens (s : State) (r : Nat) (d : Dir) (l : List Token) : State :=
  { s with mesh := { s.mesh with links := (s.mesh.links.erase (inKey r d)).insert (inKey r d) l } }

/-- Whether a router can complete its slot (R145): a token on every input, room on every output. -/
def canMove (s : State) (r : Nat) : Bool :=
  dirs.all (fun d => match linkEnd r d with
    | none => true
    | some (f, fd, n) => !(tokensIn s r d).isEmpty && decide ((tokensIn s f fd).length < 2 * n))

/-! ### Slot tables (R147, R148) -/

structure SlotEntry where
  out : Vector Nat 5
  inTag : Nat
  outTag : Nat
  inSail : Nat
  outSail : Nat
  rep : Nat
deriving DecidableEq, Repr

/-- A parsed table entry; the outputs stand in the order north, east, south, west, local. -/
def slotEntry (w : BitVec 64) : SlotEntry :=
  let f := fun hi lo => (w.toNat >>> lo) % 2 ^ (hi - lo + 1)
  { out := #v[f 2 0, f 5 3, f 8 6, f 11 9, f 14 12], inTag := f 27 16, outTag := f 39 28, inSail := f 45 40,
    outSail := f 51 46, rep := f 63 52 }

/-- The entry that covers a position. -/
def entryAt : List (BitVec 64) → Nat → Option SlotEntry
  | [], _ => none
  | w :: t, n => if n < (slotEntry w).rep + 1 then some (slotEntry w) else entryAt t (n - ((slotEntry w).rep + 1))

/-- The active bank of a router. -/
def activeBank (s : State) (r : Nat) : Nat := s.mesh.active.get 0 r

/-- The slots from a position to the end of the entry that covers it. -/
def entryLeft : List (BitVec 64) → Nat → Nat
  | [], _ => 0
  | w :: t, n => if n < (slotEntry w).rep + 1 then (slotEntry w).rep + 1 - n else entryLeft t (n - ((slotEntry w).rep + 1))

/-- The period of a table (R148): the sum of REP + 1 over its entries. -/
def bankPeriod (l : List (BitVec 64)) : Nat := (l.map (fun w => (slotEntry w).rep + 1)).sum

/-- The table that a router executes; none under the boot schedule, whose entries the spec does not give (log entry 20). -/
def presentTable (s : State) (r : Nat) : List (BitVec 64) :=
  if s.mesh.boot && !(s.mesh.switched.get false r) then [] else s.mesh.banks.get [] (2 * r + activeBank s r)

/-- The position of a router's present slot in its period (R148). -/
def position (s : State) (r : Nat) : Nat := s.mesh.slot.get 0 r % max 1 (bankPeriod (presentTable s r))

/-- What a router executes in its present slot. -/
def presentEntry (s : State) (r : Nat) : Option SlotEntry := entryAt (presentTable s r) (position s r)

/-! ### Local interfaces (R149, R151 to R153, R169) -/

/-- Whether the core tags of a router are held (R153): a fenced core, one whose reset runs, a spare, a core of a
cluster without a sail. -/
def lfenced (s : State) (r : Nat) : Bool :=
  if r < 2304 then
    let c := routerCore r
    fenced s 0 r || fenced s 1 c.1 || s.rst.blockBusy == some (0, r) || s.rst.blockBusy == some (1, c.1) ||
      (s.logicalOf c.1 c.2).isNone || (s.clusterSail c.1).isNone
  else false

/-- Whether a swap keeps the interfaces of a sail at NULL (R169). -/
def gated (s : State) (sl : Nat) : Bool :=
  let late := s.rig.phase == .scrub || s.rig.phase == .cut || s.rig.phase == .release
  match s.rig.classes.find? (fun p => p.1 == sl) with
  | none => false
  | some (_, .changed) => late
  | some (_, .removed) => late
  | some (_, .added) => s.mesh.injected && !s.mesh.complete
  | some (_, .continuing) => false

/-- The logical core at a core router. -/
def coreAt (s : State) (r : Nat) : Option Nat :=
  if r < 2304 then s.logicalOf (routerCore r).1 (routerCore r).2 else none

/-- The next frame of the SEND at the head of a core's stream queue (R51, R85): it leaves only against credit, which a stream that
ends at a port does not need. -/
def sendFrame (s : State) (k : Nat) (st : BitVec 4) : State × Option Frame :=
  match s.prog k, sendDef s k st with
  | some p, some d =>
    match p.strmQ with
    | ⟨.send f a len sent, pc⟩ :: t =>
      let n := min 64 (len - sent)
      let ck := tagKey d.srcRouter d.srcTag
      let toCore := decide (d.dstRouter < 2304)
      if f.st ≠ st || (s.core k).saving || n = 0 || (toCore && decide (s.mesh.credit.get 0 ck < n)) then (s, none)
      else
        match fullKey s k p (a + BitVec.ofNat 64 sent) with
        | none => (s, none)
        | some key =>
          if anyPoison s key n then (coreFaultAt s k pc .poison, none)
          else
            let l := readBytes s key n
            let fr : Frame := Frame.sealed
              { sail := BitVec.ofNat 6 d.sail, srcTag := BitVec.ofNat 12 st.toNat, first := sent == 0,
                last := sent + n == len, poison := false, half := n == 32, crc := 0,
                payload := l ++ List.replicate (64 - n) 0 }
            let s := s.setProg k (some { p with strmQ := ⟨.send f a len (sent + n), pc⟩ :: t })
            let out := match coreAt s d.dstRouter with
              | none => true
              | some j => !(coresOf s p.q p.n).contains j
            let s := if out then noReplay s p.q p.n else s
            ({ s with mesh := { s.mesh with credit := if toCore then s.mesh.credit.upd 0 ck (· - n) else s.mesh.credit } }, some fr)
    | _ => (s, none)
  | _, _ => (s, none)

/-- Queue frames of a SEND while the tag has room and nothing else waits for it. -/
def sendUp (s : State) (r k : Nat) (st : BitVec 4) : State :=
  (List.range (tagDepth r)).foldl (fun s _ =>
    let key := tagKey r st.toNat
    if (s.mesh.pend.get [] key).isEmpty && decide ((s.mesh.iface.get [] key).length < tagDepth r) then
      match sendFrame s k st with
      | (s', some f) => enqueue s' r st.toNat [f]
      | (s', none) => s'
    else s) s

/-- What the unit of a tag queues before a slot begins (R151). -/
def refill (s : State) (r tag : Nat) : State :=
  let s := moveUp s r tag
  if tag < 16 && !lfenced s r then
    match coreAt s r with
    | none => s
    | some k => sendUp s r k (BitVec.ofNat 4 tag)
  else s

/-- The frame that the local interface supplies for a tag (R151, R153, R169): the head of its queue; from a held core tag only the
end of a message left incomplete. -/
def supply (s0 : State) (r tag sl : Nat) : State × Option Frame :=
  if gated s0 sl then (s0, none)
  else
    let s := refill s0 r tag
    let key := tagKey r tag
    match s.mesh.iface.get [] key with
    | [] => (s, none)
    | f :: t =>
      if lfenced s r && tag ≤ 0x11 && !(f.last && f.poison && !f.first) then (s, none)
      else
        ({ s with mesh := { s.mesh with
            iface := s.mesh.iface.set [] key t
            partial_ := s.mesh.partial_.set 0 key (if f.last then 0 else f.sail.toNat + 1) } },
          some { f with src := key, born := s.mesh.slot.get 0 r })

/-- Count at a router. -/
def bumpRouter (s : State) (r : Nat) (f : RtrCounters → RtrCounters) : State :=
  { s with mesh := { s.mesh with cnt := s.mesh.cnt.upd RtrCounters.zero r f } }

/-! ### What is delivered (R152 to R155, R158) -/

/-- The bytes of a message, and its 32-byte units that are poisoned. -/
def messageBytes (l : List Frame) : List Byte := l.flatMap Frame.bytes
def messageMarks (l : List Frame) : List Bool := l.flatMap (fun f => if f.half then [f.poison] else [f.poison, f.poison])

/-- The request stream that ends at a tag of an endpoint. -/
def requestTo (s : State) (r tag : Nat) : Option StreamDef :=
  match s.rig.active with
  | none => none
  | some g => g.streams.find? (fun d => d.dstRouter == r && d.dstTag == tag && d.request)

/-- Request number `seq` of core `k` while its frames are on the mesh, with its program. -/
def sentReq (s : State) (k seq : Nat) : Option (Prog × ReqOut) :=
  ((tagHolders s k).flatMap (fun p => (p.reqs.filter (fun r => r.seq == seq && r.at_ == .mesh)).map (fun r => (p, r)))).head?

/-- A REQ to the remote engine of a Ryurun port (R228): a lookup on a table of another node, found through
the table's descriptor as a yard finds it (R118). `none` asks the request to wait. -/
def remoteReq (s : State) (sl k ctx q n tag : Nat) (record : List Byte) : Option (State × Option Status) :=
  let h := reqHdr record
  let u := reqUse s ctx q n
  if !headerOk record || !([0x01, 0x02, 0x03].contains h.yop) then some (s, some .malformed)
  else
    match readDesc s u h.table with
    | .hold _ _ => none
    | .bad st => some (s, some st)
    | .ok l =>
      let t := tableOf l
      if !descOk l || decide (returnLen h t > 65536) then some (s, some .malformed)
      else
        match tableRemote s u t with
        | .error st => some (s, some st)
        | .ok none => some (s, some .malformed)
        | .ok (some (node, a)) =>
          match findImport s sl node a t.span (fun i => i.lkup) with
          | none => some (s, some .faultPermission)
          | some (ih, i) =>
            match issueOp s .lkup sl ctx node i.win ih i.timeout 0 record.length (returnLen h t) i.ogen 0 record
                [] (.core k tag) with
            | .sent s' _ => some (s', none)
            | .stall => none
            | .fail st => some (s, some st)

/-- The endpoint of a request stream issues the request in its entry (R84): a yard takes it, the remote engine of a Ryurun port sends
it on or keeps its record; no other unit of the module serves requests. -/
def serveRequest (s : State) (r : Nat) (e : EpReq) (p : Prog) (record : List Byte) : State :=
  if 2304 ≤ r && r < 2400 then
    let y := (r - 2304) / 6
    let a := arrive s y e.sail p.ctx p.q p.n (.core e.lc e.tag 0) record
    settleArrival (updReqOut a.1 e.lc e.seq (fun x => { x with at_ := .yard y a.2 })) y a.2
  else
    let s := updReqOut s e.lc e.seq (fun x => { x with at_ := .endpoint })
    if 2400 ≤ r && r < 2432 then
      match remoteReq s e.sail e.lc p.ctx p.q p.n e.tag record with
      | some (s', none) => s'
      | some (s', some st) => endpointReturn s' e.lc e.tag st [] []
      | none => s
    else endpointReturn s e.lc e.tag .malformed [] []

/-- Whether an endpoint keeps a request's record, which waits to be issued (R234). -/
def keepsRecord (s : State) (r : Nat) (e : EpReq) (p : Prog) (record : List Byte) : Bool :=
  2400 ≤ r && r < 2432 && (remoteReq s e.sail e.lc p.ctx p.q p.n e.tag record).isNone

/-- A request has reached its endpoint whole (R135, R154): it takes its place in the order of its stream; one with a poisoned frame
completes with FAULT_POISON (R158); one that its core no longer waits for is dropped. -/
def requestArrives (s : State) (r tag : Nat) (l : List Frame) : State :=
  match requestTo s r tag with
  | none => s
  | some d =>
    match coreAt s d.srcRouter with
    | none => s
    | some k =>
      match (l.getLast?.bind (·.note)).bind (fun m => sentReq s k m.1) with
      | none => s
      | some (p, q) =>
        let record := messageBytes l
        let e : EpReq := { sail := d.sail, lc := k, tag := q.tag, seq := q.seq, held := none, ret := none }
        let bad := (messageMarks l).contains true
        let keep := !bad && keepsRecord s r e p record
        let e := { e with held := if keep then some record else none }
        let s := { s with mesh := { s.mesh with eps := s.mesh.eps.upd [] (tagKey r tag) (fun t => t ++ [e]) } }
        if bad then endpointReturn (updReqOut s k q.seq (fun x => { x with at_ := .endpoint })) k q.tag .faultPoison [] []
        else serveRequest s r e p record

/-- A return has reached its core whole (R86, R155): the frames' notes name the request and the status. -/
def returnArrives (s : State) (k : Nat) (l : List Frame) : State :=
  match l.getLast? with
  | none => s
  | some f => match f.note with
    | none => s
    | some (seq, st) =>
      giveReturn s k seq st (if st == .done then messageBytes l else []) (if st == .done then messageMarks l else [])

/-- The units of credit of a credit frame. -/
def creditUnits (f : Frame) : Nat := leNat (f.payload.take 8)

/-- What a core does with a frame on one of its streams (R84 to R86): data of a receive stream goes to the posted buffers, credit to
the send stream, a return to its request. -/
def coreIntake (s : State) (k r : Nat) (st : BitVec 4) (f : Frame) : State :=
  let key := tagKey r st.toNat
  if (sendDef s k st).isSome then
    if f.poison then s
    else { s with mesh := { s.mesh with credit := s.mesh.credit.upd 0 key (· + 256 * creditUnits f) } }
  else
    let s := { s with mesh := { s.mesh with rx := s.mesh.rx.upd [] key (fun l => l ++ [f]) } }
    if (reqDef s k st).isSome then
      if f.last then
        let l := s.mesh.rx.get [] key
        returnArrives { s with mesh := { s.mesh with rx := s.mesh.rx.set [] key [] } } k l
      else s
    else absorb { s with mesh := { s.mesh with grant := s.mesh.grant.upd 0 key (· - f.bytes.length) } } k st

/-- What the unit at a router does with a frame on a tag. -/
def intake (s : State) (r tag : Nat) (f : Frame) : State :=
  let key := tagKey r tag
  match coreAt s r with
  | some k =>
    if tag < 16 then coreIntake s k r (BitVec.ofNat 4 tag) f
    else { s with mesh := { s.mesh with rx := s.mesh.rx.upd [] key (fun l => l ++ [f]) } }
  | none =>
    let s := { s with mesh := { s.mesh with rx := s.mesh.rx.upd [] key (fun l => l ++ [f]) } }
    if (requestTo s r tag).isSome && f.last then
      let l := s.mesh.rx.get [] key
      requestArrives { s with mesh := { s.mesh with rx := s.mesh.rx.set [] key [] } } r tag l
    else s

/-- A frame sent on OUT_L goes to the tag of its sail, else it is discarded and counted (R152, R153); the unit has it two slots
later (R161). -/
def deliver (s : State) (r : Nat) (e : SlotEntry) (f : Frame) : State :=
  if f.sail.toNat ≠ e.outSail || (lfenced s r && e.outTag ≤ 0x11) then
    bumpRouter s r (fun c => { c with discard := satInc c.discard })
  else
    { s with mesh := { s.mesh with eject := s.mesh.eject.upd [] r (fun l =>
        l ++ [{ due := s.mesh.slot.get 0 r + 2, tag := e.outTag, f := f }]) } }

/-- Whether an earlier frame of the same source tag is still under way (R154). -/
def olderUnderWay (s : State) (f : Frame) : Bool :=
  let older := fun (g : Frame) => g.src == f.src && decide (g.born < f.born)
  s.mesh.links.any (fun p => p.2.any (fun t => match t.kind with
    | .frame g => older g
    | _ => false)) || s.mesh.eject.any (fun p => p.2.any (fun e => older e.f))

/-- Hand a delivered frame to its unit, unless the core's tags are held by now (R153). -/
def handOver (s : State) (r : Nat) (e : Ejected) : State :=
  if lfenced s r && e.tag ≤ 0x11 then bumpRouter s r (fun c => { c with discard := satInc c.discard })
  else intake s r e.tag e.f

/-- The frames of a router that are due go to their units, those of one stream in the order in which they were sent (R154). -/
def deliverDue (s : State) (r : Nat) : State :=
  (s.mesh.eject.get [] r).foldl (fun s _ =>
    match (s.mesh.eject.get [] r).find? (fun e => decide (e.due ≤ s.mesh.slot.get 0 r) && !olderUnderWay s e.f) with
    | none => s
    | some e =>
      handOver { s with mesh := { s.mesh with eject := s.mesh.eject.set [] r ((s.mesh.eject.get [] r).erase e) } } r e) s

/-- A Ryurun port issues the oldest request whose record it keeps, once it can (R234). -/
def retryRemote (s : State) (r : Nat) : State :=
  if r < 2400 || 2432 ≤ r then s
  else
    match s.mesh.eps.findSome? (fun p => if p.1 / 4096 == r then (p.2.find? (fun e => e.held.isSome)).map (fun e => (p.1, e)) else none) with
    | none => s
    | some (key, e) =>
      match e.held, (tagHolders s e.lc).find? (fun p => p.reqs.any (fun x => x.seq == e.seq)) with
      | some record, some p =>
        if keepsRecord s r e p record then s
        else
          serveRequest { s with mesh := { s.mesh with eps := s.mesh.eps.upd [] key (fun l => l.map (fun x =>
            if x == e then { x with held := none } else x)) } } r { e with held := none } p record
      | _, _ => s

/-! ### One slot (R148, R158, R166) -/

/-- Take one token from an input: SKIP is consumed over its slots (R146); a frame that crossed a die link is
checked, and a token of a reserved kind or with a parity error counts and is NULL (R143, R158). The answer is the frame, if any, and
the SWAP bit. -/
def takeToken (s : State) (r : Nat) (d : Dir) : State × Option Frame × Bool :=
  match linkEnd r d, tokensIn s r d with
  | some (_, _, n), t :: l =>
    match t.kind with
    | .null => (setTokens s r d l, none, t.swap)
    | .bad => (bumpRouter (setTokens s r d l) r (fun c => { c with crc := satInc c.crc }), none, false)
    | .skip k =>
      (setTokens s r d (if k ≤ 1 then l else { t with kind := .skip (k - 1), swap := false } :: l), none, t.swap)
    | .frame f =>
      if n = 7 && f.crc != f.sum then
        (bumpRouter (setTokens s r d l) r (fun c => { c with crc := satInc c.crc }),
          some (Frame.sealed { f with poison := true }), t.swap)
      else (setTokens s r d l, some f, t.swap)
  | _, _ => (s, none, false)

/-- Send a token on an output. -/
def sendToken (s : State) (r : Nat) (d : Dir) (t : Token) : State :=
  match linkEnd r d with
  | none => s
  | some (f, fd, _) => setTokens s f fd (tokensIn s f fd ++ [t])

/-- The slots that the SKIP sent on an output still covers. -/
def skipLeft (s : State) (r : Nat) (d : Dir) : Nat := s.mesh.skips.get 0 (inKey r d)

def setSkip (s : State) (r : Nat) (d : Dir) (n : Nat) : State :=
  { s with mesh := { s.mesh with skips := s.mesh.skips.set 0 (inKey r d) n } }

/-- A SKIP ends before its last `n` slots: those go to tokens of their own. -/
def cutSkip (s : State) (r : Nat) (d : Dir) (n : Nat) : State :=
  match linkEnd r d with
  | none => s
  | some (f, fd, _) =>
    let l := tokensIn s f fd
    setSkip (match l.getLast? with
      | some ⟨.skip k, w⟩ => setTokens s f fd (l.dropLast ++ if n < k then [⟨.skip (k - n), w⟩] else [])
      | _ => s) r d 0

/-- What a router sends on an output in one slot (R146, R148): in the run of slots for which its table names no source it sends one
SKIP, which a SWAP flag or a new table ends; otherwise one token. `left` are the slots that the present entry still covers. -/
def sendSlot (s : State) (r : Nat) (d : Dir) (code left : Nat) (t : Token) : State :=
  let n := skipLeft s r d
  if (linkEnd r d).isNone then s
  else if 0 < n && code == 0 && !t.swap then setSkip s r d (n - 1)
  else
    let s := if 0 < n then cutSkip s r d n else s
    if code == 0 && !t.swap && 2 ≤ left then
      setSkip (sendToken s r d { kind := .skip (min 64 left), swap := false }) r d (min 64 left - 1)
    else sendToken s r d t

/-- A router switches banks after the slot in which it has seen the swap flag (R166). -/
def switchBank (s : State) (r : Nat) : State :=
  let sw := s.mesh.switched.set false r true
  let bank := if s.mesh.boot then 0 else 1 - activeBank s r
  { s with mesh := { s.mesh with
      switched := sw
      active := s.mesh.active.set 0 r bank
      shadowOk := s.mesh.shadowOk.set false r false
      complete := s.mesh.complete || decide (sw.length = routers) } }

/-- Whether a router passes the SWAP flag on and switches: a flag that arrives after its switch, or outside a swap, has no effect
(R166). -/
def takesFlag (s : State) (r : Nat) (flag : Bool) : Bool :=
  !(s.mesh.switched.get false r) && ((flag && s.mesh.injected) || (r == 2464 && s.mesh.swapNext))

/-- One slot of a router. -/
def routerSlot (r : Nat) (s : State) : State :=
  if !s.mesh.running || decide (r ≥ routers) || !canMove s r then s
  else
    let e := presentEntry s r
    let left := entryLeft (presentTable s r) (position s r)
    let tn := takeToken s r .n
    let te := takeToken tn.1 r .e
    let ts := takeToken te.1 r .s
    let tw := takeToken ts.1 r .w
    let local_ := match e with
      | none => (tw.1, none)
      | some e => if e.out.toList.contains 5 then supply tw.1 r e.inTag e.inSail else (tw.1, none)
    let flag := takesFlag s r (tn.2.2 || te.2.2 || ts.2.2 || tw.2.2)
    let pick := fun (code : Nat) =>
      match code with
      | 1 => tn.2.1
      | 2 => te.2.1
      | 3 => ts.2.1
      | 4 => tw.2.1
      | 5 => local_.2
      | _ => none
    let code := fun (d : Dir) => match e with
      | none => 0
      | some e => e.out.toList.getD (dirNo d) 0
    let s := dirs.foldl (fun s d => sendSlot s r d (code d) left
      { kind := match pick (code d) with
          | none => .null
          | some f => .frame f
        swap := flag }) local_.1
    let s := match e with
      | none => s
      | some e => match pick (e.out.toList.getD 4 0) with
        | none => s
        | some f => deliver s r e f
    let s := retryRemote (deliverDue s r) r
    let s := { s with mesh := { s.mesh with
      slot := s.mesh.slot.set 0 r (s.mesh.slot.get 0 r + 1)
      injected := s.mesh.injected || (r == 2464 && s.mesh.swapNext)
      swapNext := s.mesh.swapNext && r != 2464 } }
    if flag then switchBank s r else s

/-- A slot of a router; one that the router completes while its droop flag is set is stretched and counted (R434). A router whose
island has been stopped completes none (R435). -/
def meshSlotState (r : Nat) (s : State) : State :=
  if s.pwr.stopped.contains (.router r) then s
  else
    let t := routerSlot r s
    if s.pwr.droop.any (fun i => i.1 == .router r) && t.mesh.slot.get 0 r != s.mesh.slot.get 0 r then
      bumpRouter t r (fun c => { c with stretch := satInc c.stretch })
    else t

/-- MESH_RTR_CLR (R170): a write of 1 by a physical function clears the counters of the selected router. -/
def meshClear (fn : HostFn) (v : Word) (s : State) : State :=
  if fn.isPf && v.getLsbD 0 then bumpRouter s (min s.mesh.rtrSel 2464) (fun _ => RtrCounters.zero) else s

def execMeshRtrClr (fn : HostFn) (v : Word) (s : State) : Out := unitCmd s (meshClear fn v)

end Sys2Proof.Machine
end

