-- ==== Sys2Proof/Machine/Image.lean ====
section
/-! DEFINITION. The rig image (R264 to R269): its header, directory and sections, and the rig that it describes.
Choices of the model here: log entry 35 (DESIGN CHOICE). -/

namespace Sys2Proof.Machine

open Sys2Proof

/-- A directory entry (R265). -/
structure DirEntry where
  ty : Nat
  zero : Nat
  count : Nat
  off : Nat
  len : Nat
deriving DecidableEq, Repr

/-- An image in host memory: the key of its first byte, its length, its directory. -/
structure Img where
  key : Nat
  len : Nat
  dir : List DirEntry
deriving DecidableEq, Repr

/-- `n` bytes at an offset of an image, as a number. -/
def imgNat (s : State) (m : Img) (o n : Nat) : Nat := readNat s (m.key + o) n

/-- Bits [hi:lo] of a number. -/
def bits (x hi lo : Nat) : Nat := x / 2 ^ lo % 2 ^ (hi - lo + 1)

/-- Whether `n` bytes at an offset are 0. -/
def imgZero (s : State) (m : Img) (o n : Nat) : Bool := (List.range n).all (fun i => imgNat s m (o + i) 1 == 0)

/-- The image of a LOAD: its directory holds as many entries as the header says. -/
def imgOf (s : State) (key len : Nat) : Img :=
  let h : Img := { key := key, len := len, dir := [] }
  { h with dir := (List.range (min 32 (imgNat s h 6 2))).map (fun i =>
      let o := 256 + 16 * i
      { ty := imgNat s h o 2, zero := imgNat s h (o + 2) 2, count := imgNat s h (o + 4) 4, off := imgNat s h (o + 8) 4,
        len := imgNat s h (o + 12) 4 }) }

/-- The directory entry of a section. -/
def Img.sec (m : Img) (ty : Nat) : Option DirEntry := m.dir.find? (fun e => e.ty == ty)

/-- The offset of entry `i` of a section with entries of `size` bytes. -/
def Img.at_ (m : Img) (ty size i : Nat) : Nat := ((m.sec ty).map (·.off)).getD 0 + size * i

def Img.count (m : Img) (ty : Nat) : Nat := ((m.sec ty).map (·.count)).getD 0

def secSails : Nat := 2
def secCores : Nat := 3
def secOwners : Nat := 4
def secQuotas : Nat := 5
def secYards : Nat := 6
def secLogs : Nat := 7
def secSched : Nat := 8
def secStreams : Nat := 9
def secLinks : Nat := 10
def secReef : Nat := 11
def secTelltale : Nat := 12
def secBudget : Nat := 13
def secSign : Nat := 15

/-- The entries of a section of fixed form: count and length, or the size of one entry of a list. -/
def fixedForm (ty : Nat) : Option (Nat × Nat) :=
  match ty with
  | 2 => some (64, 8192) | 3 => some (64, 4096) | 4 => some (5312, 5312) | 5 => some (4608, 9216)
  | 6 => some (16, 2048) | 10 => some (32, 16384)
  | _ => none

def entrySize (ty : Nat) : Option Nat :=
  match ty with
  | 7 => some 16 | 9 => some 32 | 11 => some 32 | 12 => some 16 | 13 => some 16
  | _ => none

/-! ### Sections -/

/-- Words 0 to 7 of a sail descriptor. -/
def sailWord (s : State) (m : Img) (i w : Nat) : Nat := imgNat s m (m.at_ secSails 128 i + 8 * w) 8

def sailPresent (s : State) (m : Img) (i : Nat) : Bool := sailWord s m i 0 % 2 == 1

/-- A sail descriptor (R267). -/
def parseSail (s : State) (m : Img) (i : Nat) : SailDesc :=
  let w := sailWord s m i
  { role := bits (w 0) 2 1, conf := bits (w 0) 3 3 == 1, memKey := bits (w 0) 22 16, linkKey := bits (w 0) 30 24,
    leaseRef := BitVec.ofNat 32 (bits (w 0) 63 32), ctxFirst := bits (w 1) 10 0, ctxCount := bits (w 1) 22 11,
    qFirst := bits (w 1) 35 23, qCount := bits (w 1) 49 36, semFirst := bits (w 2) 13 0, semCount := bits (w 2) 28 14,
    seqFirst := bits (w 2) 36 29, seqCount := bits (w 2) 45 37, vf0 := bits (w 3) 6 0, vf1 := bits (w 3) 14 8,
    cgQuota := bits (w 3) 25 16, cgHold := bits (w 3) 63 32, devTags := bits (w 4) 15 0, cleats := bits (w 4) 28 16,
    exports := bits (w 4) 39 29, imports := bits (w 4) 52 40, ingest := bits (w 4) 61 53, migYard := bits (w 5) 3 0,
    migEn := bits (w 5) 4 4 == 1, cxl0 := bits (w 5) 18 8, cxl1 := bits (w 5) 29 19, trimWeight := bits (w 5) 39 32,
    saveBase := bits (w 6) 47 0, saveLen := bits (w 7) 31 0 }

/-- The present sails of an image. -/
def parseSails (s : State) (m : Img) : Tbl SailDesc :=
  ((List.range 64).filter (sailPresent s m)).map (fun i => (i, parseSail s m i))

/-- Byte `j` of entry `i` of a section. -/
def imgByte (s : State) (m : Img) (ty size i j : Nat) : Nat := imgNat s m (m.at_ ty size i + j) 1

/-- A core map entry (R268). -/
def parseCore (s : State) (m : Img) (i : Nat) : CoreMap :=
  let b := imgByte s m secCores 64 i
  { phys := (List.range 34).map b, spare0 := b 34, spare1 := b 35, owner := BitVec.ofNat 8 (b 36) }

/-- A log entry (R266). -/
def parseLog (s : State) (m : Img) (i : Nat) : LogEntry :=
  { addr := imgNat s m (m.at_ secLogs 16 i) 6, sail := imgByte s m secLogs 16 i 6, yard := imgByte s m secLogs 16 i 7,
    log2 := imgByte s m secLogs 16 i 8 }

/-- A stream entry (R266): source router and tag, destination router and tag in bytes 0 to 7, sail and kind in
bytes 8 and 9, the quota in bytes 10 and 11, D_max in bytes 12 to 15, G in bytes 16 and 17. -/
def parseStream (s : State) (m : Img) (i : Nat) : StreamDef :=
  let o := m.at_ secStreams 32 i
  let f := fun a n => imgNat s m (o + a) n
  { srcRouter := f 0 2, srcTag := f 2 2, dstRouter := f 4 2, dstTag := f 6 2, sail := f 8 1, request := f 9 1 == 1,
    quota := f 10 2, dmax := f 12 4, gap := f 16 2 }

/-- A LINKS entry (R269). -/
def parseLink_ (s : State) (m : Img) (p : Nat) : LinkDef :=
  let b := imgByte s m secLinks 512 p
  let h := fun j => b j + 256 * b (j + 1)
  { slots := (List.range 256).map b, leases := (List.range 15).map (fun i => b (256 + i)), peerNode := h 272, peerPort := b 274,
    credits := (List.range 45).map (fun i => h (276 + 2 * i)) }

/-- A REEF entry (R344). -/
def parseReef (s : State) (m : Img) (i : Nat) : ReefDef :=
  let f := fun a n => imgNat s m (m.at_ secReef 32 i + a) n
  { rclass := f 0 1, index := f 2 2, sail := f 4 1, tclass := f 5 1, rate := f 8 4, latency := f 12 4, share := f 16 1 }

/-- A TELLTALE entry (R414). -/
def parseTelltale (s : State) (m : Img) (i : Nat) : TelltaleDef :=
  let f := fun a n => imgNat s m (m.at_ secTelltale 16 i + a) n
  { kind := f 0 1, index := f 2 2, window := f 4 4, threshold := f 8 4 }

/-- A BUDGET entry (R349). -/
def parseBudget (s : State) (m : Img) (i : Nat) : BudgetDef :=
  let f := fun a n => imgNat s m (m.at_ secBudget 16 i + a) n
  { code := f 0 2, unit := f 2 2, ns := f 4 4 }

/-- One record of the SCHED section: its offset, its router, its entry count. -/
structure SchedRec where
  off : Nat
  router : Nat
  count : Nat
  extra : Bool
deriving DecidableEq, Repr

/-- The records of the SCHED section from offset `o` up to `e`. -/
def schedRecs (s : State) (m : Img) : Nat → Nat → Nat → List SchedRec
  | 0, _, _ => []
  | n + 1, o, e =>
    if o + 4 > e then []
    else
      let h := imgNat s m o 4
      let r : SchedRec := { off := o, router := bits h 11 0, count := bits h 27 16,
                            extra := bits h 15 12 != 0 || bits h 31 28 != 0 }
      r :: schedRecs s m n (o + 4 + 8 * r.count) e

def imgRecs (s : State) (m : Img) : List SchedRec :=
  match m.sec secSched with
  | none => []
  | some d => schedRecs s m 2466 d.off (d.off + d.len)

def SchedRec.words (s : State) (m : Img) (r : SchedRec) : List (BitVec 64) :=
  (List.range r.count).map (fun i => BitVec.ofNat 64 (imgNat s m (r.off + 4 + 8 * i) 8))

/-- A table of the nonzero values of `f` below `n`. -/
def nonzero (n : Nat) (f : Nat → Nat) : Tbl Nat := ((List.range n).map (fun i => (i, f i))).filter (fun p => p.2 != 0)

def qword (s : State) (m : Img) (o : Nat) : BitVec 64 := BitVec.ofNat 64 (imgNat s m o 8)

/-- The SHA-256 of an image. -/
def imgDigest (s : State) (m : Img) : BitVec 256 := Config.sha256 (readBytes s m.key m.len)

/-- The rig that an image describes. -/
def parseRig (s : State) (m : Img) : Rig :=
  let list := fun (ty : Nat) => List.range (m.count ty)
  { serial := imgNat s m 16 8, base := imgNat s m 24 8, period := imgNat s m 12 4,
    target := BitVec.ofNat 256 (imgNat s m 32 32), created := qword s m 64, digest := imgDigest s m, dir := m.dir.map (·.ty),
    sails := parseSails s m, cores := (List.range 64).map (fun i => (i, parseCore s m i)),
    owner := (nonzero 5312 (fun i => imgByte s m secOwners 1 i 0)).map (fun p => (p.1, BitVec.ofNat 8 p.2)),
    quotas := nonzero 4608 (fun i => imgNat s m (m.at_ secQuotas 2 i) 2),
    fetch := (List.range 1024).map (fun i => (i, imgByte s m secYards 128 (i / 64) (i % 64))),
    remoteEntries := nonzero 16 (fun y => imgNat s m (m.at_ secYards 128 y + 64) 2),
    logs := (list secLogs).map (parseLog s m),
    sched := (imgRecs s m).map (fun r => (r.router, r.words s m)),
    streams := (list secStreams).map (parseStream s m), links := (List.range 32).map (fun p => (p, parseLink_ s m p)),
    reef := (list secReef).map (parseReef s m), telltale := (list secTelltale).map (parseTelltale s m),
    budget := (list secBudget).map (parseBudget s m) }

/-! ### Routes of a schedule (R161, R163) -/

/-- One router of a route: the output it leaves by (4 for the local port) and the slot. -/
structure Hop where
  router : Nat
  out : Nat
  slot : Nat
deriving DecidableEq, Repr

/-- A route: where it starts, where it ends, its delay, its routers. -/
structure Route1 where
  srcRouter : Nat
  srcTag : Nat
  srcSail : Nat
  slot : Nat
  dstRouter : Nat
  dstTag : Nat
  dstSail : Nat
  delay : Nat
  hops : List Hop
deriving DecidableEq, Repr

/-- The table entry of a router in a slot of a rig's schedule. -/
def Rig.slotAt (r : Rig) (router slot : Nat) : Option SlotEntry :=
  match Tbl.look r.sched router with
  | none => none
  | some l => entryAt l slot

/-- The outputs of an entry that carry a source code. -/
def SlotEntry.naming (e : SlotEntry) (code : Nat) : List Nat := (List.range 5).filter (fun i => e.out.toList[i]? == some code)

def dirOf (i : Nat) : Dir :=
  match i with
  | 0 => .n | 1 => .e | 2 => .s | 3 => .w
  | _ => .l

/-- The masthead's edge router (R141). -/
def mastheadRouter : Nat := 2464

/-- Whether the outputs that name one input are as R148 asks: one, or several for a token of the masthead. -/
def namedOk (src : Nat) (l : List Nat) : Bool := l.length == 1 || (src == mastheadRouter && !l.isEmpty)

/-- The results of all of a list, if every one has a result. -/
def allOf {α : Type} (l : List (Option (List α))) : Option (List α) :=
  l.foldr (fun x acc => match x, acc with
    | some a, some b => some (a ++ b)
    | _, _ => none) (some [])

/-- Follow a frame that leaves `router` by output `out` in `slot`: its routes, more than one for a broadcast of the masthead; none
when a route breaks R163. -/
def follow (r : Rig) (src tag sl s0 : Nat) : Nat → Nat → Nat → Nat → Nat → List Hop → Option (List Route1)
  | 0, _, _, _, _, _ => none
  | f + 1, router, out, slot, delay, hops =>
    let h : Hop := { router := router, out := out, slot := slot }
    if hops.any (fun x => x.router == router) then none
    else if out = 4 then
      (r.slotAt router slot).map (fun e =>
        [{ srcRouter := src, srcTag := tag, srcSail := sl, slot := s0, dstRouter := router, dstTag := e.outTag,
           dstSail := e.outSail, delay := delay, hops := hops ++ [h] }])
    else match linkEnd router (dirOf out) with
      | none => none
      | some (r2, d2, n) =>
        let slot2 := (slot + n) % max 1 r.period
        match r.slotAt r2 slot2 with
        | none => none
        | some e =>
          let l := e.naming (dirNo d2 + 1)
          if namedOk src l then allOf (l.map (fun o => follow r src tag sl s0 f r2 o slot2 (delay + n) (hops ++ [h]))) else none

/-- The routes that start at a router: none when one of them breaks R163. -/
def routesAt (r : Rig) (router : Nat) : Option (List Route1) :=
  (List.range r.period).foldl (fun acc slot =>
    match acc, r.slotAt router slot with
    | some l, some e =>
      let outs := e.naming 5
      if outs.isEmpty then some l
      else if namedOk router outs then
        (allOf (outs.map (fun o => follow r router e.inTag e.inSail slot 2500 router o slot 2 []))).map (fun x => l ++ x)
      else none
    | _, _ => none) (some [])

/-- Whether a stream needs slots in reverse (R154, R163): a request stream for returns, a stream between cores for credit. -/
def StreamDef.needsReverse (d : StreamDef) : Bool :=
  d.request || (decide (d.srcRouter < 2304) && decide (d.srcTag < 16) && decide (d.dstRouter < 2304) && decide (d.dstTag < 16))

/-- Whether a route is a slot of a stream, forward or in reverse. -/
def Route1.ofStream (x : Route1) (d : StreamDef) : Bool :=
  x.srcSail == d.sail && x.dstSail == d.sail &&
  ((x.srcRouter == d.srcRouter && x.srcTag == d.srcTag && x.dstRouter == d.dstRouter && x.dstTag == d.dstTag) ||
   (d.needsReverse && x.srcRouter == d.dstRouter && x.srcTag == d.dstTag && x.dstRouter == d.srcRouter && x.dstTag == d.srcTag))

/-- Every route of a rig, by starting router and slot. -/
def Rig.routes (r : Rig) : List Route1 := (List.range routers).flatMap (fun n => (routesAt r n).getD [])

/-- Whether two rigs give a sail the same clusters with the same cores (R276). -/
def sameClusters (a b : Rig) (sl : Nat) : Bool :=
  a.clusters sl == b.clusters sl && (a.clusters sl).all (fun n =>
    (Tbl.look a.cores n).map (fun m => (m.phys, m.owner)) == (Tbl.look b.cores n).map (fun m => (m.phys, m.owner)))

/-- The tags of a sail with their streams. -/
def Rig.tagsOf (r : Rig) (sl : Nat) : List (Nat × Nat × Nat × Nat × Bool) :=
  (r.streams.filter (fun d => d.sail == sl)).map (fun d => (d.srcRouter, d.srcTag, d.dstRouter, d.dstTag, d.request))

def sameRoutes (a b : Rig) (sl : Nat) : Bool :=
  a.routes.filter (fun x => x.srcSail == sl) == b.routes.filter (fun x => x.srcSail == sl)

/-- Whether a sail continues in the sense of R168. -/
def keepsRoutes (a b : Rig) (sl : Nat) : Bool := sameClusters a b sl && a.tagsOf sl == b.tagsOf sl && sameRoutes a b sl

/-- Whether two descriptors hold the same context, queue and VF numbers (R276). -/
def SailDesc.sameNumbers (a b : SailDesc) : Bool :=
  a.ctxRange == b.ctxRange && a.qRange == b.qRange && a.vf0 == b.vf0 && a.vf1 == b.vf1

/-- The class of a sail in a swap (R276). -/
def classOf (a b : Rig) (sl : Nat) : Option SailClass :=
  match Tbl.look a.sails sl, Tbl.look b.sails sl with
  | some x, some y => some (if x.sameNumbers y && keepsRoutes a b sl then .continuing else .changed)
  | some _, none => some .removed
  | none, some _ => some .added
  | none, none => none

/-- The rig of a device that holds none: every sail of the next one is added. -/
def Rig.empty : Rig :=
  { serial := 0, base := 0, period := 64, target := 0, created := 0, digest := 0, dir := [], sails := [], cores := [], owner := [],
    quotas := [], fetch := [], remoteEntries := [], logs := [], sched := [], streams := [], links := [], reef := [],
    telltale := [], budget := [] }

/-- The classes of the sails of two rigs. -/
def classesOf (a b : Rig) : List (Nat × SailClass) :=
  (List.range 64).filterMap (fun sl => (classOf a b sl).map (fun c => (sl, c)))

end Sys2Proof.Machine
end

