-- ==== Sys2Proof/Machine/Validate.lean ====
section
/-! DEFINITION. The validation of a rig (R163, R168, R273 to R275, R336, R344, R349, R357, R414): rules 0x01 to 0x10, the
first failure in the order of R273.
Choices of the model here: log entry 7 (DESIGN CHOICE), log entry 35 (DESIGN CHOICE), log entry 36 (DESIGN
CHOICE), log entry 40 (DEDUCED). -/

namespace Sys2Proof.Machine

open Sys2Proof

/-! ### The order of examination -/

/-- The first number below `n` that fails a check. -/
def firstBad (n : Nat) (ok : Nat → Bool) : Option Nat := (List.range n).find? (fun i => !ok i)

/-- Examine sections in directory order: the directory index and the entry of the first failure. -/
def bySections (m : Img) (l : List (Nat × Option Nat)) : Option (Nat × Nat) :=
  m.dir.zipIdx.findSome? (fun e => match l.find? (fun c => c.1 == e.1.ty) with
    | none => none
    | some c => c.2.map (fun k => (e.2, k)))

/-- The first entry at which a running sum passes its limit. -/
def firstOver (l : List (Nat × Nat)) (limit : Nat) : Option Nat :=
  (l.foldl (fun (a : Nat × Option Nat) x =>
    let t := a.1 + x.2
    (t, if a.2.isNone && decide (t > limit) then some x.1 else a.2)) (0, none)).2

/-- The least of several places. -/
def leastOf (l : List (Option Nat)) : Option Nat :=
  l.foldl (fun a x => match a, x with
    | some i, some j => some (min i j)
    | some i, none => some i
    | none, y => y) none

/-! ### Rule 0x01, FORMAT -/

/-- The header (R264): the offset of the first faulty field. -/
def headerBad (s : State) (m : Img) : Option Nat :=
  let f := imgNat s m
  if m.len < 256 || f 0 4 != 0x47524A4C then some 0
  else if f 4 2 != 1 then some 4
  else if f 6 2 < 1 || f 6 2 > 32 then some 6
  else if f 8 4 != m.len || m.len % 64 != 0 || m.len > 2 ^ 26 then some 8
  else if f 12 4 < 64 || f 12 4 > 16384 then some 12
  else if f 16 8 = 0 then some 16
  else (firstBad 180 (fun i => f (76 + i) 1 == 0)).map (76 + ·)

/-- A directory entry (R265, R266). -/
def dirOk (m : Img) (i : Nat) : Bool :=
  let n := m.dir.length
  match m.dir[i]? with
  | none => false
  | some e =>
    let form := match fixedForm e.ty, entrySize e.ty with
      | some x, _ => x == (e.count, e.len)
      | none, some z => e.len == z * e.count && (e.ty != 7 || decide (e.count ≤ 1024))
      | none, none => e.ty == 8 || (e.ty == 15 && e.count == 1)
    let before := m.dir.take i
    form && e.zero == 0 && e.off % 64 == 0 && decide (256 + 16 * n ≤ e.off) && decide (e.off + e.len ≤ m.len) &&
    before.all (fun d => d.ty != e.ty && (decide (d.off + d.len ≤ e.off) || decide (e.off + e.len ≤ d.off))) &&
    ((e.ty == 15) == (i + 1 == n)) && (e.ty != 15 || m.dir.all (fun d => decide (d.off ≤ e.off)))

/-- Every required section is present. -/
def requiredOk (m : Img) : Bool := [2, 3, 4, 5, 6, 8, 9, 10, 15].all (fun t => (m.sec t).isSome)

/-- A sail descriptor (R267): reserved bits are 0 and every count is within its range. -/
def sailForm (s : State) (m : Img) (i : Nat) : Bool :=
  let w := sailWord s m i
  let d := parseSail s m i
  if sailPresent s m i then
    bits (w 0) 15 4 == 0 && bits (w 0) 23 23 == 0 && bits (w 0) 31 31 == 0 && bits (w 1) 63 50 == 0 && bits (w 2) 63 46 == 0 &&
    bits (w 3) 7 7 == 0 && bits (w 3) 15 15 == 0 && bits (w 3) 31 26 == 0 && bits (w 4) 63 62 == 0 && bits (w 5) 7 5 == 0 &&
    bits (w 5) 31 30 == 0 && bits (w 5) 63 40 == 0 && bits (w 6) 63 48 == 0 && bits (w 7) 63 32 == 0 &&
    imgZero s m (m.at_ secSails 128 i + 64) 64 && decide (d.role ≤ 2) && decide (1 ≤ d.ctxCount) && decide (d.ctxCount ≤ 2048) &&
    decide (1 ≤ d.qCount) && decide (d.qCount ≤ 8192) && decide (d.semCount ≤ 16384) && decide (d.seqCount ≤ 256) &&
    decide (d.vf0 ≤ 64) && decide (d.vf1 ≤ 64) && decide (d.cgQuota ≤ 512) &&
    (d.cgHold == 0 || (decide (50 ≤ d.cgHold) && decide (d.cgHold ≤ 100000))) && decide (d.devTags ≤ 32768) &&
    decide (d.cleats ≤ 4096) && decide (d.exports ≤ 1024) && decide (d.imports ≤ 4096) && decide (d.ingest ≤ 256) &&
    decide (d.cxl0 ≤ 1024) && decide (d.cxl1 ≤ 1024) && decide (1 ≤ d.trimWeight) && d.saveBase % 65536 == 0
  else imgZero s m (m.at_ secSails 128 i) 128

/-- An owner byte (R269); ZSCRUB only for a far segment. -/
def ownerForm (b : Nat) (far : Bool) : Bool := (bits b 6 6 == 1 || bits b 5 0 == 0) && (far || bits b 7 7 == 0)

def coreForm (s : State) (m : Img) (i : Nat) : Bool :=
  let c := parseCore s m i
  c.phys.all (fun p => decide (p < 36)) && (decide (c.spare0 < 36) || c.spare0 == 255) &&
  (decide (c.spare1 < 36) || c.spare1 == 255) && ownerForm c.owner.toNat false && imgZero s m (m.at_ secCores 64 i + 37) 27

def yardForm (s : State) (m : Img) (i : Nat) : Bool :=
  (List.range 64).all (fun j => let b := imgByte s m secYards 128 i j; decide (b < 64) || b == 255) &&
  decide (imgNat s m (m.at_ secYards 128 i + 64) 2 ≤ 8192) && imgZero s m (m.at_ secYards 128 i + 66) 62

def logForm (s : State) (m : Img) (i : Nat) : Bool :=
  let e := parseLog s m i
  e.addr % 65536 == 0 && decide (e.sail < 64) && decide (e.yard < 16) && decide (18 ≤ e.log2) && decide (e.log2 ≤ 24) &&
  imgZero s m (m.at_ secLogs 16 i + 9) 7

def streamForm (s : State) (m : Img) (i : Nat) : Bool :=
  let d := parseStream s m i
  decide (d.srcRouter < routers) && decide (d.dstRouter < routers) && decide (d.srcTag < 4096) && decide (d.dstTag < 4096) &&
  decide (d.sail < 64) && decide (imgByte s m secStreams 32 i 9 ≤ 1) && imgZero s m (m.at_ secStreams 32 i + 18) 14

def linkForm (s : State) (m : Img) (p : Nat) : Bool :=
  let d := parseLink_ s m p
  d.slots.zipIdx.all (fun x => if x.2 % 32 = 0 then x.1 == 255 else decide (x.1 < 16) || x.1 == 255) &&
  d.leases.all (fun l => decide (l < 64) || l == 255) && imgByte s m secLinks 512 p 271 == 0 &&
  imgByte s m secLinks 512 p 275 == 0 && imgZero s m (m.at_ secLinks 512 p + 366) 146

def reefForm (s : State) (m : Img) (i : Nat) : Bool :=
  let e := parseReef s m i
  decide (e.rclass ≤ 4) && decide (e.sail < 64) && decide (e.tclass ≤ 2) && imgByte s m secReef 32 i 1 == 0 &&
  imgZero s m (m.at_ secReef 32 i + 6) 2 && imgZero s m (m.at_ secReef 32 i + 17) 15

def telltaleForm (s : State) (m : Img) (i : Nat) : Bool :=
  imgByte s m secTelltale 16 i 1 == 0 && imgZero s m (m.at_ secTelltale 16 i + 12) 4

def budgetForm (s : State) (m : Img) (i : Nat) : Bool := imgZero s m (m.at_ secBudget 16 i + 8) 8

/-- The SCHED section (R266): one record for every router, which fill the section; the record of the lowest router
that fails. -/
def schedForm (s : State) (m : Img) : Option Nat :=
  let l := imgRecs s m
  let size := l.foldl (fun a r => a + 4 + 8 * r.count) 0
  let bad := firstBad routers (fun n => match l.filter (fun r => r.router == n) with
    | [r] => !r.extra && decide (1 ≤ r.count) && decide (r.count ≤ 2048)
    | _ => false)
  match bad with
  | some n => some n
  | none =>
    if ((m.sec secSched).map (fun d => d.len == size || (decide (size < d.len) && decide (d.len < size + 64)))).getD false &&
      m.count secSched == routers then none else some 0

/-- FORMAT (R264 to R269). -/
def ruleFormat (s : State) (m : Img) : Option (Nat × Nat) :=
  match headerBad s m with
  | some o => some (0xFF, o)
  | none =>
    match firstBad m.dir.length (dirOk m) with
    | some i => some (0xFE, i)
    | none =>
      if !requiredOk m then some (0xFE, m.dir.length)
      else if (parseSails s m).any (fun p => decide (0 < p.2.cgQuota)) && (m.sec secLogs).isNone then some (0xFE, m.dir.length)
      else
        bySections m
          [(2, firstBad 64 (sailForm s m)), (3, firstBad 64 (coreForm s m)),
           (4, firstBad 5312 (fun i => ownerForm (imgByte s m secOwners 1 i 0) (decide (192 ≤ i) && decide (i < 4288)))),
           (6, firstBad 16 (yardForm s m)), (7, firstBad (m.count secLogs) (logForm s m)), (8, schedForm s m),
           (9, firstBad (m.count secStreams) (streamForm s m)), (10, firstBad 32 (linkForm s m)),
           (11, firstBad (m.count secReef) (reefForm s m)), (12, firstBad (m.count secTelltale) (telltaleForm s m)),
           (13, firstBad (m.count secBudget) (budgetForm s m))]

/-! ### Rules 0x02 to 0x04 -/

/-- The key that verifies rigs (R376, R383): the enrolled operator key, without one or in ANALYSIS Hemenik's life-cycle key; none
in SCRAPPED, which takes no rig. -/
def rigKey (s : State) : Option (List Byte) :=
  match s.sec.lc with
  | .scrapped => none
  | .analysis => some s.sec.romKeys.life
  | _ => some (s.sec.opKey.getD s.sec.romKeys.life)

/-- Whether the SIGNATURE section signs the hash of the image bytes before it (R270). -/
def imgSigned (s : State) (m : Img) : Bool :=
  match m.sec secSign, rigKey s with
  | some d, some k => hssCheck k (shaBytes (readBytes s m.key d.off)) (readBytes s (m.key + d.off) d.len)
  | _, _ => false

/-- SIGNATURE (R270). -/
def ruleSign (s : State) (m : Img) : Option (Nat × Nat) := if imgSigned s m then none else some (m.dir.length - 1, 0)

/-- SERIAL (R271). -/
def ruleSerial (s : State) (r : Rig) : Option (Nat × Nat) :=
  let b := match s.rig.active with
    | none => 0
    | some a => a.serial
  if r.serial ≤ s.rig.highSerial then some (0xFF, 16) else if r.base != b then some (0xFF, 24) else none

/-- TARGET (R271). -/
def ruleTarget (s : State) (r : Rig) : Option (Nat × Nat) :=
  if r.target = 0 || r.target = s.sec.unitId then none else some (0xFF, 32)

/-! ### Rules 0x05 to 0x09 -/

def Rig.hasSail (r : Rig) (sl : Nat) : Bool := (Tbl.look r.sails sl).isSome

/-- Whether a sail holds a lease on some port. -/
def Rig.holdsLease (r : Rig) (sl : Nat) : Bool := r.links.any (fun p => p.2.leases.contains sl)

/-- The sails that use a VF of a port below sail `i`. -/
def vfTaken (r : Rig) (port vf i : Nat) : Bool :=
  vf != 0 && r.sails.any (fun p => decide (p.1 < i) && (if port = 0 then p.2.vf0 else p.2.vf1) == vf)

/-- The parts of OWNERSHIP that a sail descriptor shows (R11, R267, R273, R357). -/
def sailOwns (s : State) (r : Rig) (i : Nat) : Bool :=
  match Tbl.look r.sails i with
  | none => true
  | some d =>
    let same := match s.rig.active with
      | none => true
      | some a => match Tbl.look a.sails i with
        | none => true
        | some o => o.memKey == d.memKey && o.linkKey == d.linkKey
    !(r.clusters i).isEmpty && r.ownerAt (offKey + d.memKey) == some i &&
    (!r.holdsLease i || (r.ownerAt (offKey + d.linkKey) == some i && d.linkKey != d.memKey)) &&
    !vfTaken r 0 d.vf0 i && !vfTaken r 1 d.vf1 i && same

/-- The yard of a yard router. -/
def routerYard (n : Nat) : Option Nat := if 2304 ≤ n && n < 2400 then some ((n - 2304) / 6) else none

/-- Lookup engines that a rig gives a sail in a yard. -/
def Rig.engines (r : Rig) (y sl : Nat) : List Nat := (List.range 32).filter (fun e => r.ownerAt (offLookup + 32 * y + e) == some sl)

def streamOwned (r : Rig) (d : StreamDef) : Bool :=
  r.hasSail d.sail && (!d.request || match routerYard d.dstRouter with
    | none => true
    | some y => !(r.engines y d.sail).isEmpty)

/-- OWNERSHIP. -/
def ruleOwner (s : State) (m : Img) (r : Rig) : Option (Nat × Nat) :=
  let named := fun (b : BitVec 8) => match ownerSail b with
    | none => true
    | some sl => r.hasSail sl
  bySections m
    [(2, firstBad 64 (sailOwns s r)),
     (3, firstBad 64 (fun n => ((Tbl.look r.cores n).map (fun c => named c.owner)).getD true)),
     (4, firstBad 5312 (fun i => named (r.owner.get 0 i))),
     (6, firstBad 16 (fun y => (List.range 64).all (fun j => let b := r.fetch.get 0 (64 * y + j); b == 255 || r.hasSail b))),
     (9, r.streams.findIdx? (fun d => !streamOwned r d)),
     (10, firstBad 32 (fun p => match Tbl.look r.links p with
       | none => true
       | some d => let l := d.leases.filter (· != 255); l.all r.hasSail && l.Nodup))]

/-- CORES: the cores of an entry are distinct, and an owned cluster maps only good ones. -/
def coresOk (s : State) (r : Rig) (n : Nat) : Bool :=
  match Tbl.look r.cores n with
  | none => true
  | some c =>
    let l := c.phys ++ [c.spare0, c.spare1].filter (· != 255)
    decide l.Nodup && ((ownerSail c.owner).isNone || c.phys.all (fun p => !fenced s 0 (routerOf n p)))

def ruleCores (s : State) (m : Img) (r : Rig) : Option (Nat × Nat) := bySections m [(3, firstBad 64 (coresOk s r))]

/-- Whether two spans of numbers share one. -/
def numbersMeet (a b : Nat × Nat) : Bool := decide (a.1 < b.1 + b.2) && decide (b.1 < a.1 + a.2) && a.2 != 0 && b.2 != 0

/-- OBJECTS (R13). -/
def objectsOk (r : Rig) (i : Nat) : Bool :=
  match Tbl.look r.sails i with
  | none => true
  | some d =>
    let within := fun (x : Nat × Nat) (n : Nat) => decide (x.1 + x.2 ≤ n)
    within d.ctxRange 2048 && within d.qRange 8192 && within d.semRange 16384 && within d.seqRange 256 &&
    r.sails.all (fun p => decide (i ≤ p.1) || !(numbersMeet p.2.ctxRange d.ctxRange || numbersMeet p.2.qRange d.qRange ||
      numbersMeet p.2.semRange d.semRange || numbersMeet p.2.seqRange d.seqRange))

def ruleObjects (m : Img) (r : Rig) : Option (Nat × Nat) := bySections m [(2, firstBad 64 (objectsOk r))]

/-- Channels of a sail in a yard. -/
def Rig.channels (r : Rig) (y sl : Nat) : List Nat := (List.range 8).filter (fun c => r.ownerAt (8 * y + c) == some sl)

/-- The least range-cache share of a sail at a unit (R190): 16 entries in a mast of one of its clusters and in a yard
of one of its channels or engines. -/
def cacheNeed (r : Rig) (u sl : Nat) : Nat :=
  if u < 16 then (if (r.channels u sl).isEmpty && (r.engines u sl).isEmpty then 0 else 16)
  else if u < 24 then (if (r.clusters sl).any (fun n => n / 8 == u - 16) then 16 else 0)
  else 0

/-- The limit on the sum of a unit's quotas (R190, R202, R234). -/
def unitLimit (u : Nat) : Nat := if u < 16 then 512 else if u < 24 then 2048 else if u < 40 then 32 else 1024

def quotasBad (r : Rig) : Option Nat :=
  leastOf ((List.range 72).flatMap (fun u =>
    [firstOver ((List.range 64).map (fun sl => (64 * u + sl, r.quotas.get 0 (64 * u + sl)))) (unitLimit u),
     (firstBad 64 (fun sl => !r.hasSail sl || decide (cacheNeed r u sl ≤ r.quotas.get 0 (64 * u + sl)))).map (64 * u + ·)]))

/-- Requests of a yard's streams (R135), over what remote lookups reserve. -/
def yardQuotaBad (r : Rig) : Option Nat :=
  leastOf ((List.range 16).map (fun y =>
    firstOver ((r.streams.zipIdx.filter (fun p => p.1.request && routerYard p.1.dstRouter == some y)).map (fun p => (p.2, p.1.quota)))
      (8192 - r.remoteEntries.get 0 y)))

/-- QUOTAS. -/
def ruleQuotas (m : Img) (r : Rig) : Option (Nat × Nat) :=
  let sum := fun (f : SailDesc → Nat) (n : Nat) => firstOver (r.sails.map (fun p => (p.1, f p.2))) n
  bySections m
    [(2, leastOf [sum (·.cgQuota) 512, sum (·.devTags) 32768, sum (·.cleats) 4096, sum (·.exports) 1024, sum (·.imports) 4096,
                  sum (·.ingest) 256, sum (·.cxl0) 1024, sum (·.cxl1) 1024]),
     (5, quotasBad r), (9, yardQuotaBad r)]

/-- The save area of a sail (R267, rule 0x09): in one DRAM channel that the sail owns. -/
def saveOk (r : Rig) (i : Nat) (d : SailDesc) : Bool :=
  let a := d.saveBase
  let e := a + 65536 * d.saveLen
  decide (e ≤ dramEnd) && decide (a < e) && a / 2 ^ 29 == (e - 1) / 2 ^ 29 && r.ownerAt (a / 2 ^ 29) == some i

/-- PLACEMENT (R127, R267). -/
def placeOk (r : Rig) (i : Nat) : Bool :=
  match Tbl.look r.sails i with
  | none => true
  | some d =>
    saveOk r i d && (!d.migEn || !(r.channels d.migYard i).isEmpty || !(r.engines d.migYard i).isEmpty) &&
    (d.cgQuota == 0 || (List.range 16).all (fun y => (r.channels y i).isEmpty || r.logs.any (fun l => l.sail == i && l.yard == y)))

def logPlaced (r : Rig) (l : LogEntry) : Bool :=
  let e := l.addr + 2 ^ l.log2
  decide (e ≤ dramEnd) && l.addr / 2 ^ 29 == (e - 1) / 2 ^ 29 && r.ownerAt (l.addr / 2 ^ 29) == some l.sail &&
  l.addr / 2 ^ 32 == l.yard

def rulePlace (m : Img) (r : Rig) : Option (Nat × Nat) :=
  bySections m [(2, firstBad 64 (placeOk r)), (7, r.logs.findIdx? (fun l => !logPlaced r l))]

/-! ### Rule 0x0A, SCHEDULE (R163) -/

/-- The form of a table (R147, R148): its length is the period, no reserved bit or code is used, an edge router uses
only the port towards the mesh and the local one. -/
def tableOk (r : Rig) (n : Nat) : Bool :=
  match Tbl.look r.sched n with
  | none => false
  | some l =>
    decide (l.length ≤ 2048) && (l.map (fun w => (slotEntry w).rep + 1)).sum == r.period &&
    l.all (fun w =>
      let e := slotEntry w
      let o := e.out.toList
      !w.getLsbD 15 && o.all (fun c => decide (c ≤ 5)) &&
      (decide (n < 2400) || (o[1]? == some 0 && o[2]? == some 0 && o[3]? == some 0)) &&
      (List.range 4).all (fun i => o[i]? == some 0 || (linkEnd n (dirOf i)).isSome))

/-- How often the tables of a rig name an input other than the local one for an output. -/
def namings (r : Rig) : Nat :=
  (r.sched.map (fun p => (p.2.map (fun w =>
    let e := slotEntry w
    (e.rep + 1) * (e.out.toList.filter (fun c => decide (1 ≤ c) && decide (c ≤ 4))).length)).sum)).sum

/-- How often routes take an input other than the local one; the parts that routes of one broadcast share count once. -/
def taken (l : List Route1) : Nat :=
  let own := l.filter (fun x => x.srcRouter != mastheadRouter)
  let cast := l.filter (fun x => x.srcRouter == mastheadRouter)
  (own.map (fun x => x.hops.length - 1)).sum + (cast.flatMap (fun x => x.hops.drop 1)).eraseDups.length

/-- The sail that owns the tags of a router, where the rig says so: that of a core router's cluster (R163). -/
def Rig.tagOwner (r : Rig) (router : Nat) : Option Nat := if router < 2304 then some ((r.clusterSail (routerCore router).1).getD 64) else none

/-- IN_SAIL and OUT_SAIL of a route agree with the owners (R163). -/
def Route1.owned (x : Route1) (r : Rig) : Bool :=
  x.srcSail == x.dstSail && (r.tagOwner x.srcRouter).getD x.srcSail == x.srcSail && (r.tagOwner x.dstRouter).getD x.dstSail == x.dstSail

/-- The slots of a stream in one direction. -/
def slotsOf (l : List Route1) (srcR srcT : Nat) : List Nat := (l.filter (fun x => x.srcRouter == srcR && x.srcTag == srcT)).map (·.slot)

/-- The largest gap between the slots of a list in a period (R162). -/
def gapOf (p : Nat) (l : List Nat) : Nat :=
  match l with
  | [] => p
  | a :: _ =>
    let next := l.drop 1 ++ [a + p]
    ((l.zip next).map (fun x => x.2 - x.1)).foldl max 0

/-- A stream has slots in each direction that it needs, and its D_max and G are those of its slots. -/
def streamSlots (r : Rig) (l : List Route1) (d : StreamDef) : Bool :=
  let mine := l.filter (fun x => x.ofStream d)
  let fwd := slotsOf mine d.srcRouter d.srcTag
  !fwd.isEmpty && (!d.needsReverse || !(slotsOf mine d.dstRouter d.dstTag).isEmpty) &&
  (mine.map (·.delay)).foldl max 0 == d.dmax && gapOf r.period fwd == d.gap

/-- The save stream of every core that a sail owns has at least P / 8 slots on its local port. -/
def saveSlotsOk (r : Rig) (l : List Route1) : Bool :=
  r.cores.all (fun c => (ownerSail c.2.owner).isNone || c.2.phys.all (fun p =>
    decide (r.period ≤ 8 * (slotsOf l (routerOf c.1 p) 0x010).length)))

/-- SCHEDULE. -/
def ruleSched (m : Img) (r : Rig) : Option (Nat × Nat) :=
  match firstBad routers (tableOk r) with
  | some n => bySections m [(8, some n)]
  | none =>
    match firstBad routers (fun n => (routesAt r n).isSome) with
    | some n => bySections m [(8, some n)]
    | none =>
      let l := r.routes
      let stray := l.find? (fun x => !x.owned r || !r.streams.any (fun d => x.ofStream d))
      match stray with
      | some x => bySections m [(8, some x.srcRouter)]
      | none =>
        if taken l != namings r || !saveSlotsOk r l then bySections m [(8, some 0)]
        else bySections m [(9, r.streams.findIdx? (fun d => !streamSlots r l d))]

/-! ### Rules 0x0B to 0x0D -/

/-- LINKS (R214, R220). -/
def linkOk (d : LinkDef) : Bool :=
  decide (4 ≤ (d.slots.filter (· == 15)).length) && decide (d.credits.sum + 64 ≤ 4096) &&
  d.leases.zipIdx.all (fun l => l.1 == 255 || (List.range 3).all (fun c => decide (18 ≤ d.credits.getD (3 * l.2 + c) 0)))

def ruleLinks (m : Img) (r : Rig) : Option (Nat × Nat) :=
  bySections m [(10, firstBad 32 (fun p => ((Tbl.look r.links p).map linkOk).getD false))]

/-- The nominal rate of a resource in units of 0.1 GB/s (R274). -/
def nominalRate (rc : Nat) : Nat :=
  match rc with
  | 0 => 2048 | 1 => 320
  | _ => 1280

def fencedNow (s : State) (rc i : Nat) : Bool :=
  match rc with
  | 0 => (s.tiers.chan.get ChanRate.reset i).fenced
  | 1 => (s.tiers.gchan.get ChanRate.reset i).fenced
  | _ => (s.cxl i).fenced

/-- ADMISSION (R274): 10^5 × the sum of the guarantees against 9 × the nominal rate × 10^4 (1 − b). -/
def admissionBad (s : State) (r : Rig) : Option Nat :=
  r.reef.zipIdx.findSome? (fun p =>
    let e := p.1
    if e.rclass > 3 then none
    else
      let sum := ((r.reef.take (p.2 + 1)).filter (fun x => x.rclass == e.rclass && x.index == e.index)).foldl (fun a x => a + x.rate) 0
      let cap := if fencedNow s e.rclass e.index then 0 else 9 * nominalRate e.rclass * (10000 - r.background e.rclass e.index false)
      if 100000 * sum ≤ cap then none else some p.2)

def ruleAdmission (s : State) (m : Img) (r : Rig) : Option (Nat × Nat) := bySections m [(11, admissionBad s r)]

/-- Units of a REEF class. -/
def reefUnits (rc : Nat) : Nat :=
  match rc with
  | 0 => 128 | 1 => 64 | 2 => 2 | 3 => 2
  | _ => 16

/-- Whether a sail owns or holds entries at a reef resource (R344). -/
def reefHeld (r : Rig) (e : ReefDef) : Bool :=
  match Tbl.look r.sails e.sail with
  | none => false
  | some d => match e.rclass with
    | 0 => r.ownerAt e.index == some e.sail
    | 1 => r.ownerAt (offGddr + e.index) == some e.sail
    | 4 => (List.range 16).any (fun w => r.ownerAt (offWay + 16 * e.index + w) == some e.sail)
    | _ => decide (0 < if e.index = 0 then d.cxl0 else d.cxl1)

def reefOk (r : Rig) (i : Nat) : Bool :=
  match r.reef[i]? with
  | none => true
  | some e =>
    decide (e.index < reefUnits e.rclass) && (e.rclass != 4 || e.rate == 0) &&
    (e.latency == 0 || (decide (100 ≤ e.latency) && decide (e.latency ≤ 10000000))) && reefHeld r e &&
    (r.reef.take i).all (fun x => !(x.rclass == e.rclass && x.index == e.index && x.sail == e.sail && x.tclass == e.tclass))

/-- Objects, default window and least window in µs of a telltale kind (R414). -/
def telltaleKind (k : Nat) : Nat × Nat × Nat :=
  match k with
  | 0 => (2176, 1000, 200) | 1 => (256, 1000, 100) | 2 => (512, 500, 50) | 3 => (128, 500, 50) | 4 => (64, 2000, 200)
  | 5 => (64, 100000, 10000) | 6 => (8192, 1000000, 10000) | 7 => (32, 1000, 100) | 8 => (2, 10000, 1000)
  | _ => (0, 0, 0)

def telltaleOk (r : Rig) (i : Nat) : Bool :=
  match r.telltale[i]? with
  | none => true
  | some e =>
    let k := telltaleKind e.kind
    decide (e.index < k.1) && decide (k.2.2 ≤ e.window) && decide (e.window ≤ 10000000) && decide (1 ≤ e.threshold) &&
    decide (e.threshold ≤ 65535) && (r.telltale.take i).all (fun x => !(x.kind == e.kind && x.index == e.index))

/-- Units and range in ns of an activity (R349). -/
def budgetKind (r : Rig) (c : Nat) : Nat × Nat × Nat :=
  match c with
  | 1 => (128, 50, 1000) | 2 => (128, 50, 200) | 3 => (256, 50, 1000) | 4 => (r.logs.length, 100, 2000) | 5 => (16, 100, 1000)
  | 6 => (64, 50, 1000) | 7 => (64, 100, 500) | 8 => (2, 20, 500) | 9 => (32, 200, 5000) | 10 => (1, 1000, 20000)
  | 11 => (1, 500, 10000)
  | _ => (0, 0, 0)

def budgetOk (r : Rig) (i : Nat) : Bool :=
  match r.budget[i]? with
  | none => true
  | some e =>
    let k := budgetKind r e.code
    decide (e.unit < k.1) && decide (k.2.1 ≤ e.ns) && decide (e.ns ≤ k.2.2) &&
    (r.budget.take i).all (fun x => !(x.code == e.code && x.unit == e.unit))

/-- What rule 0x0D asks of a sail: its role (R275), a save slot (R336), and for a confidential sail the life-cycle state
FIELDED and no debug session above level 0. -/
def sailSet (s : State) (r : Rig) (i : Nat) : Bool :=
  match Tbl.look r.sails i with
  | none => true
  | some d =>
    let yards := (List.range 16).filter (fun y => !(r.channels y i).isEmpty)
    let role := match d.role with
      | 1 => decide (1 ≤ d.seqCount)
      | 2 => d.seqCount == 0 && !yards.isEmpty && yards.all (fun y => !(r.engines y i).isEmpty)
      | _ => true
    role && decide (9 ≤ d.saveLen) && (!d.conf || (s.sec.lc == .fielded && !(s.sec.dbgOpen && decide (0 < s.sec.dbgLevel))))

/-- SETTINGS. -/
def ruleSettings (s : State) (m : Img) (r : Rig) : Option (Nat × Nat) :=
  bySections m
    [(2, firstBad 64 (sailSet s r)), (11, firstBad r.reef.length (reefOk r)), (12, firstBad r.telltale.length (telltaleOk r)),
     (13, firstBad r.budget.length (budgetOk r))]

/-! ### Rules 0x0E to 0x10 -/

/-- SWAP (R168): with another period no sail may continue. Where the period is the same, a sail that continues has the same
routes in both rigs. -/
def ruleSwap (s : State) (r : Rig) : Option (Nat × Nat) :=
  match s.rig.active with
  | none => none
  | some a =>
    if a.period != r.period && a.sails.any (fun p => r.hasSail p.1 && keepsRoutes a r p.1) then
      some (0xFF, 12)
    else none

/-- The rules of a LOAD in the order of their codes. -/
def loadRules (s : State) (m : Img) : List (Nat × (Unit → Option (Nat × Nat))) :=
  let r := parseRig s m
  [(0x01, fun _ => ruleFormat s m), (0x02, fun _ => ruleSign s m), (0x03, fun _ => ruleSerial s r),
   (0x04, fun _ => ruleTarget s r), (0x05, fun _ => ruleOwner s m r), (0x06, fun _ => ruleCores s m r),
   (0x07, fun _ => ruleObjects m r), (0x08, fun _ => ruleQuotas m r), (0x09, fun _ => rulePlace m r),
   (0x0A, fun _ => ruleSched m r), (0x0B, fun _ => ruleLinks m r), (0x0C, fun _ => ruleAdmission s m r),
   (0x0D, fun _ => ruleSettings s m r), (0x0E, fun _ => ruleSwap s r)]

/-- The first rule that fails, and where. -/
def firstRule (l : List (Nat × (Unit → Option (Nat × Nat)))) : Option RigError :=
  l.findSome? (fun c => (c.2 ()).map (fun x =>
    { rule := BitVec.ofNat 8 c.1, sec := BitVec.ofNat 8 x.1, entry := BitVec.ofNat 32 x.2 }))

/-- The directory index of a section of a rig. -/
def Rig.secPlace (r : Rig) (ty : Nat) : Nat := r.dir.findIdx (· == ty)

/-- Live objects of the device under the number range of one sail (rule 0x0F). -/
def liveIn (s : State) (d : SailDesc) (keep : SailDesc) : Bool :=
  let left := fun (a b : Nat × Nat) (n : Nat) => decide (a.1 ≤ n) && decide (n < a.1 + a.2) && !(decide (b.1 ≤ n) && decide (n < b.1 + b.2))
  s.ctxs.any (fun p => left d.ctxRange keep.ctxRange p.1 && p.2.st != .free) ||
  s.queues.any (fun p => left d.qRange keep.qRange p.1 && p.2.st != .idle) ||
  s.sems.any (fun p => left d.semRange keep.semRange p.1 && (p.2.value != 0 || !p.2.waiters.isEmpty)) ||
  s.ctxs.any (fun p => p.2.holds.any (fun h => left d.semRange keep.semRange h.sem)) ||
  s.sails.any (fun p => p.2.seqs.any (fun q => left d.seqRange keep.seqRange q.slot))

/-- Live fabric objects of a sail beyond what the new rig gives it (rule 0x0F): exports and ingest streams. Of cleat records and imports
R279 takes none away (log entry 40). -/
def fabricLeft (s : State) (sl : Nat) (keep : SailDesc) : Bool :=
  decide (keep.exports < (s.ryu.exports.filter (fun p => p.2.sail == sl)).length) ||
  decide (keep.ingest < (s.ryu.ingest.filter (fun p => p.2.sail == sl)).length)

/-- LIVE_OBJECT: the first sail of both rigs that an object with a live number leaves. -/
def ruleLive (s : State) (r : Rig) : Option (Nat × Nat) :=
  match s.rig.active with
  | none => none
  | some a => (a.sails.find? (fun p => match Tbl.look r.sails p.1 with
    | none => false
    | some d => liveIn s p.2 d || fabricLeft s p.1 d)).map (fun p => (r.secPlace secSails, p.1))

/-- FAULTED: the first cluster that maps a core fenced since the LOAD. -/
def ruleFaulted (s : State) (r : Rig) : Option (Nat × Nat) :=
  (r.cores.find? (fun c => c.2.phys.any (fun p => s.rst.fencedSinceLoad.contains (36 * c.1 + p)))).map (fun c => (r.secPlace secCores, c.1))

/-- The rules of a SWAP (R273): 0x06 and 0x0D against the present state, 0x0F and 0x10. -/
def swapRules (s : State) (r : Rig) : List (Nat × (Unit → Option (Nat × Nat))) :=
  [(0x06, fun _ => (firstBad 64 (coresOk s r)).map (fun n => (r.secPlace secCores, n))),
   (0x0D, fun _ => (firstBad 64 (sailSet s r)).map (fun n => (r.secPlace secSails, n))),
   (0x0F, fun _ => ruleLive s r), (0x10, fun _ => ruleFaulted s r)]

end Sys2Proof.Machine
end

