-- ==== Sys2Proof/Machine/Rig.lean ====
section
/-! DEFINITION. Loading a rig and swapping it in (R271 to R287): LOAD, LOAD_END, SWAP, DISCARD, DRAIN, SCRUB, CUT,
the work of RELEASE, QUIESCE_LIMIT_EXPIRY.
Choices of the model here: log entry 11 (DESIGN CHOICE), log entry 20 (DESIGN CHOICE), log entry 26 (DESIGN
CHOICE), log entry 36 (DESIGN CHOICE), log entry 37 (DESIGN CHOICE), log entry 38 (DESIGN CHOICE), log entry
47 (DEDUCED). -/

namespace Sys2Proof.Machine

open Sys2Proof

/-- Change the RIG block. -/
def State.updRig (s : State) (f : RigSt → RigSt) : State := { s with rig := f s.rig }

/-! ### RIG_CMD (R272, R287) -/

/-- A command of RIG_CMD that has no effect (R287). -/
def rigIgnored (s : State) : State := s.updRig (fun r => { r with ignored := true })

/-- LOAD (R272, R287): the image is fetched on the port of the physical function that wrote the command. -/
def loadState (port : Nat) (s : State) : State :=
  if s.rig.phase != .idle || s.rig.loading.isSome then rigIgnored s
  else
    let s := { s with rst := { s.rst with fencedSinceLoad := [] } }
    s.updRig (fun r => { r with
      loading := some (port % 2), shadow := none, shadowSt := .loading, shadowSerial := 0, error := ⟨0, 0, 0⟩ })

/-- DISCARD (R287): it ends a LOAD and empties the shadow. -/
def discardState (s : State) : State :=
  if s.rig.phase != .idle then rigIgnored s
  else s.updRig (fun r => { r with loading := none, shadow := none, shadowSt := .empty, shadowSerial := 0 })

/-- The bank that the next table of a router is written to (R149, R166). -/
def shadowBank (s : State) (r : Nat) : Nat := if s.mesh.boot then 0 else 1 - activeBank s r

/-- The tables of an accepted rig stand in the shadow banks; the next swap has not begun (R165). -/
def writeShadow (s : State) (r : Rig) : State :=
  { s with mesh := { s.mesh with
      banks := r.sched.foldl (fun b p => b.set [] (2 * p.1 + shadowBank s p.1) p.2) s.mesh.banks
      shadowOk := r.sched.foldl (fun b p => b.set false p.1 true) s.mesh.shadowOk
      switched := [], injected := false, complete := false } }

/-- The image that a LOAD reads. -/
def loadImage (s : State) (port : Nat) : Img :=
  let a := if port = 0 then s.rig.loadAddr[0] else s.rig.loadAddr[1]
  let n := if port = 0 then s.rig.loadLen[0] else s.rig.loadLen[1]
  imgOf s (busKey port a.toNat) n.toNat

/-- LOAD_END (R272, R273), when the LOAD of the physical function `pf` runs: the image is judged; one that lies where the port cannot reach (R182) has no FORMAT (log entry 36). -/
def loadEndState (pf : Nat) (s : State) : State :=
  match s.rig.loading with
  | none => s
  | some port =>
    if port != pf || !hostUp s port then s
    else
      let m := loadImage s port
      let here := busOk (if port = 0 then s.rig.loadAddr[0] else s.rig.loadAddr[1]).toNat
        (if port = 0 then s.rig.loadLen[0] else s.rig.loadLen[1]).toNat
      match if here then firstRule (loadRules s m) else some ⟨1, 0, 0⟩ with
      | some e => s.updRig (fun r => { r with loading := none, shadowSt := .rejected, error := e })
      | none =>
        let r := parseRig s m
        (writeShadow s r).updRig (fun x => { x with
          loading := none, shadow := some r, shadowSt := .valid, shadowSerial := r.serial })

def execLoad (port : Nat) (s : State) : Out := rigCmd s (loadState port)
def execDiscard (_port : Nat) (s : State) : Out := rigCmd s discardState
def execLoadEnd (port : Nat) (s : State) : Out := rigCmd s (loadEndState port)

/-! ### SWAP: steps 1 to 3 of R277 -/

/-- The active rig, or the rig of a device that has none. -/
def activeRig (s : State) : Rig := s.rig.active.getD Rig.empty

/-- The class of a sail in the running swap. -/
def swapClass (s : State) (sl : Nat) : Option SailClass := (s.rig.classes.find? (fun p => p.1 == sl)).map (·.2)

/-- The sails of a class. -/
def sailsOf (s : State) (c : SailClass) : List Nat := (s.rig.classes.filter (fun p => p.2 == c)).map (·.1)

/-- Whether a logical core lies in a cluster that leaves its sail. -/
def leaves (s : State) (k : Nat) : Bool :=
  match s.rig.shadow with
  | none => false
  | some b => b.clusterSail (k / 34) != s.clusterSail (k / 34)

/-- The commands resident on the clusters of a sail. -/
def residentOf (s : State) (sl : Nat) : List (Nat × Nat) :=
  (s.cores.filterMap (fun p => match p.2.prog with
    | none => none
    | some g => if s.clusterSail (p.1 / 34) == some sl then some (g.q, g.n) else none)).eraseDups

/-- Pause the programs of a sail (R277, step 3): pre-emption is requested of each command, but not of one of a changed sail
that runs on a leaving cluster (R284), nor of one for which no save slots are free (R336). -/
def pauseSail (s : State) (sl : Nat) (changed : Bool) : State :=
  (residentOf s sl).foldl (fun s c =>
    let l := coresOf s c.1 c.2
    if (changed && l.any (leaves s)) || decide (saveSlots s sl < saveUsed s sl + l.length) then s
    else requestPreempt s c.1 c.2) s

/-- Step 2 of R277: the rules of a SWAP, the classes, the highest serial; then step 3 begins. -/
def swapJudge (s : State) : State :=
  match s.rig.shadow with
  | none => s.updRig (fun r => { r with phase := .idle })
  | some b =>
    match firstRule (swapRules s b) with
    | some e => s.updRig (fun r => { r with shadow := none, shadowSt := .rejected, phase := .idle, error := e })
    | none =>
      let s := s.updRig (fun r => { r with classes := classesOf (activeRig s) b, highSerial := max r.highSerial b.serial })
      units s (fun s =>
        let s := (sailsOf s .changed).foldl (fun s sl => pauseSail (s.updSail sl (fun x => { x with state := 2 })) sl true) s
        (sailsOf s .removed).foldl (fun s sl => pauseSail (s.updSail sl (fun x => { x with state := 3 })) sl false) s)

/-- SWAP (R277, R287); while the background test runs it waits in step 2 (R404). -/
def swapState (s : State) : State :=
  if s.rig.phase != .idle || s.rig.shadowSt != .valid then rigIgnored s
  else
    let s := s.updRig (fun r => { r with phase := .quiesce, tSwap := s.time, classes := [] })
    if s.rst.bgTest then s.updRig (fun r => { r with waits := true }) else swapJudge s

def execSwap (_port : Nat) (s : State) : Out := rigCmd s swapState

/-- QUIESCE_LIMIT_EXPIRY (R284): a command that a swap lets finish has not ended in time; its context is reset. -/
def quiesceLimitState (q n : Nat) (s : State) : State :=
  let l := coresOf s q n
  let c := s.queueCtx q
  let paused := match s.ctxSail c with
    | none => false
    | some sl => swapClass s sl == some .changed || swapClass s sl == some .removed
  if s.rig.phase == .quiesce && paused && !l.isEmpty && l.all (fun k => (s.core k).preempt.isNone && !(s.core k).saving) &&
    decide ((s.time - s.rig.tSwap).toNat ≥ 1000 * s.rig.quiesce.toNat) then resetCtx s c 0x0B
  else s

def execQuiesceLimitExpiry (q n : Nat) (s : State) : Out := unitCmd s (quiesceLimitState q n)

/-! ### DRAIN: step 4 -/

/-- Whether step 3 is done: no context of a changed or removed sail is resident. -/
def quiesced (s : State) : Bool :=
  s.rig.phase == .quiesce && !s.rig.waits &&
  (sailsOf s .changed ++ sailsOf s .removed).all (fun sl => (residentOf s sl).isEmpty)

/-- Whether a range targets local memory that leaves the sail (R197). -/
def rangeLeaves (s : State) (sl : Nat) (e : RangeE) : Bool :=
  s.isOwnNode e.node && !spanOwned (s.updRig (fun r => { r with active := r.shadow })) sl e.lpa e.bytes

/-- Load the slots of the added sails that are EMPTY (R277, step 4; R358). -/
def loadAdded (s : State) : State :=
  match s.rig.shadow with
  | none => s
  | some b =>
    (sailsOf s .added).foldl (fun s sl =>
      match Tbl.look b.sails sl with
      | none => s
      | some d =>
        let s := if (s.slot d.memKey).st == .empty then loadMemSlot s d.memKey sl d.conf else s
        if d.hasLink && (s.slot d.linkKey).st == .empty then loadLinkSlot s d.linkKey sl d.conf else s) s

/-- DRAIN: removals begin (R370), ranges on leaving resources go (R197), leaving ways and engines take nothing new. -/
def drainState (s : State) : State :=
  if !quiesced s then s
  else
    let s := s.updRig (fun r => { r with phase := .drain })
    units s (fun s =>
      let s := (sailsOf s .removed).foldl (fun s sl =>
        match s.desc sl with
        | none => s
        | some d => (sailCtxs s sl).foldl (fun s c => if (s.ctx c).st == .free then s else destroyCtx s c) (beginDrain s sl d)) s
      let s := (sailsOf s .continuing ++ sailsOf s .changed).foldl (fun s sl =>
        (sailCtxs s sl).foldl (fun s c => removeRanges s c (rangeLeaves s sl)) s) s
      loadAdded s)

def execDrain (s : State) : Out := rigCmd s drainState

/-! ### SCRUB: step 5 (R282) -/

/-- Whether the owner of an entry of the OWNERS section changes in the swap. -/
def moves (s : State) (off : Nat) : Bool :=
  match s.rig.shadow with
  | none => false
  | some b => s.ownerAt off != b.ownerAt off

/-- Whether a lookup engine that moves still holds a request. -/
def engineHeld (s : State) (i : Nat) : Bool :=
  moves s (offLookup + i) && (match (engineOf (s.yard (i / 32)) (i % 32)).cur with
    | none => false
    | some id => match s.yreq (i / 32) id with
      | none => false
      | some _ => true)

/-- Whether step 4 is done: removed sails have no context and no slot that drains, no use of a removed range is in flight (R192, R197),
leaving engines are idle. -/
def drained (s : State) : Bool :=
  s.rig.phase == .drain &&
  (sailsOf s .removed).all (fun sl =>
    (sailCtxs s sl).all (fun c => (s.ctx c).st == .free) &&
    s.sec.slots.all (fun p => !(p.2.sail == sl && p.2.st == .draining))) &&
  (sailsOf s .continuing ++ sailsOf s .changed).all (fun sl => (sailCtxs s sl).all (rigDrainEmpty s sl)) &&
  (List.range 512).all (fun i => !engineHeld s i)

/-- A yard request whose engine was reset is taken again from its entry. -/
def restartReq (r : YReq) : YReq :=
  match r.phase with
  | .engine _ => { r with phase := .waiting, desc := [], rows := [], comb := 0, acc := [], out := [], spans := [] }
  | _ => r

/-- Clear the descriptor cache and the buffers of a lookup engine; a request that it had taken is taken again. -/
def clearEngine (s : State) (i : Nat) : State :=
  let s := setEngineOf (chargeEngine s (i / 32) (i % 32)) (i / 32) (i % 32) (fun x => { x with cur := none, descs := [] })
  s.updYard (i / 32) (fun y => { y with reqs := y.reqs.map (fun r => if r.phase == .engine (i % 32) then restartReq r else r) })

/-- The generators of an update engine are at their initial state again (R134). -/
def resetGen (s : State) (i : Nat) : State :=
  s.updYard (i / 8) (fun y => { y with gen := y.gen.filter (fun p => p.1 / 64 != i % 8) })

/-- The fence kind and index of a resource whose scrub failed (R282). -/
def scrubFence : ScrubRef → Nat × Nat
  | .cluster n => (1, n)
  | .way i => (14, i)
  | .lookup i => (3, i)
  | .upd i => (4, i)
  | .dram c => (9, c)
  | .gddr c => (10, c)
  | .far g => (15, g)

/-- The physical cores that lose their place in the core map while their cluster keeps its owner (R56, R281): they become spares. -/
def unmappedCores (s : State) (b : Rig) : List Nat :=
  (List.range 64).flatMap (fun n =>
    if s.clusterSail n != b.clusterSail n then []
    else match Tbl.look (activeRig s).cores n, Tbl.look b.cores n with
      | some x, some y => (x.phys.filter (fun p => !y.phys.contains p)).map (fun p => 36 * n + p)
      | _, _ => [])

/-- Scrub every cluster, way, engine, channel and far segment that changes its owner. -/
def scrubOwners (s : State) (b : Rig) : State :=
  let mv := fun (base n : Nat) => (List.range n).filter (fun i => moves s (base + i))
  let clusters := (List.range 64).filter (fun n => s.clusterSail n != b.clusterSail n)
  let old := activeRig s
  let zs := fun (g : Nat) => (old.owner.get 0 (offFar + g)).getLsbD 7 || (b.owner.get 0 (offFar + g)).getLsbD 7
  let s0 := (unmappedCores s b).foldl zeroSpad s
  let s1 := clusters.foldl (fun s n => zeroCbuf ((List.range 36).foldl (fun s p => zeroSpad s (36 * n + p)) s) n) s0
  let s2 := (mv offWay 256).foldl (fun s i => s.updYard (i / 16) (fun y => dropLines y (fun w _ => w == i % 16))) s1
  let s3 := (mv offLookup 512).foldl clearEngine s2
  let s4 := (mv offUpd 128).foldl resetGen s3
  let s5 := (mv 0 128).foldl zeroDram s4
  let s6 := (mv offGddr 64).foldl zeroGddr s5
  let s7 := ((mv offFar 4096).filter (farPopulated s)).foldl (fun s g => if zs g then zeroFar s g else eraseFar s g) s6
  (mv offKey 128).foldl (fun s k => if (s.slot k).st == .loaded then s else zeroSlot s k) s7

/-- Return the semaphores whose numbers change sail to their initial state, drop the requests, order slots and logs of
removed sails. -/
def scrubObjects (s : State) (b : Rig) : State :=
  let gone := sailsOf s .removed
  let sems := s.sems.filter (fun p => s.semSail p.1 == b.objectSail SailDesc.semRange p.1)
  { s with
    sems := sems
    yards := s.yards.map (fun p => (p.1, { p.2 with
      reqs := p.2.reqs.filter (fun r => !gone.contains r.sail)
      orders := p.2.orders.filter (fun o => !gone.contains o.2.sail)
      logRecs := p.2.logRecs.filter (fun l => !gone.contains l.1)
      logHead := p.2.logHead.filter (fun l => !gone.contains l.1)
      cnt := p.2.cnt.filter (fun l => !gone.contains l.1) })) }

/-- SCRUB; `failed` lists the resources whose scrub failed. -/
def scrubState (failed : List ScrubRef) (s : State) : State :=
  match s.rig.shadow with
  | none => s
  | some b =>
    if !drained s then s
    else
      let s := units s (fun s =>
        let s := (sailsOf s .continuing ++ sailsOf s .changed).foldl (fun s sl =>
          (sailCtxs s sl).foldl (fun s c => rigDrainEnd s sl c) s) s
        let s := scrubObjects (scrubOwners (loadAdded s) b) b
        failed.foldl (fun s f => fenceLasting s (scrubFence f).1 (scrubFence f).2) s)
      s.updRig (fun r => { r with phase := .scrub })

def execScrub (failed : List ScrubRef) (s : State) : Out := rigCmd s (scrubState failed)

/-! ### CUT: step 6 -/

/-- The logical core that takes the place of core `k` of a sail under the new core map (R281). -/
def movedCore (a b : Rig) (sl k : Nat) : Nat :=
  match (a.clusters sl).findIdx? (· == k / 34) with
  | none => k
  | some i => match (b.clusters sl)[i]? with
    | none => k
    | some n => 34 * n + k % 34

/-- The saved images of a changed sail follow its save area. -/
def moveImages (s : State) (sl old new : Nat) : State :=
  if old = new then s
  else (s.sail sl).saved.foldl (fun s v => store s (new + 589824 * v.slot) (readBytes s (old + 589824 * v.slot) 589824)) s

/-- The saved copies of a changed sail stand for the cores that the new core map gives them. -/
def moveSaved (s : State) (a b : Rig) (sl : Nat) : State :=
  let base := fun (r : Rig) => ((Tbl.look r.sails sl).map (·.saveBase)).getD 0
  let s := moveImages s sl (base a) (base b)
  s.updSail sl (fun x => { x with saved := x.saved.map (fun v => { v with lc := movedCore a b sl v.lc }) })

/-- The DOWN cores of a sail under a rig (R285). -/
def downOf (s : State) (b : Rig) (sl : Nat) : List Nat :=
  (b.clusters sl).flatMap (fun n =>
    match Tbl.look b.cores n with
    | none => []
    | some m => ((List.range m.phys.length).filter (fun k => fenced s 0 (routerOf n (m.phys.getD k 0)))).map (fun k => 34 * n + k))

/-- The core routers whose interface starts anew under a rig: their cluster changes its owner, or they carry another logical core. -/
def movedRouters (s : State) (b : Rig) : List Nat :=
  (List.range 2304).filter (fun r =>
    let c := routerCore r
    let now := s.logicalOf c.1 c.2
    let then_ := (Tbl.look b.cores c.1).bind (fun m => m.phys.findIdx? (· == c.2))
    s.clusterSail c.1 != b.clusterSail c.1 || now.map (· % 34) != then_)

/-- Nothing that a former owner queued, or that was on its way to it, is left at a core router's tags. -/
def clearTags (s : State) (r : Nat) : State :=
  coreTags.foldl (fun s t =>
    let k := tagKey r t
    { s with mesh := { s.mesh with
        iface := s.mesh.iface.set [] k [], pend := s.mesh.pend.set [] k [], partial_ := s.mesh.partial_.set 0 k 0
        rx := s.mesh.rx.set [] k [] } }) (dropCredits s r)

/-- Whether every router holds a validated shadow table (R165). -/
def shadowsReady (s : State) : Bool := (List.range routers).all (fun r => s.mesh.shadowOk.get false r)

/-- CUT (R277, step 6; R165): the masthead's next token carries the SWAP bit, once every router reports a validated shadow bank. -/
def cutState (s : State) : State :=
  if s.rig.shadow.isNone || s.rig.phase != .scrub || !shadowsReady s then s
  else { s.updRig (fun r => { r with phase := .cut }) with mesh := { s.mesh with swapNext := true } }

def execCut (s : State) : Out := rigCmd s cutState

/-- A rig with other budgets sets CHANGED of the channels whose rate it changes (R138, R177, R349). -/
def noteRates (old new : State) : State :=
  let differs := fun (rc i : Nat) => rateNow old (activeRig old) rc i != rateNow new (activeRig new) rc i
  let mark := fun (rc : Nat) (t : Tbl ChanRate) (n : Nat) => (List.range n).foldl (fun t i =>
    if differs rc i then t.upd ChanRate.reset i (fun x => { x with changed := true }) else t) t
  let c := [0, 1].foldl (fun (s : State) i => if differs 2 i then s.setCxl i { s.cxl i with changed := true } else s) new
  { c with tiers := { c.tiers with chan := mark 0 c.tiers.chan 128, gchan := mark 1 c.tiers.gchan 64 } }

/-- The masthead takes the new rig (R278) in the slot in which it sends the SWAP bit, which RIG_T_CUT holds; the other units follow with
their routers. -/
def takeRig (s : State) : State :=
  match s.rig.shadow with
  | none => s
  | some b =>
    let a := activeRig s
    let old := s
    let moved := movedRouters s b
    let s := units s (fun s => (sailsOf s .changed).foldl (fun s sl => moveSaved s a b sl) (moved.foldl clearTags s))
    let s := s.updRig (fun r => { r with tCut := s.time, active := some b, former := some (r.active.getD Rig.empty) })
    let s := units s (fun s =>
      (sailsOf s .changed).foldl (fun s sl => s.updSail sl (fun x => { x with downCores := downOf s b sl })) s)
    noteRates old { s with tiers := { s.tiers with reef := s.tiers.reef.map (fun x => (65536 + x.1 % 65536, x.2)) } }

/-- MESH_SLOT: one slot of a router; the masthead's that sends the SWAP bit is the cut. -/
def slotState (r : Nat) (s : State) : State :=
  let t := units s (meshSlotState r)
  if t.mesh.injected && !s.mesh.injected && s.rig.phase == .cut then takeRig t else t

def execMeshSlot (r : Nat) (s : State) : Out := rigCmd s (slotState r)

/-! ### RELEASE: step 7 -/

/-- An added sail starts with its registers at their Reset column and a lease key of its own (R368). -/
def startSail (s : State) (b : Rig) (sl : Nat) : State :=
  let s := { s with ryu := { s.ryu with ran := true } }
  let s := s.setSail sl { Sail.empty with state := 1, downCores := downOf s b sl }
  { s with sec := { s.sec with
      leaseKeys := (s.sec.leaseKeys.erase sl).insert sl (s.sec.nextLease + 1), nextLease := s.sec.nextLease + 1 } }

/-- A removed sail is ABSENT, and what the device kept for it is gone. -/
def endSail (s : State) (sl : Nat) : State :=
  let s := s.setSail sl Sail.empty
  { s with pwr := { s.pwr with sails := s.pwr.sails.erase sl }, sec := { s.sec with confWindow := s.sec.confWindow.erase sl } }

/-- A changed sail runs again. -/
def resumeSail (s : State) (sl : Nat) : State :=
  s.updSail sl (fun x => { x with state := 1, rebinds := min 0xFFFF (x.rebinds + 1) })

/-- RELEASE (R277, step 7): every router has switched. -/
def releaseState (s : State) : State :=
  match s.rig.active with
  | none => s
  | some b =>
    if s.rig.phase != .cut || !s.mesh.complete then s
    else
      let s := units s (fun s =>
        let s := (sailsOf s .removed).foldl endSail s
        let s := (sailsOf s .changed).foldl resumeSail s
        (sailsOf s .added).foldl (fun s sl => startSail s b sl) s)
      let s := { s with mesh := { s.mesh with boot := false, period := b.period } }
      let s := s.updRig (fun r => { r with
        former := none, phase := .idle, done := true, shadow := none, shadowSt := .empty, shadowSerial := 0, tRelease := s.time, classes := [] })
      units s (fun s => (b.sails.map (·.1)).foldl schedule s)

end Sys2Proof.Machine
end

