-- ==== Sys2Proof/Machine/Life.lean ====
section
/-! DEFINITION. The life cycle (R376 to R381, R383): progress marks of a transition, the life-cycle mailbox.
Choices of the model here: log entry 5 (DESIGN CHOICE), log entry 11 (DESIGN CHOICE), log entry 48 (DESIGN
CHOICE), log entry 49 (DEDUCED). -/

namespace Sys2Proof.Machine

open Sys2Proof

def State.updSec (s : State) (f : SecSt → SecSt) : State := { s with sec := f s.sec }

/-! ### Transitions (R377 to R380) -/

/-- Whether R377 lists a transition, and who may sign it. -/
def transitionOk (a b : LcState) (operator : Bool) : Bool :=
  match a, b with
  | .maker, .integrator => !operator
  | .integrator, .fielded => true
  | .integrator, .analysis => !operator
  | .fielded, .analysis => !operator
  | .scrapped, .scrapped => false
  | _, .scrapped => true
  | _, _ => false

/-- Whether a transition wipes. -/
def LcState.wipes (b : LcState) : Bool := b == .analysis || b == .scrapped

/-- Mark 2: every key slot and lease key is zeroized. -/
def markQuiesced (s : State) : State :=
  let s := (s.sec.slots.map (·.1)).foldl zeroSlot s
  s.updSec (fun x => { x with leaseKeys := [], lcMark := 2 })

/-- Mark 3: the wipe of R380. -/
def markWiped (s : State) : State :=
  s.updSec (fun x =>
    if x.lcTo.wipes then
      { x with userArea := [], opKey := none, leafNext := 0, leafResv := 0, treeReady := false, rootBlocked := true, lcMark := 3 }
    else { x with lcMark := 3 })

/-- Mark 4: the fuses of the new state are blown. -/
def markFused (s : State) : State := s.updSec (fun x => { x with lc := x.lcTo, lcMark := 4 })

/-- Mark 5: the record is closed. -/
def markDone (s : State) : State := s.updSec (fun x => { x with lcOpen := false, lcMark := 0 })

/-- Resume an open transition at the step after its last mark (R379). -/
def resumeTransition (s : State) : State :=
  if !s.sec.lcOpen then s
  else match s.sec.lcMark.toNat with
    | 1 => markDone (markFused (markWiped (markQuiesced s)))
    | 2 => markDone (markFused (markWiped s))
    | 3 => markDone (markFused s)
    | _ => markDone s

/-! ### The mailbox (R378, R381) -/

/-- The port of a function that reaches the mailbox: a primary physical function. -/
def lcsPort (fn : HostFn) : Option Nat := if fn.isPf then some fn.hostPort else none

/-- LCS_REQ_ADDR of a port. -/
def lcsAddr (s : State) (p : Nat) : Nat := (if p = 0 then s.sec.reqAddr[0] else s.sec.reqAddr[1]).toNat

/-- LCS_REQ_ADDR of a port, as a memory key. -/
def lcsKey (s : State) (p : Nat) : Nat := busKey p (lcsAddr s p)

def lcsEnd (s : State) (st : Status) : State := s.updSec (fun x => { x with lcsStatus := st.code })

/-- Run a command of LCS_CMD; one that arrives while another runs has no effect. A request or a block of
`n` bytes that the host link cannot carry fails (R182). -/
def lcsRun (s : State) (fn : HostFn) (n : Nat) (f : State → Nat → State) : State :=
  match lcsPort fn with
  | none => s
  | some p =>
    if s.sec.lcsBusy then s.updSec (fun x => { x with lcsIgnored := true })
    else if !hostUp s p || !busOk (lcsAddr s p) n then lcsEnd s .faultTranslation
    else f s p

/-- A request of R378: its fields by byte. -/
structure LcReq where
  bytes : List Byte
deriving DecidableEq, Repr

def LcReq.nat (r : LcReq) (lo hi : Nat) : Nat := leNat ((r.bytes.drop lo).take (hi - lo + 1))

/-- The new key of a rotation. -/
def LcReq.newKey (r : LcReq) : List Byte := (r.bytes.drop 64).take 60

/-- The format of a request; a transition carries no key. -/
def LcReq.formOk (r : LcReq) (rotate : Bool) : Bool :=
  r.nat 0 3 == 0x434C4A4C && r.nat 4 5 == 1 && decide (r.nat 6 6 ≤ 4) && decide (r.nat 7 7 ≤ 4) && decide (r.nat 44 44 ≤ 1) &&
    r.nat 45 63 == 0 && r.nat 124 127 == 0 && (rotate || r.nat 64 123 == 0)

/-- The unit, the counter and the state that a request names. -/
def LcReq.fits (r : LcReq) (s : State) : Bool :=
  r.nat 8 39 == s.sec.unitId.toNat && r.nat 40 43 == s.sec.lcCounter.toNat && r.nat 6 6 == s.sec.lc.code

/-- Whether an operator key signs (SIGNER 1), which must then be enrolled. -/
def LcReq.operator (r : LcReq) : Bool := r.nat 44 44 == 1

/-- Whether the request's signature verifies under the key of its signer (R378, R383). -/
def LcReq.signed (r : LcReq) (s : State) : Bool :=
  let msg := r.bytes.take 128
  if r.operator then (s.sec.opKey.map (fun k => hssCheck k msg (r.bytes.drop 128))).getD false
  else hssCheck s.sec.romKeys.life msg (r.bytes.drop 128)

/-- The request that a mailbox command fetches: at most 65,536 bytes (R378). -/
def lcsRequest (s : State) (p : Nat) : LcReq := { bytes := readBytes s (lcsKey s p) (min 65536 (2 ^ 46 - lcsAddr s p)) }

/-- The first check that a transition request fails (R378). -/
def transitionJudge (s : State) (r : LcReq) : Option Status :=
  if !r.formOk false then some .malformed
  else match LcState.ofCode (r.nat 7 7) with
    | none => some .malformed
    | some b =>
      if r.fits s && transitionOk s.sec.lc b r.operator && s.rig.active.isNone && r.signed s then
        none
      else some .faultPermission

/-- The steps of an accepted transition (R379), up to its reset. -/
def transitionSteps (s : State) (b : LcState) : State :=
  resumeTransition (s.updSec (fun x => { x with lcOpen := true, lcTo := b, lcMark := 1, lcCounter := x.lcCounter + 1 }))

/-- OPKEY_ENROLL (R381). -/
def opkeyEnrollState (fn : HostFn) (s : State) : State :=
  lcsRun s fn 60 (fun s p =>
    if s.sec.lc != .integrator || s.sec.opKey.isSome then lcsEnd s .faultPermission
    else lcsEnd (s.updSec (fun x => { x with opKey := some (readBytes s (lcsKey s p) 60) })) .done)

/-- OPKEY_ROTATE (R378, R381, R383). -/
def opkeyRotateState (fn : HostFn) (s : State) : State :=
  lcsRun s fn 128 (fun s p =>
    let r := lcsRequest s p
    if s.sec.lc != .fielded then lcsEnd s .faultPermission
    else if !r.formOk true then lcsEnd s .malformed
    else if r.fits s && r.nat 7 7 == s.sec.lc.code && r.operator && s.rig.active.isNone && r.signed s then
      lcsEnd (s.updSec (fun x => { x with opKey := some r.newKey, lcCounter := x.lcCounter + 1 })) .done
    else lcsEnd s .faultPermission)

/-- USER_READ: a block of the user area is copied to host memory. -/
def userReadState (fn : HostFn) (b : Nat) (s : State) : State :=
  lcsRun s fn 4096 (fun s p =>
    if s.sec.lc == .scrapped then lcsEnd s .faultPermission
    else lcsEnd (store s (lcsKey s p) ((List.range 4096).map (fun i => s.sec.userArea.get 0 (4096 * (b % 1024) + i)))) .done)

/-- USER_WRITE: a block of the user area is copied from host memory. -/
def userWriteState (fn : HostFn) (b : Nat) (s : State) : State :=
  lcsRun s fn 4096 (fun s p =>
    if s.sec.lc == .scrapped then lcsEnd s .faultPermission
    else lcsEnd (s.updSec (fun x => { x with
      userArea := (List.range 4096).foldl (fun u i => u.set 0 (4096 * (b % 1024) + i) (readB s (lcsKey s p + i))) x.userArea })) .done)

def execOpkeyEnroll (fn : HostFn) (s : State) : Out := unitCmd s (opkeyEnrollState fn)
/-- OPKEY_ROTATE as a row; `block` is the BLOCK field of the write to LCS_CMD, which this command does not use. -/
def execOpkeyRotate (fn : HostFn) (_block : Nat) (s : State) : Out := unitCmd s (opkeyRotateState fn)
def execUserRead (fn : HostFn) (block : Nat) (s : State) : Out := unitCmd s (userReadState fn block)
def execUserWrite (fn : HostFn) (block : Nat) (s : State) : Out := unitCmd s (userWriteState fn block)

/-! ### The debug port (R382) -/

/-- The low `n` bits of a number, lowest first. -/
def bitsOf (n v : Nat) : List Bool := (List.range n).map (fun i => v.testBit i)

def shiftOut (s : State) (l : List Bool) : State := s.updSec (fun x => { x with jtag := l })

/-- Bits captured from the package's pins, which the model does not hold. -/
def capturePins (s : State) (n : Nat) : State :=
  shiftOut { s with free := s.free + 1 } ((List.range n).map (fun i => (Config.freeByte s.free i).getLsbD 0))

/-- BYPASS: the one-bit bypass register captures 0. -/
def bypassState (s : State) : State := shiftOut s [false]

/-- IDCODE: the part code and HWREV. -/
def idcodeState (s : State) : State := shiftOut s (bitsOf 16 0x0064 ++ bitsOf 8 0xB1)

/-- SAMPLE/PRELOAD: the pins are shifted out, the boundary register takes what is shifted in. -/
def samplePreloadState (l : List Bool) (s : State) : State :=
  if s.sec.lc == .scrapped then bypassState s
  else (capturePins s l.length).updSec (fun x => { x with boundary := l })

/-- EXTEST: the pins take the boundary register, and what they read is shifted out. -/
def extestState (s : State) : State := if s.sec.lc == .scrapped then bypassState s else capturePins s s.sec.boundary.length

/-- DBG_CHALLENGE. -/
def dbgChallengeState (s : State) : State :=
  if s.sec.lc == .scrapped then bypassState s
  else
    let c := Config.randomKey s.free
    shiftOut ({ s with free := s.free + 1 }.updSec (fun x => { x with challenge := some c })) (bitsOf 256 c.toNat)

/-- The highest level that a life-cycle state opens with authorisation (R376, R382). -/
def dbgReach (s : State) : Nat :=
  match s.sec.lc with
  | .maker => 3
  | .integrator => 3
  | .fielded => if (activeRig s).sails.any (fun p => p.2.conf) then 0 else 2
  | .analysis => 3
  | .scrapped => 0

/-- What a debug response signs (R382): UNIT_ID, the challenge, LEVEL and the transition counter, in 32, 32, 1 and 4 bytes
(log entry 49). -/
def dbgMessage (s : State) (c : BitVec 256) (level : Nat) : List Byte :=
  leBytes 32 s.sec.unitId.toNat ++ leBytes 32 c.toNat ++ leBytes 1 level ++ leBytes 4 s.sec.lcCounter.toNat

/-- Whether a response opens its level: MAKER needs no authorisation. -/
def dbgOpens (s : State) (level : Nat) (sig : List Byte) : Bool :=
  decide (level ≤ dbgReach s) && (s.sec.lc == .maker || (match s.sec.challenge with
    | none => false
    | some c => hssCheck s.sec.romKeys.debug (dbgMessage s c level) sig))

/-- DBG_RESPONSE. -/
def dbgResponseState (level : Nat) (sig : List Byte) (s : State) : State :=
  if s.sec.lc == .scrapped then bypassState s
  else if dbgOpens s level sig then
    s.updSec (fun x => { x with
      challenge := none, dbgLevel := level, dbgOpen := decide (0 < level), dbgSince := x.dbgSince || decide (0 < level) })
  else s.updSec (fun x => { x with challenge := none })

/-- The level in force. -/
def dbgLevelNow (s : State) : Nat := if s.sec.dbgOpen then s.sec.dbgLevel else 0

/-- Whether a sail owns the unit that holds a local physical address. -/
def addrOwned (s : State) (a : Nat) : Bool := (activeRig s).sails.any (fun p => s.ownsAddr p.1 a)

/-- DBG_ACCESS: what the session's level reaches. -/
def dbgAccessState (a : DebugAccess) (s : State) : State :=
  if s.sec.lc == .scrapped then bypassState s
  else match a with
    | .boundary => shiftOut s s.sec.boundary
    | .mastheadMem m w =>
      if dbgLevelNow s < 1 then s
      else match w with
        | none => shiftOut s (bitsOf 8 (s.sec.mastheadMem.get 0 m).toNat)
        | some v => s.updSec (fun x => { x with mastheadMem := x.mastheadMem.set 0 m v })
    | .mem m w =>
      if dbgLevelNow s < 2 || (dbgLevelNow s == 2 && addrOwned s m) then s
      else match memKey s m, w with
        | none, _ => s
        | some k, none => shiftOut s (bitsOf 8 (readB s k).toNat)
        | some k, some v => writeB s k v
    | .keyStore => s

def execBypass (s : State) : Out := unitCmd s bypassState
def execIdcode (s : State) : Out := unitCmd s idcodeState
def execSamplePreload (preload : List Bool) (s : State) : Out := unitCmd s (samplePreloadState preload)
def execExtest (s : State) : Out := unitCmd s extestState
def execDbgChallenge (s : State) : Out := unitCmd s dbgChallengeState
def execDbgResponse (level : Nat) (sig : List Byte) (s : State) : Out := unitCmd s (dbgResponseState level sig)
def execDbgAccess (a : DebugAccess) (s : State) : Out := unitCmd s (dbgAccessState a)

end Sys2Proof.Machine
end

