-- ==== Sys2Proof/Machine/Recover.lean ====
section
/-! DEFINITION. What the steps of the recovery ladder do to commands and units (R385, R394, R420 to R430): interrupting and
replaying commands, re-initialising cores, clusters, engines, sails and the compute scope.
Choices of the model here: log entry 51 (DEDUCED). -/

namespace Sys2Proof.Machine

open Sys2Proof

/-! ### Interrupted commands (R424 to R426) -/

/-- The opcodes that can be replayed (R426): NOP, RUN, DMA, TABLE_SYNC, MEM_PREFETCH. -/
def replayOps : List Nat := [0x00, 0x01, 0x02, 0x05, 0x14]

def CmdRec.replayable (c : CmdRec) : Bool := replayOps.contains c.opcode && !c.noReplay

/-- A replayed command runs again from its start (R425). -/
def CmdRec.again (c : CmdRec) (now : Word) : CmdRec :=
  { c with phase := if c.opcode = 0x01 then .ready else .started, replayed := true, readyAt := now, parts := 0, firstErr := none,
           haltErr := none }

/-- Whether a DMA descriptor was submitted by a command or by a core that runs it. -/
def DmaDesc.ofCmd (d : DmaDesc) (q n : Nat) : Bool :=
  match d.from_ with
  | .command a b _ => a == q && b == n
  | .core _ a b => a == q && b == n

/-- Free the tags of the remote operations that a command's programs, descriptors and requests wait for: their responses
are dropped by tag epoch (R413, R425). -/
def dropRemote (s : State) (q n : Nat) : State :=
  let mine := fun (o : RemOp) => match o.from_ with
    | .core lc _ => (coresOf s q n).contains lc
    | .dma c g id _ => (s.engine (4 * c + g)).descs.any (fun d => d.id == id && d.ofCmd q n)
    | .yard y id => match s.yreq y id with
      | none => false
      | some r => r.q == q && r.n == n
    | _ => false
  s.ryu.tags.foldl (fun s p => match p.2.op with
    | some o => if mine o then releaseTag s p.1 else s
    | none => s) s

/-- Drop a command's requests from every yard, with the engines that worked on them. -/
def dropRequests (s : State) (q n : Nat) : State :=
  { s with yards := s.yards.map (fun p =>
      let gone := (p.2.reqs.filter (fun r => r.q == q && r.n == n)).map (·.id)
      (p.1, { p.2 with
        reqs := p.2.reqs.filter (fun r => !(r.q == q && r.n == n))
        eng := p.2.eng.map (fun e => match e.2.cur with
          | none => e
          | some id => if gone.contains id then (e.1, { e.2 with cur := none }) else e) })) }

/-- The endpoints of the mesh forget a command's requests; the returns behind them go on (R155). -/
def dropEndpoints (s : State) (q n : Nat) : State :=
  let mine := fun (e : EpReq) => (tagHolders s e.lc).any (fun p => p.q == q && p.n == n && p.reqs.any (fun r => r.seq == e.seq))
  let keys := (s.mesh.eps.filter (fun p => p.2.any mine)).map (·.1)
  keys.foldl (fun s key =>
    sendReturns { s with mesh := { s.mesh with eps := s.mesh.eps.upd [] key (fun l => l.filter (fun e => !mine e)) } } key) s

/-- The receivers of the messages that a command's programs, resident and saved, have begun to send see their end (R153). -/
def cutMessages (s : State) (q n : Nat) : State :=
  let cut := fun (s : State) (k : Nat) (p : Prog) => p.startedSends.foldl (fun s st => truncate s k st) s
  let s1 := (coresOf s q n).foldl (fun s k => match s.prog k with
    | none => s
    | some p => cut s k p) s
  s.sails.foldl (fun s x => (x.2.saved.filter (fun v => v.prog.q == q && v.prog.n == n)).foldl (fun s v => cut s v.lc v.prog) s) s1

/-- Take a command off every unit: its programs, saved copies, descriptors, requests and open groups. -/
def unload (s : State) (q n : Nat) : State :=
  let s := dropRequests (dropEndpoints (dropRemote (cutMessages s q n) q n) q n) q n
  let s := (coresOf s q n).foldl (fun s k => clearCore (dropWaiters s k) k) s
  let s := regrant s
  let s := { s with
    sails := s.sails.map (fun p => (p.1, { p.2 with saved := p.2.saved.filter (fun v => !(v.prog.q == q && v.prog.n == n)) }))
    dma := s.dma.map (fun p => (p.1, { p.2 with descs := p.2.descs.filter (fun d => !d.ofCmd q n) })) }
  endGroups s (fun g => g.q == q && g.n == n)

/-- A step interrupts a command: it is replayed, or completes with ABORT_NOT_REPLAYABLE (R426). -/
def interrupt (s : State) (q n : Nat) : State :=
  let s := unload s q n
  match s.cmd q n with
  | none => s
  | some c =>
    if c.isCompleted then s
    else if (s.ctx (s.queueCtx q)).st == .resetting then complete s q n .abortContextReset
    else if (s.ctx (s.queueCtx q)).st == .destroying then complete s q n .abortDestroy
    else if c.replayable then s.updCmd q n (fun c => c.again s.time)
    else complete s q n .abortNotReplayable

/-- The commands that hold work on some cores or DMA engines. -/
def workOn (s : State) (core eng : Nat → Bool) : List (Nat × Nat) :=
  let a := s.cores.filterMap (fun p => match p.2.prog with
    | none => none
    | some g => if core p.1 then some (g.q, g.n) else none)
  let b := (s.dma.filter (fun p => eng p.1)).flatMap (fun p => p.2.descs.map (fun d => d.from_.cmd))
  (a ++ b).eraseDups

/-- The cores, of those that satisfy `f`, that hold a resident context. -/
def residentCores (s : State) (f : Nat → Bool) : List Nat := (s.cores.filter (fun p => p.2.prog.isSome && f p.1)).map (·.1)

/-! ### Re-initialising units (R394) -/

/-- A physical core, by its router: its scratchpad is zeroed and whatever ran on it is gone. -/
def resetCoreHw (s : State) (r : Nat) : State :=
  let c := routerCore r
  let s := zeroSpad (holdTags s r) (36 * c.1 + c.2)
  match s.logicalOf c.1 c.2 with
  | none => s
  | some k => clearCore (dropWaiters s k) k

/-- A DMA engine forgets its descriptors. -/
def resetDmaHw (s : State) (e : Nat) : State := s.setEngine e { s.engine e with descs := [] }

/-- A cluster: every core, the cluster buffer, the DMA engines. -/
def resetClusterHw (s : State) (n : Nat) : State :=
  let s := (List.range 36).foldl (fun s p => resetCoreHw s (routerOf n p)) s
  (List.range 4).foldl (fun s e => resetDmaHw s (4 * n + e)) (zeroCbuf s n)

/-- A GDDR7 port: its channels are zeroed (R185). -/
def resetGddrHw (s : State) (p : Nat) : State := (List.range 16).foldl (fun s c => zeroGddr s (16 * p + c)) s

/-- A Ryurun port is trained again; frames in flight are gone. -/
def resetPortHw (s : State) (p : Nat) : State :=
  s.updPort p (fun x =>
    if x.fenced then x
    else { x.linkUp (initialCredit s p) with
      trained := x.cable, up := x.up && x.cable, txSeq := 0, rxSeq := 0, sendQ := [], unacked := [], part := [], asm := [],
      waiting := [], lastTx := [] })

/-- A CXL port is trained and enumerated again. -/
def resetCxlHw (s : State) (p : Nat) : State :=
  setCxlRate s p (fun x =>
    if x.fenced then x else { x with linkUp := !x.expanders.isEmpty, up := !x.expanders.isEmpty })

/-- Re-initialise a block by its kind (R394). -/
def resetBlock (s : State) (kind index : Nat) : State :=
  match kind with
  | 0 => resetCoreHw s index
  | 1 => resetClusterHw s index
  | 2 => resetDmaHw s index
  | 3 => clearEngine s index
  | 4 => resetGen s index
  | 5 => resetPortHw s index
  | 6 => resetCxlHw s index
  | 7 => resetGddrHw s index
  | _ => s

/-! ### Context, cluster and sail steps -/

/-- End the requests that wait for the outcome of a group that the scan of the logs has ended. -/
def endGroupReqs (s : State) (sl : Nat) : State :=
  s.yards.foldl (fun s p =>
    (p.2.reqs.filter (fun r => r.sail == sl && (match r.phase with
      | .action _ _ => true
      | .commit _ => true
      | _ => false))).foldl (fun s r => finishReq s p.1 r.id .txnConflict []) s) s

/-- A sail's yard engines and ways are re-initialised; requests of its saved contexts are taken again. -/
def resetSailYards (s : State) (sl : Nat) : State :=
  { s with yards := s.yards.map (fun p => (p.1, dropLines { p.2 with
      reqs := p.2.reqs.map (fun r => if r.sail == sl then restartReq r else r)
      eng := p.2.eng.map (fun e => if s.ownerAt (offLookup + 32 * p.1 + e.1) == some sl then (e.1, { e.2 with cur := none, descs := [] }) else e)
      gen := p.2.gen.filter (fun g => g.1 % 64 != sl)
      locks := p.2.locks.filter (fun l => (s.group (l.2 - 1)).sail != sl) } (fun w _ => (sailWays s p.1 sl).contains w))) }

/-- FM_RECOVERY of a recovery step (R259, R261), with the ports that are fenced. -/
def fmRecovery (s : State) (start : Bool) (step : Nat) (sails : List Nat) (lost : Bool) : State :=
  sendFm s (.recovery start step sails lost ((List.range 32).filter (fun p => (s.port p).fenced)))

/-- Contexts whose reset or destruction waited for programs that a step has ended. -/
def settleAll (s : State) : State :=
  s.ctxs.foldl (fun s p => if p.2.st == .resetting || p.2.st == .destroying then settleCtx s p.1 else s) s

/-- The cluster step (R420, R427). -/
def clusterStep (s : State) (n cause : Nat) : State :=
  units s (fun s =>
    let s := beginStep s 2 (.cluster n) cause
    let s := takeSamples s cause (residentCores s (fun k => k / 34 == n))
    let s := (workOn s (fun k => k / 34 == n) (fun e => e / 4 == n)).foldl (fun s c => interrupt s c.1 c.2) s
    let s := endStep (settleAll (resetClusterHw s n)) 2 (.cluster n)
    match s.clusterSail n with
    | none => s
    | some sl => schedule s sl)

/-- The sail step: a reset of SAIL scope (R385, R420, R427, R430). It ends in the nanosecond that follows; until then requests to the
sail's exports are unreachable (R261). -/
def sailStep (s : State) (sl cause : Nat) : State :=
  units s (fun s =>
    let s := fmRecovery (beginStep s 3 (.sail sl) cause) true 3 [sl] false
    let mine := fun (n : Nat) => s.clusterSail n == some sl
    let s := takeSamples s cause (residentCores s (fun k => mine (k / 34)))
    let s := (workOn s (fun k => mine (k / 34)) (fun e => mine (e / 4))).foldl (fun s c => interrupt s c.1 c.2) s
    let s := (s.sailClusters sl).foldl resetClusterHw s
    let s := settleAll (endGroupReqs (scanLogs (resetSailYards s sl) sl) sl)
    s.updSail sl (fun x => { x with recovering := true }))

/-- The end of a sail step (R261, R420): programs are placed again. -/
def sailStepEnd (s : State) (sl : Nat) : State :=
  units s (fun s =>
    let s := s.updSail sl (fun x => { x with recovering := false })
    schedule (fmRecovery (endStep s 3 (.sail sl)) false 3 [sl] false) sl)

/-- The sail steps that have done their work end. -/
def endSailSteps (s : State) : State :=
  if !s.mesh.running then s
  else s.sails.foldl (fun s p => if p.2.recovering then sailStepEnd s p.1 else s) s

/-! ### The chip step: a reset of COMPUTE scope (R286, R385) -/

/-- The sails of the active rig. -/
def activeSails (s : State) : List Nat := (activeRig s).sails.map (·.1)

/-- A swap is abandoned before its SWAP bit is set; what is done stands (R286). -/
def abandonSwap (s : State) : State :=
  let back := fun (s : State) (sl : Nat) => s.updSail sl (fun x => { x with state := 1 })
  let gone := s.rig.phase == .drain || s.rig.phase == .scrub || s.rig.phase == .cut
  let s := units s (fun s =>
    let s := (sailsOf s .changed).foldl back s
    if gone then (sailsOf s .removed).foldl (fun s sl => s.updSail sl (fun x => { x with state := 0 })) s
    else (sailsOf s .removed).foldl back s)
  s.updRig (fun r => { r with phase := .idle, classes := [], waits := false })

/-- The shadow rig is discarded, a LOAD ends, and a swap is abandoned or, after its cut, completed (R286). -/
def endRigWork (s : State) : State :=
  let s := if s.rig.phase == .cut && s.mesh.injected then releaseState { s with mesh := { s.mesh with complete := true } }
    else if s.rig.phase == .idle then s else abandonSwap s
  s.updRig (fun r => { r with loading := none, shadow := none, shadowSt := .empty, shadowSerial := 0 })

/-- The mesh restarts from slot 0 on the boot schedule; the active rig is reapplied in bank 0 (R149, R150). -/
def restartMesh (s : State) : State :=
  match s.rig.active with
  | none => { s with mesh := MeshSt.reset }
  | some r => { s with mesh := { MeshSt.reset with
      boot := false, period := r.period, banks := r.sched.foldl (fun b p => b.set [] (2 * p.1) p.2) [] } }

/-- Re-initialise what COMPUTE scope reaches (R385). -/
def computeReset (s : State) : State :=
  let s := units (endRigWork s) (fun s =>
    let s := (workOn s (fun _ => true) (fun _ => true)).foldl (fun s c => interrupt s c.1 c.2) s
    let s := (List.range 64).foldl resetClusterHw s
    settleAll ((activeSails s).foldl (fun s sl => endGroupReqs (scanLogs (resetSailYards s sl) sl) sl) s))
  { s with
    mesh := { MeshSt.reset with running := false }
    rst := { s.rst with ready := false, blockBusy := none }
    ttl := { s.ttl with replays := [] }
    pwr := { s.pwr with stopped := [] }
    sails := s.sails.map (fun p => (p.1, { p.2 with recovering := true })) }

/-- Bring COMPUTE scope up again (R396): the mesh runs, the rig is reapplied, programs are placed. -/
def computeUp (s : State) : State :=
  let s := restartMesh s
  let s := { s with
    rst := { s.rst with ready := s.rst.fwRun, step := if s.rst.fwRun then 11 else s.rst.step }
    sails := s.sails.map (fun p => (p.1, { p.2 with recovering := false })) }
  units s (fun s => (activeSails s).foldl schedule s)

end Sys2Proof.Machine
end

