-- ==== Sys2Proof/Machine/Reset.lean ====
section
/-! DEFINITION. Resets, bring-up, firmware delivery, self-test (12): POWER_ON, PERST, TRAY_RESET_N, RESET_DEASSERTION, the
software resets, PF_FUNCTION_LEVEL_RESET, DBG_RESET, TRANSITION, BLOCK_QUIESCE, BLOCK_RESET, BLOCK_RESET_COMPLETE, BOOT_BEGIN,
BOOT_DATA, BOOT_END, BOOT_STATE, SHUTDOWN_GO, SELF_TEST_COMPLETE, BACKGROUND_TEST_COMPLETE, RELEASE.
Choices of the model here: log entry 4 (DESIGN CHOICE), log entry 11 (DESIGN CHOICE), log entry 47 (DEDUCED),
log entry 48 (DESIGN CHOICE), log entry 50 (DESIGN CHOICE), log entry 51 (DEDUCED), log entry 52 (DEDUCED),
log entry 66 (DESIGN CHOICE), log entry 70 (DESIGN CHOICE). -/

namespace Sys2Proof.Machine

open Sys2Proof

def State.updRst (s : State) (f : RstSt → RstSt) : State := { s with rst := f s.rst }

/-! ### The fuse map (R386, R387) -/

/-- The codes that the entry of a source may hold: 1 COLD, 2 WARM, 3 COMPUTE, 4 PORT, 5 SAIL. -/
def scopeCodes (source : Nat) : List Nat :=
  match source with
  | 0 => [4, 3, 2, 1]
  | 1 => [4, 3, 2, 1]
  | 4 => [3, 2]
  | 5 => [5, 3]
  | 7 => [1, 2]
  | _ => [2, 1]

/-- The scope code of a source: its entry, or the default for 0 and for a value that is not allowed. -/
def scopeCode (s : State) (source : Nat) : Nat :=
  let e := s.rst.fuseMap.toNat / 16 ^ source % 16
  if (scopeCodes source).contains e then e else (scopeCodes source).headD 1

/-- Whether some entry holds a value that is not allowed (BADENTRY). -/
def badFuses (m : BitVec 32) : Bool :=
  (List.range 8).any (fun i => m.toNat / 16 ^ i % 16 != 0 && !(scopeCodes i).contains (m.toNat / 16 ^ i % 16))

/-- The scope of a source, with its port or sail. -/
def scopeOf (s : State) (source port sail : Nat) : Scope :=
  match scopeCode s source with
  | 1 => .cold
  | 2 => .warm
  | 3 => .compute
  | 4 => .port port
  | _ => .sail sail

def Scope.code : Scope → Nat
  | .cold => 1 | .warm => 2 | .compute => 3 | .port _ => 4 | .sail _ => 5

/-- Whether one scope contains another (R385). -/
def Scope.contains (a b : Scope) : Bool :=
  match a, b with
  | .cold, _ => true
  | .warm, .cold => false
  | .warm, _ => true
  | .compute, .compute => true
  | .compute, .sail _ => true
  | x, y => x == y

/-! ### Scopes (R385) -/

/-- A PORT reset: the port's functions start again, their queues are disabled, what read from the port ends. -/
def portReset (s : State) (p : Nat) : State :=
  let mine := fun (fn : HostFn) => fn.hostPort == p
  let s := units s (fun s => (queuesOf s (fun x => (x.fn.map mine).getD false)).foldl (fun s q => disableQueue s q true) s)
  let s := if s.rig.loading == some p then
      s.updRig (fun r => { r with loading := none, shadow := none, shadowSt := .empty, shadowSerial := 0 })
    else s
  let s := s.updRig (fun r => if p = 0 then { r with loadAddr := r.loadAddr.set 0 0, loadLen := r.loadLen.set 0 0 }
    else { r with loadAddr := r.loadAddr.set 1 0, loadLen := r.loadLen.set 1 0 })
  let s := s.updSec (fun x => { x with
    doe := x.doe.filter (fun d => !mine d.1), reportWaits := x.reportWaits.filter (fun w => !mine w.fn), reqAddr := if p = 0 then x.reqAddr.set 0 0 else x.reqAddr.set 1 0 })
  let s := s.updRst (fun x => { x with boot := match x.boot with
    | none => none
    | some b => if b.port = p then none else some b })
  { s with hif := { s.hif with viewSel := s.hif.viewSel.filter (fun v => !mine v.1.1) } }

/-- The pin of a host port. -/
def portPin (p : Nat) : ResetPin := if p = 0 then .perst0 else .perst1

def setLink (s : State) (p : Nat) (up : Bool) : State :=
  let half := s.pwr.portModeNow.getLsbD p
  let x : HifPort := if up then { linkUp := true, width := if half then 8 else 16, speed := 6 }
    else { linkUp := false, width := 0, speed := 0 }
  { s with hif := { s.hif with ports := if p = 0 then s.hif.ports.set 0 x else s.hif.ports.set 1 x } }

/-- Step 4 of R396 for a port: its link is trained once its PERST is deasserted. -/
def trainHost (s : State) (p : Nat) : State := if s.rst.pins.contains (portPin p) then s else setLink s p true

/-- Whether the module holds the PERST output of a CXL port low (R391): until step 10 of a bring-up, while a reset whose scope includes
the port is asserted, during a block reset of it. -/
def cxlPerstLow (s : State) (p : Nat) : Bool := !s.rst.powered || !s.rst.fwRun || s.rst.blockBusy == some (6, p)

/-- What a start keeps of a CXL port: the expanders behind it. -/
def CxlPort.restart (c : CxlPort) : CxlPort := { CxlPort.reset with segments := c.segments, expanders := c.expanders }

/-- What MRAM and the fuses keep of the security unit; DELIVERIES and SINCE_COLD live until COLD. -/
def SecSt.restart (x : SecSt) (cold : Bool) : SecSt :=
  { SecSt.reset with
    unitId := x.unitId, leafNext := x.leafNext, leafResv := x.leafResv, leafDisabled := x.leafDisabled && !cold,
    lc := x.lc, lcMark := x.lcMark, lcOpen := x.lcOpen, lcTo := x.lcTo, lcCounter := x.lcCounter, opKey := x.opKey,
    rootBlocked := x.rootBlocked, romKeys := x.romKeys, userArea := x.userArea, dbgSince := x.dbgSince && !cold,
    slots := if cold then [] else (x.slots.filter (fun p => p.2.deliveries != 0)).map (fun p =>
      (p.1, { KeySlot.empty with deliveries := p.2.deliveries })),
    nextLease := x.nextLease }

/-- What MRAM, the fuses and the always-on domain keep of the reset block; the RWS counters live until COLD. -/
def RstSt.restart (x : RstSt) (cold : Bool) : RstSt :=
  { RstSt.reset with
    fuseMap := x.fuseMap, fwFloor := x.fwFloor, testRec := x.testRec, fenceMap := x.fenceMap, pins := x.pins, seqs := x.seqs,
    source := x.source, scope := x.scope, band := x.band, causeSail := x.causeSail, causeTime := x.causeTime,
    powered := x.powered, short := if cold then 0 else x.short, bandCount := if cold then 0 else x.bandCount }

/-- What a start keeps of the telltales: the time of the last WARM and, until COLD, the steps that have ended, a chip WARM step that
runs, and the counts of hangs. -/
def TtlSt.restart (x : TtlSt) (cold : Bool) : TtlSt :=
  { TtlSt.reset with
    warmAt := if cold then none else x.warmAt, warmStep := if cold then none else x.steps.find? (fun t => t.code == 5 && t.ended.isNone), chipFails := if cold then 0 else x.chipFails,
    steps := if cold then [] else x.steps.filter (fun t => t.ended.isSome), nextStep := if cold then 0 else x.nextStep,
    tells := if cold then [] else (x.tells.filter (fun t => t.2.hangs != 0)).map (fun t =>
      (t.1, { Telltale.idle with hangs := t.2.hangs })) }

/-- What a start keeps of power and the sideband: MRAM cells, and UNDERVOLT until COLD. -/
def PwrSt.restart (x : PwrSt) (cold : Bool) : PwrSt :=
  { PwrSt.reset with
    reversed := x.reversed, overvolt := x.overvolt, brownout := x.brownout, portMode := x.portMode,
    portModeNow := if cold then x.portMode else x.portModeNow, undervolt := x.undervolt && !cold, pwrGood := x.pwrGood,
    powerCycle := x.powerCycle, thermTrip := x.thermTrip, inputVolt := x.inputVolt, fatal := x.fatal, supplyOff := x.supplyOff, alertFw := x.alertFw && !cold }

/-- Cables stay where they are; the counter's history lives until COLD (R260). -/
def RyuSt.restart (x : RyuSt) (cold : Bool) : RyuSt :=
  { RyuSt.reset with
    ports := (x.ports.filter (fun p => p.2.cable)).map (fun p => (p.1, { RyuPort.reset with cable := true })), recordsLost := true,
    ran := x.ran && !cold, fmOut := x.fmOut, fmSeq := x.fmSeq }

/-- A reset of WARM or COLD scope, before bring-up: everything but MRAM, the fuses and the surroundings starts again;
memory contents are lost (R385, R360). -/
def fullReset (s : State) (cold : Bool) : State :=
  let e := s.free + 1
  { State.reset with
    time := if cold then 0 else s.time
    free := s.free + 1
    mem := s.mem.filter (fun c => decide (hostBase ≤ c.1) && decide (c.1 < 2 ^ 48))
    tiers := { MemSt.reset with
      lost := [(0, gddrEnd, e), (farBase, farEnd, e)]
      poison := s.tiers.poison.filter (fun c => decide (farBase ≤ c.1) && decide (c.1 < 2 ^ 48))
      cxl := s.tiers.cxl.map CxlPort.restart }
    mesh := { MeshSt.reset with running := false }
    rig := { RigSt.reset with highSerial := s.rig.highSerial }
    sec := s.sec.restart cold
    rst := s.rst.restart cold
    ttl := s.ttl.restart cold
    pwr := s.pwr.restart cold
    ryu := s.ryu.restart cold }

/-! ### Bring-up (R396) -/

/-- The self-test record that a start finds (R401). -/
def TestRecord.found (r : TestRecord) : TestRecord := { r with valid := r.valid && !r.inProgress && !r.overflow }

/-- Steps 1 to 6 of a WARM or COLD bring-up; step 7 waits for firmware. -/
def bringUp (s : State) : State :=
  let s := resumeTransition (s.updRst (fun x => { x with badEntry := badFuses x.fuseMap, testRec := x.testRec.found, step := 7 }))
  let s := s.updSec (fun x => { x with leafNext := x.leafResv, leafDisabled := x.leafDisabled || decide (x.leafResv < x.leafNext) })
  trainHost (trainHost { s with mesh := MeshSt.reset } 0) 1

/-- Whether a pin holds a reset that reaches the masthead. -/
def heldFull (s : State) : Bool := s.rst.seqs.any (fun q => q.scope == .cold || q.scope == .warm)

/-- Whether a pin holds a reset that stops the mesh. -/
def heldCompute (s : State) : Bool := s.rst.seqs.any (fun q => q.scope == .compute)

/-- Bring a scope up, unless a pin still holds a scope that contains it (R390, R392). -/
def bringUpScope (s : State) (sc : Scope) : State :=
  units s (fun s =>
    if heldFull s then s
    else match sc with
      | .cold => let s := bringUp s; if heldCompute s then { s with mesh := { s.mesh with running := false } } else s
      | .warm => let s := bringUp s; if heldCompute s then { s with mesh := { s.mesh with running := false } } else s
      | .compute => if heldCompute s then s
        else fmRecovery (endStep (computeUp s) 4 .device) false 4 (activeSails s) false
      | .port p => if decide (4 ≤ s.rst.step) then trainHost s p else s
      | .sail _ => s)

/-- A reset takes effect (R390): its scope is re-initialised. A SAIL reset of a sail that a swap pauses waits (R286). -/
def assertScope (s : State) (sc : Scope) : State :=
  match sc with
  | .cold => fullReset s true
  | .warm => { fullReset s false with ttl := { s.ttl.restart false with warmAt := some s.time } }
  | .compute =>
    computeReset (units s (fun s =>
      let s := fmRecovery (beginStep s 4 .device 0x0B) true 4 (activeSails s) false
      takeSamples s 0x0B (residentCores s (fun _ => true))))
  | .port p => setLink (portReset s p) p false
  | .sail sl =>
    if swapClass s sl == some .changed || swapClass s sl == some .removed then
      s.updRst (fun x => { x with sailWaits := x.sailWaits ++ [sl] })
    else if (s.desc sl).isSome then sailStep s sl 0x0B else s

/-- An accepted reset: RST_CAUSE (R393), the scope, and bring-up unless a pin holds it. -/
def acceptReset (s : State) (source port sail : Nat) (band : Bool) (held : Option ResetPin) : State :=
  let sc := scopeOf s source port sail
  let s := s.updRst (fun x => { x with
    source := BitVec.ofNat 4 source, scope := BitVec.ofNat 3 sc.code, band := band, causeSail := BitVec.ofNat 6 sail,
    causeTime := BitVec.ofNat 48 s.time.toNat })
  let s := assertScope s sc
  match held with
  | some p =>
    s.updRst (fun x => { x with seqs := x.seqs.filter (fun q => !(sc.contains q.scope && q.held == p)) ++ [{ scope := sc, held := p }] })
  | none => bringUpScope s sc

/-- Whether resets are accepted: an orderly shutdown ignores all but power loss (R400), and a module without power none. -/
def takesResets (s : State) : Bool := s.rst.powered && !s.rst.shutdown

/-- A low pulse on a reset pin passes the filter (R389): whether it is accepted, and the counters. -/
def filterPulse (s : State) (lowNs : Nat) (band : Bool) : State × Bool :=
  if lowNs < 2000 then (s.updRst (fun x => { x with short := satInc x.short }), false)
  else if lowNs < 4000 && !band then (s.updRst (fun x => { x with bandCount := satInc x.bandCount }), false)
  else (s, true)

/-- A pin is asserted; a pin that is already low only stays low (R392). -/
def pinReset (s : State) (pin : ResetPin) (source port lowNs : Nat) (band : Bool) : State :=
  if s.rst.pins.contains pin then s
  else
    let r := filterPulse s lowNs band
    if !r.2 then r.1
    else
      let s := r.1.updRst (fun x => { x with pins := x.pins ++ [pin] })
      if takesResets s then acceptReset s source port 0 (decide (lowNs < 4000)) (some pin) else s

def perstState (port lowNs : Nat) (band : Bool) (s : State) : State :=
  pinReset s (portPin (port % 2)) (port % 2) (port % 2) lowNs band

def trayResetState (lowNs : Nat) (band : Bool) (s : State) : State := pinReset s .trayReset 2 0 lowNs band

/-- RESET_DEASSERTION (R389, R390, R396): the scopes that the pin held are brought up. -/
def deassertState (pin : ResetPin) (highNs : Nat) (s : State) : State :=
  if !s.rst.pins.contains pin || highNs < 2000 then s
  else
    let mine := s.rst.seqs.filter (fun q => q.held == pin)
    let s := s.updRst (fun x => { x with
      pins := x.pins.filter (fun p => p != pin), seqs := x.seqs.filter (fun q => q.held != pin) })
    if !takesResets s then s
    else
      let s := units s (fun s => mine.foldl (fun s q => bringUpScope s q.scope) s)
      match pin with
      | .perst0 => bringUpScope s (.port 0)
      | .perst1 => bringUpScope s (.port 1)
      | .trayReset => s

/-- POWER_ON (R386, R396): a COLD reset, when the module has no power or has not been brought up. -/
def powerOnState (s : State) : State :=
  if s.rst.powered && s.rst.step != 0 then s
  else
    let s := fullReset s true
    let fault := s.pwr.reversed || s.pwr.overvolt || s.pwr.brownout
    let s := { s with pwr := { s.pwr with pwrGood := true, powerCycle := false, thermTrip := false } }
    let s := if fault then alert s 6 else s
    let s := s.updRst (fun x => { x with
      powered := true, source := 0xF, scope := 1, band := false, causeSail := 0, causeTime := 0, seqs := [] })
    if s.rst.pins.contains .trayReset then s.updRst (fun x => { x with seqs := [{ scope := .cold, held := .trayReset }] })
    else bringUpScope s .cold

/-- KIND of a value written to RST_SW, with the key 0xA5. -/
def rstSwKind (v : Word) : Nat := if v.toNat / 2 ^ 24 % 256 = 0xA5 then v.toNat % 4 else 0

/-- The software resets (RST_SW), by a primary physical function. -/
def softwareReset (kind : Nat) (fn : HostFn) (v : Word) (s : State) : State :=
  if fn.isPf && rstSwKind v == kind && takesResets s then
    let sl := v.toNat / 256 % 64
    if kind = 3 && (s.desc sl).isNone then s
    else acceptReset s (kind + 2) fn.hostPort (if kind = 3 then sl else 0) false none
  else s

/-- PF_FUNCTION_LEVEL_RESET (R291): as PERST of its port. -/
def pfResetState (port : Nat) (s : State) : State :=
  if takesResets s then acceptReset s (port % 2) (port % 2) 0 false none else s

/-- DBG_RESET (R386): a debug session of level 1 or above asks for it. -/
def dbgResetState (s : State) : State :=
  if 1 ≤ dbgLevelNow s && takesResets s then acceptReset s 6 0 0 false none else s

/-- TRANSITION (R377 to R379): the steps of an accepted request, then a reset. -/
def transitionState (fn : HostFn) (s : State) : State :=
  lcsRun s fn 128 (fun s p =>
    let r := lcsRequest s p
    match transitionJudge s r, LcState.ofCode (r.nat 7 7) with
    | none, some b =>
      let s := lcsEnd (transitionSteps s b) .done
      if takesResets s then acceptReset s 7 p 0 false none else s
    | some st, _ => lcsEnd s st
    | none, none => lcsEnd s .malformed)

def execPowerOn (s : State) : Out := sysCmd s powerOnState
def execPerst (port lowNs : Nat) (band : Bool) (s : State) : Out := sysCmd s (perstState port lowNs band)
def execTrayResetN (lowNs : Nat) (band : Bool) (s : State) : Out := sysCmd s (trayResetState lowNs band)
def execResetDeassertion (p : ResetPin) (highNs : Nat) (s : State) : Out := sysCmd s (deassertState p highNs)
def execSoftwareWarm (fn : HostFn) (v : Word) (s : State) : Out := sysCmd s (softwareReset 1 fn v)
def execSoftwareCompute (fn : HostFn) (v : Word) (s : State) : Out := sysCmd s (softwareReset 2 fn v)
def execSoftwareSail (fn : HostFn) (v : Word) (s : State) : Out := sysCmd s (softwareReset 3 fn v)
def execPfFunctionLevelReset (port : Nat) (s : State) : Out := sysCmd s (pfResetState port)
def execDbgReset (s : State) : Out := sysCmd s dbgResetState
/-- TRANSITION as a row; `block` is the BLOCK field of the write to LCS_CMD, which this command does not use. -/
def execTransition (fn : HostFn) (_block : Nat) (s : State) : Out := sysCmd s (transitionState fn)

/-- RELEASE (R277, step 7), and the SAIL resets that waited for it (R286). -/
def releaseAll (s : State) : State :=
  let t := releaseState s
  if s.rig.phase == .cut && t.rig.phase == .idle then
    let w := t.rst.sailWaits
    units (t.updRst (fun x => { x with sailWaits := [] })) (fun s =>
      w.foldl (fun s sl => if (s.desc sl).isSome then sailStep s sl 0x0B else s) s)
  else t

def execRelease (s : State) : Out := rigCmd s releaseAll

/-! ### One block (R394, R395) -/

/-- The block that RST_BLK_SEL selects, if it exists. -/
def selectedBlock (s : State) : Option (Nat × Nat) :=
  let k := s.rst.blkKind.toNat
  let i := s.rst.blkIndex.toNat
  let n := match k with
    | 0 => 2304 | 1 => 64 | 2 => 256 | 3 => 512 | 4 => 128 | 5 => 32 | 6 => 2 | _ => 4
  if i < n then some (k, i) else none

/-- The commands resident on a core or a cluster. -/
def blockCommands (s : State) (kind index : Nat) : List (Nat × Nat) :=
  match kind with
  | 0 => workOn s (fun k => s.coreRouter k == some index) (fun _ => false)
  | 1 => workOn s (fun k => k / 34 == index) (fun _ => false)
  | _ => []

/-- BLOCK_QUIESCE: the block takes no new work, and a resident context is pre-empted; or it takes work again. -/
def blockQuiesceState (fn : HostFn) (v : Bool) (s : State) : State :=
  match selectedBlock s with
  | none => s
  | some (k, i) =>
    if !fn.isPf then s
    else if v then
      let s := s.updRst (fun x => { x with quiesced := if x.quiesced.contains (k, i) then x.quiesced else x.quiesced ++ [(k, i)] })
      (blockCommands s k i).foldl (fun s c => requestPreempt s c.1 c.2) s
    else
      let s := s.updRst (fun x => { x with quiesced := x.quiesced.filter (fun b => b != (k, i)) })
      (activeSails s).foldl schedule s

/-- Whether a sail of the active rig owns a block (a port: holds a lease, request entries or a channel of it). -/
def blockOwned (s : State) (k i : Nat) : Bool :=
  let r := activeRig s
  match k with
  | 0 => (r.clusterSail (routerCore i).1).isSome
  | 1 => (r.clusterSail i).isSome
  | 2 => (r.clusterSail (i / 4)).isSome
  | 3 => (r.ownerAt (offLookup + i)).isSome
  | 4 => (r.ownerAt (offUpd + i)).isSome
  | 5 => match Tbl.look r.links i with
    | none => false
    | some l => l.leases.any (fun x => x != 255)
  | 6 => r.sails.any (fun p => if i = 0 then p.2.cxl0 != 0 else p.2.cxl1 != 0)
  | _ => (List.range 16).any (fun c => (r.ownerAt (offGddr + 16 * i + c)).isSome)

/-- BLOCK_RESET: refused unless the block belongs to no sail or is quiesced. -/
def blockResetState (fn : HostFn) (s : State) : State :=
  match selectedBlock s with
  | none => s
  | some (k, i) =>
    if !fn.isPf then s
    else if s.rst.blockBusy.isSome || (blockOwned s k i && !s.rst.quiesced.contains (k, i)) then
      s.updRst (fun x => { x with blkIgnored := true })
    else s.updRst (fun x => { x with blockBusy := some (k, i) })

/-- BLOCK_RESET_COMPLETE: the block is re-initialised. -/
def blockDoneState (s : State) : State :=
  match s.rst.blockBusy with
  | none => s
  | some (k, i) => (resetBlock s k i).updRst (fun x => { x with blockBusy := none })

def execBlockQuiesce (fn : HostFn) (v : Bool) (s : State) : Out := unitCmd s (blockQuiesceState fn v)
def execBlockReset (fn : HostFn) (s : State) : Out := unitCmd s (blockResetState fn)
def execBlockResetComplete (s : State) : Out := unitCmd s blockDoneState

/-! ### Firmware (R398, R399) -/

def bootBody (l : List Byte) : List Byte := leBytes 2 0 ++ l

/-- Answer a BOOT object. -/
def bootAnswer (s : State) (fn : HostFn) (st : Status) (l : List Byte) : State := answerDoe s fn st.code (bootBody l)

/-- Run a BOOT object: the mailbox of a primary physical function answers from step 4 on; after FWRUN, and during a
delivery of the other port, objects are refused. -/
def bootRun (s : State) (fn : HostFn) (l : List Byte) (f : State → State) : State :=
  if !fn.isPf || s.rst.step < 4 || !hostUp s fn.hostPort then s
  else if s.rst.fwRun then bootAnswer s fn .faultPermission l
  else match s.rst.boot with
    | some b => if b.port = fn.hostPort then f s else bootAnswer s fn .faultPermission l
    | none => f s

/-- BOOT_BEGIN. -/
def bootBeginState (fn : HostFn) (len : Nat) (s : State) : State :=
  bootRun s fn [] (fun s =>
    if len = 0 || 2 ^ 24 < len || len % 64 != 0 then bootAnswer s fn .malformed []
    else bootAnswer (s.updRst (fun x => { x with boot := some { port := fn.hostPort, len := len, img := [], written := [] } })) fn .done [])

/-- BOOT_DATA. -/
def bootDataState (fn : HostFn) (off : Nat) (data : List Byte) (s : State) : State :=
  bootRun s fn [] (fun s =>
    match s.rst.boot with
    | none => bootAnswer s fn .malformed []
    | some b =>
      if off % 64 != 0 || data.isEmpty || 2 ^ 19 < data.length || b.len < off + data.length then bootAnswer s fn .malformed []
      else
        let w := data.zipIdx.foldl (fun (a : BootSt) d =>
          { a with img := a.img.set 0 (off + d.2) d.1, written := a.written.set false (off + d.2) true }) b
        bootAnswer (s.updRst (fun x => { x with boot := some w })) fn .done [])

/-- A field of a firmware image's header. -/
def BootSt.field (b : BootSt) (lo n : Nat) : Nat := leNat ((List.range n).map (fun i => b.img.get 0 (lo + i)))

/-- Whether an image runs (R398, R399): written whole, well formed, SECVER at the floor, MIN_ROM at most ROMVER. -/
def BootSt.ok (b : BootSt) (floor : Nat) : Bool :=
  b.written.length == b.len && b.field 0 4 == 0x57464A4C && b.field 4 2 == 1 && b.field 8 4 == b.len && b.field 16 4 % 64 == 0 &&
    decide (b.field 16 4 < b.len) && decide (b.field 12 4 < b.len) && decide (b.field 20 1 ≤ 0x23) && decide (b.field 21 1 < 2) &&
    decide (floor ≤ b.field 22 2) && b.field 24 40 == 0

/-- A fence of the fence map is in force again after a start (R411). -/
def refence (s : State) (kind index : Nat) : State :=
  match kind with
  | 5 => s.updPort index (fun x => { x with fenced := true, up := false, trained := false })
  | 6 => s.setCxl index { s.cxl index with fenced := true, up := false }
  | 7 => (List.range 16).foldl (fun s c => setChan s true (16 * index + c) (fun x => { x with fenced := true })) s
  | 9 => setChan s false index (fun x => { x with fenced := true })
  | 10 => setChan s true index (fun x => { x with fenced := true })
  | _ => s

/-- Record the results of a self-test as fences and in the log (R403): a lasting failure is fenced, unless the golden
values could not be read. -/
def applyResults (s : State) (l : List TestEntry) (goldenBad : Bool) : State :=
  l.foldl (fun s e =>
    let o := logObject s e.kind e.index
    if e.lasting && !goldenBad then
      if fenced s e.kind e.index then s
      else if e.kind = 5 then refence (logUnit (fenceUnit s 5 e.index) 2 0 7 e.index 0x0E) 5 e.index
      else logUnit (applyFence s e.kind e.index) 2 0 o.1 o.2 0x0E
    else logUnit s 1 0 o.1 o.2 0x0E) s

/-- The placement of expanders one after another from segment `first` on, `used` being placed already: whole segments, at most
2,048 on a port (R180). -/
def placeExpanders (first : Nat) : Nat → List Nat → List (Nat × Nat)
  | _, [] => []
  | used, c :: t =>
    let n := min (c / 2 ^ 30) (2048 - used)
    (first + used, n) :: placeExpanders first (used + n) t

/-- A start enumerates a CXL port: its link is up when an expander answers (R180, R396). -/
def enumerate (s : State) (p : Nat) : State :=
  let l := placeExpanders (2048 * p) 0 ((Config.expanders s.free p).take 4)
  let s := { s with free := s.free + 1 }
  s.setCxl p { s.cxl p with
    expanders := l, segments := (l.map (·.2)).sum, linkUp := !l.isEmpty && !(s.cxl p).fenced }

/-- Steps 8 to 11 of R396: firmware runs, fences are applied, the far tier is enumerated, FM_HELLO leaves, READY. -/
def startFirmware (s : State) (b : BootSt) : State :=
  let s := s.updRst (fun x => { x with
    fwRun := true, fwVer := BitVec.ofNat 16 (b.field 6 2), fwSecVer := BitVec.ofNat 16 (b.field 22 2),
    fwFloor := if b.field 21 1 % 2 = 1 then BitVec.ofNat 16 (b.field 22 2) else x.fwFloor,
    fwDigest := Config.sha256 ((List.range b.len).map (fun i => b.img.get 0 i)), boot := none })
  let s := if s.rst.testRec.valid then applyResults s s.rst.testRec.entries s.rst.testRec.goldenBad else s
  let s := s.rst.fenceMap.foldl (fun s f => refence s f.1 f.2) s
  let s := { s with ttl := { s.ttl with warmStep := none, steps := s.ttl.steps ++ s.ttl.warmStep.toList } }
  let s := [0, 1].foldl enumerate s
  let s := sendFm { s with pwr := { s.pwr with alertFw := false } } .hello
  let s := if s.ryu.recordsLost then sendFm s (.recovery false 5 [] true []) else s
  let s := s.updRst (fun x => { x with step := 11, ready := !s.pwr.fatal, bgTest := !x.testRec.valid && s.sec.lc != .scrapped })
  endStep s 5 .device

/-- Bytes of an image under delivery. -/
def BootSt.bytes (b : BootSt) (lo n : Nat) : List Byte := (List.range n).map (fun i => b.img.get 0 (lo + i))

/-- Whether the image's signature verifies under the firmware key of the mask ROM (R398). -/
def BootSt.signed (b : BootSt) (key : List Byte) : Bool :=
  let o := b.field 16 4
  hssCheck key (shaBytes (b.bytes 0 o)) (b.bytes o (b.len - o))

/-- BOOT_END (R398, R399): an object that holds anything beyond OP, in `body`, is malformed. -/
def bootEndState (fn : HostFn) (body : List Byte) (s : State) : State :=
  bootRun s fn [] (fun s =>
    if !body.isEmpty then bootAnswer s fn .malformed []
    else match s.rst.boot with
    | none => bootAnswer s fn .malformed []
    | some b =>
      if b.ok s.rst.fwFloor.toNat && b.signed s.sec.romKeys.firm then bootAnswer (startFirmware s b) fn .done []
      else bootAnswer (s.updRst (fun x => { x with boot := none })) fn .faultPermission [])

/-- BOOT_STATE: the step of R396, then FWRUN, record valid, background test running. -/
def bootStateState (fn : HostFn) (s : State) : State :=
  let b := fun (x : Bool) (i : Nat) => if x then 2 ^ i else 0
  let l := leBytes 1 s.rst.step ++ leBytes 1 (b s.rst.fwRun 0 + b s.rst.testRec.valid 1 + b s.rst.bgTest 2)
  bootRun s fn l (fun s => bootAnswer s fn .done l)

def execBootBegin (fn : HostFn) (len : Nat) (s : State) : Out := unitCmd s (bootBeginState fn len)
def execBootData (fn : HostFn) (off : Nat) (data : List Byte) (s : State) : Out := unitCmd s (bootDataState fn off data)
def execBootEnd (fn : HostFn) (body : List Byte) (s : State) : Out := unitCmd s (bootEndState fn body)
def execBootState (fn : HostFn) (s : State) : Out := unitCmd s (bootStateState fn)

/-! ### Shutdown and self-test (R400 to R404) -/

/-- Every port stops (R400, step 3). -/
def stopPorts (s : State) : State :=
  let s := { s with ryu := { s.ryu with ports := s.ryu.ports.map (fun p => (p.1, { p.2 with up := false, trained := false })) } }
  let s := [0, 1].foldl (fun s p => s.setCxl p { s.cxl p with linkUp := false, up := false }) s
  setLink (setLink s 0 false) 1 false

/-- A request for an orderly shutdown, by RST_SHUTDOWN.GO or over SMBus (R400, R459). -/
def goShutdown (s : State) : State :=
  if s.rst.shutdown || !(activeRig s).sails.isEmpty || s.rig.phase != .idle then
    s.updRst (fun x => { x with sdIgnored := true })
  else if s.sec.lc == .scrapped then
    let s := stopPorts (s.updRst (fun x => { x with shutdown := true, offReady := true }))
    { s with pwr := { s.pwr with alertOff := true } }
  else stopPorts (s.updRst (fun x => { x with shutdown := true, testRec := { x.testRec with inProgress := true } }))

def shutdownGoState (fn : HostFn) (s : State) : State := if fn.isPf then goShutdown s else s

/-- SELF_TEST_COMPLETE (R400, step 4, R401 to R403): the record is written, the fence map loses the units that pass the factory form,
SRAM is zero, power may be removed. -/
def selfTestState (l : List TestEntry) (goldenBad : Bool) (s : State) : State :=
  if !s.rst.shutdown || s.rst.offReady then s
  else
    let r : TestRecord :=
      { valid := true, form := s.sec.lc == .maker || s.sec.lc == .analysis, goldenBad := goldenBad, overflow := decide (256 < l.length),
        seq := s.rst.testRec.seq + 1, time := s.time, entries := l.take 256, inProgress := false }
    let passed := fun (f : Nat × Nat) => !l.any (fun e => e.lasting && e.kind == f.1 && e.index == f.2)
    let s := if r.form && !goldenBad then s.updRst (fun x => { x with fenceMap := x.fenceMap.filter (fun f => !passed f) }) else s
    let s := losePackage s
    let s := clearSpan (clearSpan s gddrEnd (farBase - gddrEnd)) (2 ^ 48) (2 ^ 48)
    let s := s.updRst (fun x => { x with testRec := r, offReady := true })
    { s with pwr := { s.pwr with alertOff := true } }

/-- BACKGROUND_TEST_COMPLETE (R404): the fences are applied, and a SWAP that waited goes on. -/
def backgroundDoneState (l : List TestEntry) (goldenBad : Bool) (s : State) : State :=
  if !s.rst.bgTest then s
  else
    let s := units s (fun s => applyResults (s.updRst (fun x => { x with bgTest := false })) l goldenBad)
    if s.rig.waits then swapJudge (s.updRig (fun r => { r with waits := false })) else s

def execShutdownGo (fn : HostFn) (s : State) : Out := unitCmd s (shutdownGoState fn)
def execSelfTestComplete (l : List TestEntry) (goldenBad : Bool) (s : State) : Out := unitCmd s (selfTestState l goldenBad)
def execBackgroundTestComplete (l : List TestEntry) (goldenBad : Bool) (s : State) : Out :=
  rigCmd s (backgroundDoneState l goldenBad)

end Sys2Proof.Machine
end

