-- ==== Sys2Proof/Machine/Ladder.lean ====
section
/-! DEFINITION. The recovery ladder (R420 to R422): which step reaches a fault, taking a step, escalation, and
STEP_BOUND_EXPIRY.
Choices of the model here: log entry 53 (DEDUCED). -/

namespace Sys2Proof.Machine

open Sys2Proof

/-! ### The objects of telltales (R414) -/

/-- The cluster of a core, a DMA engine or a cluster. -/
def tellCluster (kind i : Nat) : Option Nat :=
  match kind with
  | 0 => some (i / 34)
  | 1 => some (i / 4)
  | 4 => some i
  | _ => none

/-- The sail that an object belongs to; a port belongs to none. -/
def tellSail (s : State) (kind i : Nat) : Option Nat :=
  match kind with
  | 0 => s.clusterSail (i / 34)
  | 1 => s.clusterSail (i / 4)
  | 2 => s.ownerAt (offLookup + i)
  | 3 => s.ownerAt (offUpd + i)
  | 4 => s.clusterSail i
  | 5 => if (s.desc i).isSome then some i else none
  | 6 => s.queueSail i
  | _ => none

/-- The block of R394 of a core or an engine. -/
def tellBlock (s : State) (kind i : Nat) : Option (Nat × Nat) :=
  match kind with
  | 0 => (s.coreRouter i).map (fun r => (0, r))
  | 1 => some (2, i)
  | 2 => some (3, i)
  | 3 => some (4, i)
  | _ => none

/-- Whether an update engine still has work for an action: it is to be logged, made durable, or applied (R124). -/
def actionOpen (g : Group) (a : Action) : Bool :=
  match a.st with
  | .forwarded => true
  | .waitLock => true
  | .logged => true
  | .durable => g.st == .committed
  | _ => false

/-- The groups, with an action each, that hold work on update engine `i` (8 × yard + engine). -/
def updWork (s : State) (i : Nat) : List Group :=
  (s.groups.filter (fun p => p.2.st != .free && p.2.actions.any (fun a =>
    a.home == i / 8 && actionOpen p.2 a && actionEngine s a.home p.2.sail a.row == i % 8))).map (·.2)

/-- The commands that have work on an object: (queue, number). -/
def objectWork (s : State) (kind i : Nat) : List (Nat × Nat) :=
  match kind with
  | 0 => match s.prog i with
    | none => []
    | some p => [(p.q, p.n)]
  | 1 => ((s.engine i).descs.map (fun d => d.from_.cmd)).eraseDups
  | 2 => match (engineOf (s.yard (i / 32)) (i % 32)).cur.bind (s.yreq (i / 32)) with
    | none => []
    | some r => match r.ownQueue with
      | none => []
      | some q => [(q, r.n)]
  | 3 => ((updWork s i).map (fun g => (g.q, g.n))).eraseDups
  | 6 => ((s.queue i).cmds.filter (fun c => c.isStarted)).map (fun c => (i, c.n))
  | _ => []

/-! ### Reaches (R421, R422) -/

/-- Whether an object lies within the reach of a step. -/
def inReach (s : State) (kind i : Nat) (r : LadderReach) : Bool :=
  match r with
  | .device => true
  | .sail sl => tellSail s kind i == some sl
  | .cluster c => tellCluster kind i == some c
  | .block k j => tellBlock s kind i == some (k, j)
  | .context c => (objectWork s kind i).any (fun w => s.queueCtx w.1 == c)

/-- The cluster and the sail of a block of R394. -/
def blockCluster (k j : Nat) : Option Nat :=
  match k with
  | 0 => some (routerCore j).1
  | 1 => some j
  | 2 => some (j / 4)
  | _ => none

def blockSail (s : State) (k j : Nat) : Option Nat :=
  match k with
  | 3 => s.ownerAt (offLookup + j)
  | 4 => s.ownerAt (offUpd + j)
  | _ => (blockCluster k j).bind s.clusterSail

/-- Whether the reach of a lower step lies within that of a higher one. -/
def reachWithin (s : State) (outer inner : LadderReach) : Bool :=
  match outer with
  | .device => true
  | .sail sl => match inner with
    | .context c => s.ctxSail c == some sl
    | .block k j => blockSail s k j == some sl
    | .cluster c => s.clusterSail c == some sl
    | _ => false
  | .cluster c => match inner with
    | .block k j => blockCluster k j == some c
    | _ => false
  | _ => false

/-- A higher step takes over the commands of the lower ones that run within its reach; those are abandoned (R422). -/
def abandonLower (s : State) (code : Nat) (r : LadderReach) : State :=
  let gone := fun (t : LadderStep) => t.ended.isNone && decide (t.code < code) && reachWithin s r t.reach
  let ids := (s.ttl.steps.filter gone).map (·.id)
  { s with ttl := { s.ttl with
      steps := s.ttl.steps.filter (fun t => !gone t)
      replays := s.ttl.replays.filter (fun x => !ids.contains x.stepId) } }

/-! ### The device's steps -/

/-- Whether the masthead can still send messages and take samples. -/
def mastheadWorks (s : State) : Bool := s.rst.fwRun && !s.ttl.fwHung

/-- The chip step (R420, R430): a reset of COMPUTE scope that no pin holds; a pin that does brings it up later. -/
def chipStep (s : State) (cause : Nat) : State :=
  let s := units s (fun s =>
    let s := fmRecovery (beginStep s 4 .device cause) true 4 (activeSails s) false
    takeSamples s cause (residentCores s (fun _ => true)))
  bringUpScope (computeReset s) .compute

/-- Chip WARM (R420, R423, R430). -/
def warmStep (s : State) (cause : Nat) : State :=
  let s := units s (fun s =>
    let s := beginStep s 5 .device cause
    if mastheadWorks s then takeSamples (fmRecovery s true 5 (activeSails s) false) cause (residentCores s (fun _ => true))
    else s)
  bringUpScope (assertScope s .warm) .warm

/-- The power cycle (R420): ALERT_N, and the request over SMBus. -/
def powerCycleStep (s : State) (cause : Nat) : State :=
  units s (fun s =>
    let s := beginStep s 6 .device cause
    let s := if mastheadWorks s then fmRecovery s true 6 (activeSails s) false else s
    alert { s with pwr := { s.pwr with powerCycle := true } } 4)

/-- FATAL (R406, R420): the device does not become ready until it is serviced. -/
def fatalStep (s : State) (cause : Nat) : State :=
  units s (fun s =>
    let s := logUnit s 6 0 13 0 cause
    alert { s with pwr := { s.pwr with fatal := true }, rst := { s.rst with ready := false } } 5)

/-- Take a step, by its code, on a cluster, a sail or the device. -/
def takeStep (s : State) (code : Nat) (cl sl : Option Nat) (cause : Nat) : State :=
  if s.pwr.fatal then s
  else match code, cl, sl with
    | 2, some c, _ => clusterStep (abandonLower s 2 (.cluster c)) c cause
    | 2, none, some l => sailStep (abandonLower s 3 (.sail l)) l cause
    | 3, _, some l => sailStep (abandonLower s 3 (.sail l)) l cause
    | 5, _, _ => warmStep (abandonLower s 5 .device) cause
    | 6, _, _ => powerCycleStep (abandonLower s 6 .device) cause
    | 7, _, _ => fatalStep s cause
    | _, _, _ => chipStep (abandonLower s 4 .device) cause

/-! ### Escalation (R421) -/

/-- The step that follows one on a hang of an object: a context step is followed by the cluster step for a core or a DMA
engine, by the sail step for a yard engine or a queue. -/
def nextStepOf (kind code : Nat) : Nat := if code = 1 then (if kind ≤ 1 then 2 else 3) else code + 1

/-- The bound of a step in ns (R420); the firmware delivery of a WARM and the run time of replays do not count. -/
def stepBound (code : Nat) : Nat :=
  match code with
  | 1 => 2000000
  | 2 => 20000000
  | 3 => 150000000
  | 4 => 600000000
  | 5 => 4000000000
  | _ => 12000000000

/-- Whether a step waits for something that its bound leaves out. -/
def boundPaused (s : State) (t : LadderStep) : Bool :=
  (t.code == 5 && s.rst.step == 7) || s.ttl.replays.any (fun r => r.stepId == t.id && r.cur.isSome)

/-- The telltale kind that stands for a step's reach in R421. -/
def reachKind : LadderReach → Nat
  | .block 0 _ => 0
  | .block 2 _ => 1
  | .block _ _ => 2
  | _ => 6

/-- STEP_BOUND_EXPIRY: a step that has not ended within its bound escalates. -/
def boundExpiryState (id : Nat) (s : State) : State :=
  match s.ttl.steps.find? (fun t => t.id == id && t.ended.isNone) with
  | none => s
  | some t =>
    if (s.time - t.started).toNat < stepBound t.code || boundPaused s t then s
    else
      let s := { s with ttl := { s.ttl with
        steps := s.ttl.steps.filter (fun x => x.id != id), replays := s.ttl.replays.filter (fun r => r.stepId != id) } }
      let cl := match t.reach with
        | .block k j => blockCluster k j
        | .cluster c => some c
        | _ => none
      let sl := match t.reach with
        | .context c => s.ctxSail c
        | .block k j => blockSail s k j
        | .cluster c => s.clusterSail c
        | .sail l => some l
        | .device => none
      takeStep s (nextStepOf (reachKind t.reach) t.code) cl sl 0x10

def execStepBoundExpiry (id : Nat) (s : State) : Out := rigCmd s (boundExpiryState id)

end Sys2Proof.Machine
end

