-- ==== Sys2Proof/Machine/Telltale.lean ====
section
/-! DEFINITION. Telltales (R414 to R419) and suspect replay (R424 to R426): TELLTALE_WINDOW_CLOSE, SUSPECT_REPLAY_END,
FW_BEAT.
Choices of the model here: log entry 53 (DEDUCED), log entry 54 (DEDUCED). -/

namespace Sys2Proof.Machine

open Sys2Proof

def State.tell (s : State) (kind i : Nat) : Telltale := s.ttl.tells.get Telltale.idle (8192 * kind + i)

def State.updTell (s : State) (kind i : Nat) (f : Telltale → Telltale) : State :=
  { s with ttl := { s.ttl with tells := s.ttl.tells.upd Telltale.idle (8192 * kind + i) f } }

/-! ### Objects of a cluster and of a sail -/

def clusterCores (c : Nat) : List Nat := (List.range 34).map (fun k => 34 * c + k)
def clusterDmas (c : Nat) : List Nat := (List.range 4).map (fun e => 4 * c + e)

/-- The cores, DMA engines, lookup and update engines that make up an object, as telltale objects. -/
def parts (s : State) (kind i : Nat) : List (Nat × Nat) :=
  let cluster := fun (c : Nat) => (clusterCores c).map (fun k => (0, k)) ++ (clusterDmas c).map (fun e => (1, e))
  match kind with
  | 4 => cluster i
  | 5 =>
    (s.sailClusters i).flatMap cluster ++
    ((List.range 512).filter (fun e => s.ownerAt (offLookup + e) == some i)).map (fun e => (2, e)) ++
    ((List.range 128).filter (fun e => s.ownerAt (offUpd + e) == some i)).map (fun e => (3, e))
  | 6 =>
    let mine := fun (l : List (Nat × Nat)) => l.any (fun w => w.1 == i)
    ((s.cores.filter (fun p => mine (objectWork s 0 p.1))).map (fun p => (0, p.1))) ++
    ((s.dma.filter (fun p => mine (objectWork s 1 p.1))).map (fun p => (1, p.1))) ++
    s.yards.flatMap (fun p => ((p.2.eng.filter (fun e => mine (objectWork s 2 (32 * p.1 + e.1)))).map (fun e => (2, 32 * p.1 + e.1))) ++
      ((List.range 8).filter (fun e => mine (objectWork s 3 (8 * p.1 + e)))).map (fun e => (3, 8 * p.1 + e)))
  | _ => []

/-! ### Progress (R414) -/

/-- Progress events of a core or an engine. -/
def leafProgress (s : State) (kind i : Nat) : Nat :=
  match kind with
  | 0 => (s.core i).progress
  | 1 => (s.engine i).progress
  | 2 => (engineOf (s.yard (i / 32)) (i % 32)).progress
  | 3 => (s.yard (i / 8)).updProgress.get 0 (i % 8)
  | _ => 0

/-- Every progress event of an object so far. A queue's own count takes the events of a program as it leaves its core, and
those of the programs that still run stand beside it. -/
def totalProgress (s : State) (kind i : Nat) : Nat :=
  let own := (s.tell kind i).progress
  match kind with
  | 4 => own + ((parts s 4 i).map (fun p => leafProgress s p.1 p.2)).sum
  | 5 => own + ((parts s 5 i).map (fun p => leafProgress s p.1 p.2)).sum
  | 6 => own + (s.cores.filterMap (fun p => match p.2.prog with
      | none => none
      | some g => if g.q == i then some (p.2.progress - p.2.since) else none)).sum
  | k => own + leafProgress s k i

/-! ### Busy objects (R415) -/

/-- Whether a program counts for no telltale: its context is STOPPED or its sail PAUSED (R416). -/
def progExempt (s : State) (p : Prog) : Bool :=
  (s.ctx p.ctx).st == .stopped || ((s.ctxSail p.ctx).map (fun sl => (s.sail sl).state == 2)).getD false

/-- The memory key of a row that a lookup engine waits for. -/
def rowKey (s : State) (r : YReq) (x : RowReq) : Option Nat :=
  match locate s (reqUse s r.ctx r.q r.n) x.va .read with
  | .loc k _ => some k
  | _ => none

/-- The rows of a yard's requests that have not arrived. -/
def openRows (s : State) (y : Nat) : List (YReq × RowReq) :=
  (s.yard y).reqs.flatMap (fun r => match r.phase with
    | .engine _ => (r.rows.filter (fun x => !x.arrived)).map (fun x => (r, x))
    | _ => [])

/-- Whether a memory key lies in the far tier of a CXL port. -/
def farOf (port k : Nat) : Bool := decide (farBase + 2 ^ 41 * port ≤ k) && decide (k < farBase + 2 ^ 41 * (port + 1))

/-- Whether an object without parts holds unfinished work. -/
def leafBusy (s : State) (kind i : Nat) : Bool :=
  match kind with
  | 0 => match s.prog i with
    | none => false
    | some p => !progExempt s p
  | 1 => !(s.engine i).descs.isEmpty
  | 2 => (engineOf (s.yard (i / 32)) (i % 32)).cur.isSome
  | 3 => !(updWork s i).isEmpty
  | 6 => (s.queue i).cmds.any (fun c => c.isStarted)
  | 7 => !(s.port i).unacked.isEmpty
  | 8 => s.yards.any (fun p => (openRows s p.1).any (fun x => ((rowKey s x.1 x.2).map (farOf i)).getD false))
  | _ => false

/-- Whether a sail has a command that has started and not completed. -/
def sailWorks (s : State) (sl : Nat) : Bool :=
  s.queues.any (fun p => s.queueSail p.1 == some sl && p.2.cmds.any (fun c => c.isStarted && !c.isCompleted))

def objectBusy (s : State) (kind i : Nat) : Bool :=
  match kind with
  | 4 => (parts s 4 i).any (fun p => leafBusy s p.1 p.2)
  | 5 => (s.sail i).state != 2 && (sailWorks s i || (parts s 5 i).any (fun p => leafBusy s p.1 p.2))
  | k => leafBusy s k i

/-! ### Waits that are not judged (R416), and waits under timers of their own (R412, R417) -/

/-- Whether a command waits as R416 names it: for WAIT, SERIAL, a DOWN core, a sequence slot or a key delivery. -/
def cmdExempt (s : State) (q sl : Nat) (x : Queue) (c : CmdRec) : Bool :=
  match c.phase with
  | .ready => (runCores s sl c).any (coreDown s sl)
  | .started => c.opcode == 0x27
  | .fetched =>
    ((nextCmd x).map (·.n)) == some c.n &&
      (waitTest s sl c == .hold || (c.flag 3 && (x.cmds.takeWhile (fun d => d.n != c.n)).any (fun d => !d.isCompleted)) ||
       (sailRuns s sl && !dispatches s sl)) && decide (q < 8192)
  | _ => false

/-- Whether a wait of R416 holds for a queue. -/
def queueExempt (s : State) (q : Nat) : Bool :=
  let x := s.queue q
  match s.queueSail q with
  | none => true
  | some sl => (s.sail sl).state == 2 || (s.ctx x.ctx).st == .stopped || x.cmds.any (cmdExempt s q sl x)

/-- Whether every row that a request waits for is under an access timer, or the request stands at another node. -/
def reqTimed (s : State) (r : YReq) : Bool :=
  match r.phase with
  | .remote => true
  | .engine _ =>
    let l := r.rows.filter (fun x => !x.arrived)
    !l.isEmpty && l.all (fun x => match rowKey s r x with
      | none => false
      | some k => match regionOf k with
        | some (.gddr _) => true
        | some (.far _) => true
        | some (.host _) => true
        | _ => false)
  | _ => false

/-- Whether an outstanding request of a core waits under a timer. -/
def reqOutTimed (s : State) (k : Nat) (o : ReqOut) : Bool :=
  match o.at_ with
  | .yard y id => ((s.yreq y id).map (reqTimed s)).getD false
  | _ => s.ryu.tags.any (fun t => match t.2.op with
    | none => false
    | some x => x.from_ == .core k o.tag)

/-- Whether a program waits only on operations under timers of their own. -/
def progTimed (s : State) (k : Nat) (p : Prog) : Bool :=
  match p.waiting with
  | none => false
  | some w => match w.why with
    | .page => true
    | .sem _ _ => false
    | .granted => false
    | _ =>
      let l := p.reqs.filter (fun o => o.ret.isNone)
      !l.isEmpty && l.all (reqOutTimed s k)

/-- Whether a core or an engine that is busy waits only on operations under timers of their own. -/
def leafTimed (s : State) (kind i : Nat) : Bool :=
  match kind with
  | 0 => ((s.prog i).map (progTimed s i)).getD false
  | 1 =>
    let l := (s.engine i).descs.filter (fun d => d.phase == .running)
    !l.isEmpty && l.all (fun d => dmaBusy s i d.id)
  | 2 => (((engineOf (s.yard (i / 32)) (i % 32)).cur.bind (s.yreq (i / 32))).map (reqTimed s)).getD false
  | _ => false

/-- Whether a started command without a core or an engine waits under a timer: migrations, imports, cleats. -/
def cmdTimed (c : CmdRec) : Bool := [0x14, 0x22, 0x23, 0x26].contains c.opcode

def objectTimed (s : State) (kind i : Nat) : Bool :=
  let l := (parts s kind i).filter (fun p => leafBusy s p.1 p.2)
  match kind with
  | 4 => !l.isEmpty && l.all (fun p => leafTimed s p.1 p.2)
  | 5 => !l.isEmpty && l.all (fun p => leafTimed s p.1 p.2)
  | 6 =>
    let c := (s.queue i).cmds.filter (fun c => c.isStarted && !c.isCompleted && !(c.opcode == 0x01 || c.opcode == 0x02))
    (!l.isEmpty || !c.isEmpty) && l.all (fun p => leafTimed s p.1 p.2) && c.all cmdTimed
  | k => leafTimed s k i

/-- Whether a lower-level retry or retraining holds a window open (R417): a port resends frames or is trained again. -/
def retryRuns (s : State) (kind i : Nat) : Bool :=
  let x := s.port i
  kind == 7 && (x.sendQ.any (fun f => f.resends != 0) || (x.cable && !x.trained && !x.fenced))

/-! ### Host stalls (R418) -/

/-- Whether a descriptor waits for space in its context's DMA completion ring. -/
def ringWaits (s : State) (d : DmaDesc) : Bool :=
  let x := s.ctx d.ctx
  match d.phase, d.from_ with
  | .ended _, .core _ _ _ => decide ((2 ^ 64 + x.ringProd - x.ringCons) % 2 ^ 64 ≥ 2 ^ x.dmaCqLog2)
  | _, _ => false

/-- Whether the only unfinished work of a queue waits for completion-ring space or DMA completion-ring space. -/
def hostStalled (s : State) (q : Nat) : Bool :=
  let x := s.queue q
  let descs := s.dma.flatMap (fun p => p.2.descs.filter (fun d => d.from_.cmd.1 == q))
  let programs := s.cores.filterMap (fun p => p.2.prog.filter (fun g => g.q == q))
  let waits := programs.all (fun p => match p.waiting with
    | some w => w.why == .haltFence || (match w.why with
      | .fence _ => true
      | _ => false)
    | none => false)
  let open_ := x.cmds.filter (fun c => c.isStarted && !c.isCompleted)
  descs.all (ringWaits s) && waits && open_.all (fun c => c.opcode == 0x01 && !programs.isEmpty) &&
    (x.cqFull || !descs.isEmpty)

/-! ### Suspect replay (R424) -/

/-- The cause of a telltale's hang (R408). -/
def hangCause (kind : Nat) : Nat :=
  match kind with
  | 0 => 0x01
  | 4 => 0x03
  | 5 => 0x04
  | 6 => 0x05
  | 7 => 0x06
  | 8 => 0x06
  | _ => 0x02

/-- The contexts of some commands, in increasing number. -/
def ctxsOf (s : State) (l : List (Nat × Nat)) : List Nat :=
  let c := l.map (fun w => s.queueCtx w.1)
  (List.range 2048).filter (fun i => c.contains i)

/-- The step of a replay ends: it was not a step of its own in the log unless a suspect was guilty. When none was, the
hang was TRANSIENT (R409, R424). -/
def closeReplay (s : State) (r : Replay) : State :=
  let t := s.ttl.steps.find? (fun t => t.id == r.stepId)
  let s := { s with ttl := { s.ttl with
    replays := s.ttl.replays.filter (fun x => x.stepId != r.stepId)
    steps := s.ttl.steps.map (fun t => if t.id == r.stepId then { t with ended := some s.time } else t) } }
  let o := logObject s r.kind r.index
  let s := if r.guilty then s else logUnit s 1 1 o.1 o.2 ((t.map (·.cause)).getD 0)
  match blockSail s r.kind r.index with
  | none => s
  | some sl => schedule s sl

/-- Go on with a replay: the next suspect, or its end. -/
def setReplay (s : State) (r : Replay) : State :=
  match r.suspects with
  | [] => closeReplay s r
  | c :: _ =>
    let n := { r with cur := some c, hung := false }
    let s := { s with ttl := { s.ttl with replays := s.ttl.replays.map (fun x => if x.stepId == r.stepId then n else x) } }
    scheduleCtx s c

/-- Steps 2 to 4 of R424: samples, the reset of the block, the interruption of every suspect command, and the replay of
those that can be replayed. -/
def startReplay (s : State) (kind i cause : Nat) : State :=
  match tellBlock s kind i with
  | none => s
  | some (k, j) =>
    let l := objectWork s kind i
    let s := takeSamples s cause (l.flatMap (fun w => coresOf s w.1 w.2))
    let s := l.foldl (fun s w => interrupt s w.1 w.2) s
    let s := settleAll (resetBlock s k j)
    let held := l.filter (fun w => match s.cmd w.1 w.2 with
      | none => false
      | some c => !c.isCompleted)
    let id := s.ttl.nextStep
    let t : LadderStep := { id := id, code := 1, cause := cause, reach := .block k j, started := s.time, ended := none }
    let r : Replay := { kind := k, index := j, suspects := ctxsOf s held, held := held, cur := none, hung := false, guilty := false,
                        stepId := id }
    setReplay { s with ttl := { s.ttl with
      steps := s.ttl.steps.filter (recentStep s.time) ++ [t], nextStep := id + 1, replays := s.ttl.replays ++ [r] } } r

/-- SUSPECT_REPLAY_END (R424, steps 5 and 6): the context under replay is cleared once its commands have completed; after a
replay that hung, the block check decides between the context and the block. -/
def replayEndState (ctx : Nat) (v : ReplayVerdict) (s : State) : State :=
  match s.ttl.replays.find? (fun r => r.cur == some ctx) with
  | none => s
  | some r =>
    let mine := r.held.filter (fun w => s.queueCtx w.1 == ctx)
    let next := { r with suspects := r.suspects.filter (fun c => c != ctx), held := r.held.filter (fun w => !mine.contains w) }
    let cause := ((s.ttl.steps.find? (fun t => t.id == r.stepId)).map (·.cause)).getD 0
    let guilty := fun (s : State) =>
      let s := resetCtx s ctx cause true
      setReplay (settleAll (resetBlock s r.kind r.index)) { next with guilty := true }
    match v with
    | .completed =>
      if mine.all (fun w => match s.cmd w.1 w.2 with
        | none => true
        | some c => c.isCompleted) then setReplay s next else s
    | .guilty => if r.hung then guilty s else s
    | .guiltyRetry => if r.hung then guilty s else s
    | .blockBad =>
      if !r.hung then s
      else
        let s := mine.foldl (fun s w => interrupt s w.1 w.2) s
        let s := fenceLasting (settleAll (resetBlock s r.kind r.index)) r.kind r.index
        let s := closeReplay s { next with guilty := true }
        if r.kind = 2 then takeStep s 2 (blockCluster r.kind r.index) (blockSail s r.kind r.index) 0x10 else s

def execSuspectReplayEnd (ctx : Nat) (v : ReplayVerdict) (s : State) : Out := unitCmd s (replayEndState ctx v)

/-! ### A hang (R415, R420 to R422) -/

/-- A HANG record with the step that is taken. -/
def logHang (s : State) (kind i step : Nat) : State :=
  let sl := tellSail s kind i
  let c := match objectWork s kind i with
    | [w] => some (s.queueCtx w.1)
    | _ => none
  let w := match objectWork s kind i with
    | [w] => some w
    | _ => none
  units s (fun s => logUnit s 3 step kind i (hangCause kind) sl c 0 w)

/-- The port that a telltale finds hung is trained again (R410, R211): it leaves service until the training row. -/
def retrainPort (s : State) (kind i : Nat) : State :=
  if kind = 7 then s.updPort i (fun x => if x.fenced then x else { x with trained := false, up := false })
  else setCxlRate s i (fun x => if x.fenced then x else { x with linkUp := false, up := false })

/-- The first step on a hang (R414). -/
def firstStep (s : State) (kind i : Nat) : State :=
  match kind with
  | 4 => takeStep s 2 (some i) (tellSail s 4 i) 0x03
  | 5 => takeStep s 3 none (some i) 0x04
  | 6 => units s (fun s => resetCtx s (s.queueCtx i) 0x05)
  | 7 => retrainPort s 7 i
  | 8 => retrainPort s 8 i
  | k => units s (fun s => startReplay s k i (hangCause k))

def firstCode (kind : Nat) : Nat :=
  match kind with
  | 4 => 2
  | 5 => 3
  | 7 => 0
  | 8 => 0
  | _ => 1

/-- A hang is declared: a replay of the block judges it, a running step absorbs it, a step that ended less than 1 s ago
escalates, or the first step is taken. -/
def declareHang (s : State) (kind i : Nat) : State :=
  let s := s.updTell kind i (fun t => { t with hung := true, hangs := satInc t.hangs })
  let blk := tellBlock s kind i
  let under := fun (r : Replay) => blk == some (r.kind, r.index) && r.cur.isSome
  let reached := s.ttl.steps.filter (fun t => recentStep s.time t && inReach s kind i t.reach)
  if s.ttl.replays.any under then
    let s := logHang s kind i 1
    { s with ttl := { s.ttl with replays := s.ttl.replays.map (fun r => if under r then { r with hung := true } else r) } }
  else if reached.any (fun t => t.ended.isNone) then logHang s kind i 0
  else if reached.isEmpty || kind == 7 || kind == 8 then firstStep (logHang s kind i (firstCode kind)) kind i
  else
    let top := (reached.map (·.code)).foldl max 0
    let code := nextStepOf kind top
    takeStep (logHang s kind i (min code 6)) code (tellCluster kind i) (tellSail s kind i) 0x10

/-! ### TELLTALE_WINDOW_CLOSE -/

/-- The routers of the unit that watches an object; the masthead watches cores, DMA engines, clusters, sails and queues. -/
def tellUnit (kind i : Nat) : List Nat :=
  match kind with
  | 2 => yardUnit (i / 32)
  | 3 => yardUnit (i / 8)
  | 7 => ryuUnit i
  | 8 => hostUnit i
  | _ => []

/-- The window in ns and the threshold of an object (R414). -/
def tellWindow (s : State) (kind i : Nat) : Nat × Nat :=
  match ((s.unitRig (tellUnit kind i)).getD Rig.empty).telltale.find? (fun e => e.kind == kind && e.index == i) with
  | some e => (1000 * e.window, e.threshold)
  | none => (1000 * (telltaleKind kind).2.1, 1)

/-- The window that ends at this instant, as it is to be judged, and the start of the next one (R6, R415). The events counted
are those stamped before this instant. -/
def turnWindow (s : State) (kind i : Nat) : State :=
  let w := tellWindow s kind i
  let t := s.tell kind i
  let b := objectBusy s kind i
  let e := kind == 6 && queueExempt s i
  let m := totalProgress s kind i
  let c : TellEnd := { busy := t.busyAtStart && b, few := decide (m - t.marks < w.2), exempt := t.exempt || e,
                       stalled := kind == 6 && hostStalled s i }
  s.updTell kind i (fun t => { t with busyAtStart := b, paused := false, exempt := e, marks := m, closed := some c })

/-- TELLTALE_WINDOW_CLOSE (R415, R416, R418): the window that has ended is judged, once. -/
def windowCloseState (kind i : Nat) (s : State) : State :=
  match (s.tell kind i).closed with
  | none => s
  | some c =>
    let u := s.updTell kind i (fun t => { t with closed := none })
    if !c.busy || !c.few || c.exempt then u
    else if c.stalled then units u (fun u => logUnit u 4 0 6 i 0x0F (s.queueSail i) (some (s.queueCtx i)))
    else declareHang u kind i

def execTelltaleWindowClose (kind i : Nat) (s : State) : Out := rigCmd s (windowCloseState kind i)

/-- FW_BEAT (R419): firmware that runs and does not hang beats. -/
def fwBeatState (s : State) : State :=
  if mastheadWorks s then { s with ttl := { s.ttl with fwBeat := s.ttl.fwBeat + 1 } } else s

def execFwBeat (s : State) : Out := unitCmd s fwBeatState

end Sys2Proof.Machine
end

