-- ==== Sys2Proof/Machine/Losses.lean ====
section
/-! DEFINITION. Faults of links, channels, the masthead, host reads, islands and the power stage (R159, R179, R388, R409 to
R412, R419, R435, R450, R454, R460).
Choices of the model here: log entry 52 (DEDUCED), log entry 55 (DEDUCED). -/

namespace Sys2Proof.Machine

open Sys2Proof

/-! ### Channels and CXL ports (R410) -/

/-- CHANNEL_TRAINING_LOSS: one retraining; a loss that it does not mend, or that recurs within 1 s, is lasting. -/
def channelLossState (gddr : Bool) (chan : Nat) (retrained : Bool) (s : State) : State :=
  let t := if gddr then s.tiers.gchan else s.tiers.chan
  let x := t.get ChanRate.reset chan
  let k := if gddr then 10 else 9
  if x.fenced then s
  else
    let u := setChan s gddr chan (fun x => { x with lastLoss := some s.time })
    if !retrained || recurs s.time x.lastLoss then fenceLasting u k chan else logUnit u 1 0 k chan 0x09

/-- CXL_LINK_LOSS: one retraining and enumeration. -/
def cxlLossState (port : Nat) (retrained : Bool) (s : State) : State :=
  let x := s.cxl port
  if x.fenced then s
  else if !retrained || recurs s.time x.lastLoss then
    fenceLasting (setCxlRate s port (fun x => { x with lastLoss := some s.time, linkUp := false, up := false })) 6 port
  else logUnit (setCxlRate s port (fun x => { x with lastLoss := some s.time, linkUp := true, up := true })) 1 0 8 port 0x09

/-- CXL_VIRAL (R179): a port event, treated as a lasting fault of the port. -/
def cxlViralState (port : Nat) (s : State) : State := fenceLasting s 6 port

def execChannelTrainingLoss (gddr : Bool) (chan : Nat) (retrained : Bool) (s : State) : Out :=
  unitCmd s (channelLossState gddr chan retrained)
def execCxlLinkLoss (port : Nat) (retrained : Bool) (s : State) : Out := unitCmd s (cxlLossState port retrained)
def execCxlViral (port : Nat) (s : State) : Out := unitCmd s (cxlViralState port)

/-- HOST_LINK_DOWN (R410): logged and not fenced. -/
def hostDownState (port : Nat) (s : State) : State :=
  if hostUp s port then logUnit (setLink s port false) 1 0 14 port 0x09 else s

def execHostLinkDown (port : Nat) (s : State) : Out := unitCmd s (hostDownState port)

/-! ### Host reads (R412) -/

/-- The opcodes whose payload names a bus address that is read (R309). -/
def busOpcodes : List Nat := [0x10, 0x12, 0x16, 0x20, 0x24]

/-- HOST_READ_TIMEOUT: the read completes as failed. -/
def hostReadState (a : HostReadRef) (s : State) : State :=
  match a with
  | .command q n =>
    match s.cmd q n with
    | none => s
    | some c =>
      if c.phase == .started && busOpcodes.contains c.opcode && decide ((s.time - c.startAt).toNat ≥ 50000000) then
        complete s q n .faultTranslation
      else s
  | .dma cl eng k =>
    let e := 4 * cl + eng
    match (s.engine e).descs.find? (fun d => d.id == k) with
    | none => s
    | some d =>
      let f := dmaForm d.raw
      let u := { useOfCmd s d.from_.cmd.1 d.from_.cmd.2 with ctx := d.ctx }
      if d.phase == .running && (sidePieces f true).any (fun p => hostPiece s u .read p.1) then
        let x := writeSide u (s.memGen (descSail s d) != d.keyGen) s (sidePieces f false) (List.replicate f.len ((0, 2) : Marked))
        finishDesc x.1 e d .faultPoison x.2
      else s
  | .row y e k =>
    match openRow s y e k with
    | none => s
    | some (r, x) =>
      let u := reqUse s r.ctx r.q r.n
      if decide ((s.time - x.asked).toNat ≥ 50000000) && (readSpans (tableOf r.desc) x).any (fun p => hostPiece s u .read p.1) then
        let r' := setRow r k { x with arrived := true, poison := true }
        advanceLookup (s.updReq y r.id (fun _ => r')) y e r'
      else s
  | .request y id =>
    match s.yreq y id with
    | none => s
    | some r =>
      let u := reqUse s r.ctx r.q r.n
      let va := descVa (s.ctx r.ctx) (reqHdr r.record).table
      match r.phase with
      | .engine _ =>
        if r.desc.isEmpty && hostPiece s u .read va then
          failRequest (noteXlt s r.ctx va .faultPoison .read) y id .faultPoison
        else s
      | .action h i =>
        match (s.group h).actions.find? (fun a => a.idx == i && (a.st == .forwarded || a.st == .waitLock)) with
        | none => s
        | some a =>
          if hostPiece s u .read a.rowVa || (a.stateLpa != 0 && hostPiece s u .read a.stateVa) then
            failAction (noteXlt s r.ctx a.rowVa .faultPoison .read) h i (s.group h).coord id .faultPoison .other
          else s
      | _ => s

def execHostReadTimeout (a : HostReadRef) (s : State) : Out := unitCmd s (hostReadState a)

/-! ### The mesh and the islands -/

/-- The number of a mesh link in the error log: 8 × router + output. -/
def linkIndex (router : Nat) (dir : Dir) : Nat := 8 * router + dirNo dir

/-- DIE_LINK_LOSS (R159, R410): the lockstep of the mesh stops, and the chip step retrains the link. A link that is lost
again within 1 s of a chip step counts as a failure of that step; the second failure is FATAL. -/
def dieLinkState (router : Nat) (dir : Dir) (s : State) : State :=
  match linkEnd router dir with
  | none => s
  | some (_, _, d) =>
    if d != 7 || !s.rst.powered || !s.mesh.running then s
    else
      let again := s.ttl.steps.any (fun t => t.code == 4 && t.ended.isSome && recentStep s.time t)
      let fails := if again then s.ttl.chipFails + 1 else 0
      let s := units s (fun s => logUnit { s with ttl := { s.ttl with chipFails := fails }, mesh := { s.mesh with running := false } }
        1 4 11 (linkIndex router dir) 0x0C)
      if 2 ≤ fails then fatalStep s 0x0C else takeStep s 4 none none 0x0C

def execDieLinkLoss (router : Nat) (dir : Dir) (s : State) : Out := rigCmd s (dieLinkState router dir)

/-- UNDERVOLTAGE (R435): the island stops, UNDERVOLT is set, and the chip step follows for a core, a router or a yard, the
chip WARM step for any other island. -/
def undervoltState (i : Island) (s : State) : State :=
  if !s.rst.powered then s
  else
    let s := { s with pwr := { s.pwr with undervolt := true, stopped := s.pwr.stopped ++ [i] } }
    match i with
    | .other _ => takeStep s 5 none none 0x11
    | _ => takeStep s 4 none none 0x11

def execUndervoltage (i : Island) (s : State) : Out := rigCmd s (undervoltState i)

/-! ### The masthead (R410, R419, R420) -/

/-- Whether a fault falls within 1 s of a WARM. -/
def afterWarm (s : State) : Bool := recurs s.time s.ttl.warmAt

/-- MASTHEAD_FAULT: a hang is left to the host, which sees no heartbeat; an uncorrectable error in the memory of the
management core stops the firmware at once, asserts ALERT_N and takes the WARM, or within 1 s of one the power cycle. -/
def mastheadFaultState (memory : Bool) (s : State) : State :=
  if !s.rst.fwRun then s
  else if memory then
    let s := units s (fun s => logUnit s 2 (if afterWarm s then 6 else 5) 13 0 0x0D)
    let again := afterWarm s
    let s := { s with
      rst := { s.rst with fwRun := false, ready := false }
      pwr := { s.pwr with alertFw := true } }
    takeStep s (if again then 6 else 5) none none 0x0D
  else units s (fun s => logUnit { s with ttl := { s.ttl with fwHung := true } } 3 0 13 0 0x0D)

def execMastheadFault (memory : Bool) (s : State) : Out := rigCmd s (mastheadFaultState memory)

/-! ### Loss of power (R388, R450, R454, R460) -/

/-- The trip limit of a sensor in units of 0.01 °C (R448), by its number in TRM_THERM_SEL. -/
def tripLimit (sensor : Nat) : Int :=
  if sensor < 64 then 11500
  else if sensor < 96 then 11000
  else if sensor < 144 then 10500
  else if sensor < 152 then 11500
  else 12500

/-- What a module without power holds: what MRAM and the always-on cells keep. -/
def dark (s : State) : State :=
  let s := fullReset s true
  { s with rst := { s.rst with powered := false, seqs := [] }, pwr := { s.pwr with pwrGood := false, powerCycle := false } }

/-- THERM_TRIP: the rails are removed, and the next start finds no orderly self-test record. -/
def thermTripState (sensor : Nat) (temp : Int) (s : State) : State :=
  if !s.rst.powered || 156 ≤ sensor || temp < tripLimit sensor then s
  else
    let s := dark s
    { s with
      pwr := { s.pwr with thermTrip := true }
      rst := { s.rst with testRec := { s.rst.testRec with inProgress := true } } }

/-- POWER_LOSS: PWR_GOOD falls; the hold-up store records an input below turn-off. -/
def powerLossState (c : PowerLossCause) (s : State) : State :=
  if !s.rst.powered then s
  else
    let s := dark s
    match c with
    | .belowTurnOff => { s with pwr := { s.pwr with brownout := true } }
    | .railOut => s

/-- INPUT_OVERVOLTAGE: the input switch opens. -/
def overvoltState (s : State) : State :=
  let s := if s.rst.powered then dark s else s
  { s with pwr := { s.pwr with overvolt := true } }

/-- REVERSED_POLARITY: no rail rises, and the detector's own cell keeps the flag. -/
def reversedState (s : State) : State :=
  let s := if s.rst.powered then dark s else s
  { s with pwr := { s.pwr with reversed := true } }

def execThermTrip (sensor : Nat) (temp : Int) (s : State) : Out := sysCmd s (thermTripState sensor temp)
def execPowerLoss (c : PowerLossCause) (s : State) : Out := sysCmd s (powerLossState c)
def execInputOvervoltage (s : State) : Out := sysCmd s overvoltState
def execReversedPolarity (s : State) : Out := sysCmd s reversedState

end Sys2Proof.Machine
end

