-- ==== Sys2Proof/Machine/Power.lean ====
section
/-! DEFINITION. Power, clocks and heat (14): POWER_SAMPLE, DROOP_FLAG_SET, DROOP_FLAG_CLEAR, POINT_SWITCH, TRIM_INTERVAL,
THERMAL_READ, ENERGY_ATTRIBUTION.
Choices of the model here: log entry 56 (DEDUCED), log entry 58 (DESIGN CHOICE). -/

namespace Sys2Proof.Machine

open Sys2Proof

def State.updPwr (s : State) (f : PwrSt → PwrSt) : State := { s with pwr := f s.pwr }

def PwrSt.clk (x : PwrSt) (c : Nat) : ClkCluster := x.clusters.get ClkCluster.reset c
def PwrSt.setClk (x : PwrSt) (c : Nat) (v : ClkCluster) : PwrSt := { x with clusters := x.clusters.set ClkCluster.reset c v }
def PwrSt.trim (x : PwrSt) (sl : Nat) : TrimSail := x.sails.get TrimSail.reset sl
def PwrSt.thermOf (x : PwrSt) (i : Nat) : Therm := x.therm.get Therm.zero i

/-- The gate of a yard's engines for a sail, at key 64 × yard + sail. -/
def PwrSt.ygate (x : PwrSt) (k : Nat) : Nat := x.ygates.get 16 k

/-! ### The cap and the power stage (R440) -/

def clampCap (w : Nat) : Nat := max 600 (min 1800 w)

/-- The effective cap in W, with the thermal reduction of R449. -/
def capWatts (x : PwrSt) : Nat := max 600 (min (clampCap x.capHost.toNat) (clampCap x.capTray.toNat) - 50 * x.thermCut)

/-- Half a gate, rounded down but never below 1. -/
def halfGate (g : Nat) : Nat := max 1 (g / 2)

/-- The fast clamp: the gate of every cluster and yard engine is halved. -/
def fastClamp (x : PwrSt) (owned : List Nat) : PwrSt :=
  let y := (List.range 64).foldl (fun (x : PwrSt) c =>
    let k := x.clk c
    x.setClk c { k with gate := BitVec.ofNat 5 (halfGate k.gate.toNat) }) x
  { y with
    ygates := owned.foldl (fun t k => t.set 16 k (halfGate (x.ygate k))) y.ygates
    fastClamp := true
    clamped := true }

/-- The keys of yard engine gates: the yards in which a sail owns engines. -/
def yardKeys (s : State) : List Nat :=
  (activeSails s).flatMap (fun sl => ((List.range 16).filter (fun y =>
    (List.range 32).any (fun e => s.ownerAt (offLookup + 32 * y + e) == some sl) ||
    (List.range 8).any (fun e => s.ownerAt (offUpd + 8 * y + e) == some sl))).map (fun y => 64 * y + sl))

/-- Close the 1 ms window at its end (R6). -/
def closeMean (x : PwrSt) : PwrSt :=
  if x.windowCount = 0 then x
  else { x with mean := BitVec.ofNat 16 (x.windowSum / x.windowCount), windowSum := 0, windowCount := 0 }

/-- POWER_SAMPLE: one sample each µs, in units of 0.1 W and 10 mV. -/
def powerSampleState (dw cv : Nat) (s : State) : State :=
  if s.time.toNat % 1000 != 0 || s.pwr.sampleAt == some s.time || !s.pwr.pwrGood then s
  else
    let x := if s.time.toNat % 1000000 = 0 then closeMean s.pwr else s.pwr
    let l := (dw :: x.samples).take 10
    let full := l.length == 10
    let e := x.energySub + dw
    let x := { x with
      samples := l
      peak := if full then BitVec.ofNat 16 (max x.peak.toNat (l.sum / 10)) else x.peak
      windowSum := x.windowSum + dw
      windowCount := x.windowCount + 1
      energy := x.energy + BitVec.ofNat 64 (e / 10000)
      energySub := e % 10000
      inputVolt := cv
      sampleAt := some s.time }
    let x := if full && decide (l.sum > 110 * x.effective) && !x.clamped then fastClamp x (yardKeys s) else x
    { s with pwr := x }

def execPowerSample (dw cv : Nat) (s : State) : Out := unitCmd s (powerSampleState dw cv)

/-! ### Droop and points (R434, R436, R437) -/

def droops (x : PwrSt) (i : Island) : Bool := x.droop.any (fun d => d.1 == i)

/-- Whether the droop flag of some core island of a cluster is set. -/
def clusterDroops (x : PwrSt) (c : Nat) : Bool :=
  x.droop.any (fun d => match d.1 with
    | .core n _ => n == c
    | _ => false)

/-- The frequency of a point in MHz. -/
def pointMhz (p : Nat) : Nat := 2000 - 200 * p

/-- DROOP_FLAG_SET: the island's cycles are stretched from now on; a count of clear cycles starts again. -/
def droopSetState (i : Island) (s : State) : State :=
  if droops s.pwr i then s
  else s.updPwr (fun x =>
    let y := { x with droop := x.droop ++ [(i, s.time)] }
    match i with
    | .core c _ => y.setClk c { y.clk c with clearAt := none }
    | _ => y)

/-- DROOP_FLAG_CLEAR: the stretched core cycles are counted. -/
def droopClearState (i : Island) (s : State) : State :=
  match s.pwr.droop.find? (fun d => d.1 == i) with
  | none => s
  | some d => s.updPwr (fun x =>
      let y := { x with droop := x.droop.filter (fun t => t.1 != i) }
      match i with
      | .core c _ =>
        let k := y.clk c
        let cycles := (s.time - d.2).toNat * pointMhz k.point.toNat / 1500
        y.setClk c { k with
          stretch := k.stretch + BitVec.ofNat 64 cycles
          clearAt := if clusterDroops y c then none else some s.time }
      | _ => y)

/-- Whether a held switch may take place: 256 clear cycles have passed since the last flag cleared. -/
def clearLongEnough (k : ClkCluster) (now : Word) : Bool :=
  !k.held || (match k.clearAt with
    | none => true
    | some t => decide (256000 ≤ (now - t).toNat * pointMhz k.point.toNat))

/-- The level of a cluster's rail in mV: a ramp moves it by 2.5 mV each µs (R436). -/
def railMv (k : ClkCluster) (now : Word) : Nat :=
  match k.ramp with
  | none => Config.pointMv k.point.toNat
  | some r =>
    let d := (now - r.since).toNat / 400
    if r.from_ ≤ r.goal then min r.goal (r.from_ + d) else max r.goal (r.from_ - d)

/-- A switch to a higher frequency falls due once the rail has reached that point's voltage, one to a lower frequency at once
(R436). -/
def switchDue (k : ClkCluster) (now : Word) : Bool :=
  k.held || decide (k.point.toNat ≤ k.target.toNat) || decide (Config.pointMv k.target.toNat ≤ railMv k now)

/-- POINT_SWITCH: a due switch takes place, or is held by a droop flag; a switch down starts the ramp down. -/
def pointSwitchState (c : Nat) (s : State) : State :=
  let k := s.pwr.clk c
  if k.target = k.point || !switchDue k s.time then s
  else if clusterDroops s.pwr c then s.updPwr (fun x => x.setClk c { k with held := true, ramping := false })
  else if !clearLongEnough k s.time then s
  else s.updPwr (fun x => x.setClk c { k with
    point := k.target
    held := false
    ramping := false
    ramp := some { from_ := railMv k s.time, goal := Config.pointMv k.target.toNat, since := s.time } })

def execDroopFlagSet (i : Island) (s : State) : Out := unitCmd s (droopSetState i)
def execDroopFlagClear (i : Island) (s : State) : Out := unitCmd s (droopClearState i)
def execPointSwitch (c : Nat) (s : State) : Out := unitCmd s (pointSwitchState c)

/-- The trim controller orders a point of a cluster at time `now`; a new order replaces a held one, which stays held only while
the rail has the level of the new point. An order for a higher frequency ramps the rail up, any other takes a rail that stands
above the present point's voltage back down. -/
def orderPoint (x : PwrSt) (now : Word) (c p : Nat) : PwrSt :=
  let k := x.clk c
  let t := BitVec.ofNat 3 p
  if k.target = t then x
  else
    let up := decide (t.toNat < k.point.toNat)
    let goal := Config.pointMv (if up then t.toNat else k.point.toNat)
    x.setClk c { k with
      target := t
      held := k.held && t != k.point && decide (goal ≤ railMv k now)
      ramping := up && decide (railMv k now < goal)
      ramp := some { from_ := railMv k now, goal := goal, since := now } }

def setGate (x : PwrSt) (c g : Nat) : PwrSt := x.setClk c { x.clk c with gate := BitVec.ofNat 5 g }

/-! ### Phases and demand (R442) -/

/-- The ENTRY that a cluster runs: that of the RUN on its lowest core that holds a program. -/
def phaseOn (s : State) (c : Nat) : Option Nat :=
  (clusterCores c).findSome? (fun k => match s.prog k with
    | none => none
    | some p => (s.cmd p.q p.n).map (fun d => bytesOf d.raw 8 15 % 2 ^ 56))

/-- A phase that has not been measured: its first estimate is the largest per-cluster power of the part. -/
def Phase.fresh (entry : Nat) : Phase := { entry := entry, core := Config.maxPower 2, yard := 0, seen := 0 }

/-- E ← E + (m − E) / 4, with m scaled to point 2 and full gates. -/
def Phase.learn (p : Phase) (core yard point gate ygate : Nat) : Phase :=
  let a := core * 1000 * 16 / (max 1 (Config.pointPower point) * max 1 gate)
  let b := yard * 16 / max 1 ygate
  { p with core := (3 * p.core + a) / 4, yard := (3 * p.yard + b) / 4, seen := p.seen + 1 }

/-- Use an entry of the table of 64 phases: it becomes the most recently used one. -/
def usePhase (t : TrimSail) (entry : Nat) (f : Phase → Phase) : TrimSail :=
  let p := (t.phases.find? (fun p => p.entry == entry)).getD (Phase.fresh entry)
  let l := t.phases.filter (fun p => p.entry != entry)
  { t with phases := (if l.length ≥ 64 then l.drop 1 else l) ++ [f p] }

/-- The power of one cluster at a point and gates. -/
def Phase.at_ (p : Phase) (point g yg : Nat) : Nat :=
  if p.seen < 2 then Config.maxPower point * g / 16
  else p.core * Config.pointPower point * g / 16000 + p.yard * yg / 16

/-- The entry that stands for a cluster: that of its running phase, or the default entry. -/
def phaseFor (s : State) (t : TrimSail) (c : Nat) : Phase :=
  match phaseOn s c with
  | none => t.dflt
  | some e => (t.phases.find? (fun p => p.entry == e)).getD (Phase.fresh e)

/-- The demand of a sail at a point and gates, in units of 0.01 W. -/
def demand (s : State) (sl : Nat) (point g yg : Nat) : Nat :=
  ((s.sailClusters sl).map (fun c => (phaseFor s (s.pwr.trim sl) c).at_ point g yg)).sum

/-- Learn from the measured power of a cluster: its phase when it ran for the whole interval, else the default entry. -/
def learnCluster (s : State) (c core yard : Nat) : State :=
  match s.clusterSail c with
  | none => s
  | some sl =>
    let k := s.pwr.clk c
    let t := s.pwr.trim sl
    let f := fun (p : Phase) => p.learn core yard k.point.toNat k.gate.toNat t.ygate.toNat
    let t' := match phaseOn s c with
      | some e => if s.pwr.phaseAt.get 0 c = e + 1 then usePhase t e f else { t with dflt := f t.dflt }
      | none => { t with dflt := f t.dflt }
    s.updPwr (fun x => { x with sails := x.sails.set TrimSail.reset sl t' })

/-- Note what every cluster runs as an interval starts; phases that run are in use. -/
def markPhases (s : State) : State :=
  s.updPwr (fun x => { x with phaseAt := (List.range 64).filterMap (fun c => (phaseOn s c).map (fun e => (c, e + 1))) })

/-! ### The division (R438, R439, R443, R444, R449) -/

/-- What a sail is granted. -/
structure TrimGrant where
  sail : Nat
  conf : Bool
  top : Nat
  share : Nat
  point : Nat
  gate : Nat
  ygate : Nat
  d : Nat
deriving DecidableEq, Repr

/-- The mast of a cluster, and whether its hottest sensor lies at least 10 °C below its throttle limit. -/
def mastCool (x : PwrSt) (c : Nat) : Bool := (List.range 8).all (fun i => decide ((x.thermOf (8 * (c / 8) + i)).temp ≤ 9000))

/-- The highest point of a sail: that of its role, and none above 2 while a mast of it is warm. -/
def topPoint (s : State) (sl : Nat) (role : Nat) : Nat :=
  if role = 2 then 2 else if (s.sailClusters sl).all (mastCool s.pwr) then 0 else 2

/-- The gates of a role at point 5, from the largest down (R439): (core gate, yard engine gate). -/
def gateOrder (role : Nat) : List (Nat × Nat) :=
  let down := fun (hi lo : Nat) => (List.range (hi + 1 - lo)).map (fun i => hi - i)
  match role with
  | 1 => (down 16 4).map (fun y => (16, y)) ++ (down 15 1).map (fun g => (g, 4))
  | 2 => (down 16 1).map (fun g => (g, 16)) ++ (down 15 1).map (fun y => (1, y))
  | _ => (down 16 1).map (fun g => (g, g))

/-- Step 2 of R443. -/
def firstGrant (s : State) (sl : Nat) (d : SailDesc) (share : Nat) : TrimGrant :=
  let top := topPoint s sl d.role
  match ((List.range 6).filter (fun p => decide (top ≤ p))).find? (fun p => decide (demand s sl p 16 16 ≤ share)) with
  | some p => { sail := sl, conf := d.conf, top := top, share := share, point := p, gate := 16, ygate := 16, d := demand s sl p 16 16 }
  | none =>
    let o := gateOrder d.role
    let g := (o.find? (fun g => decide (demand s sl 5 g.1 g.2 ≤ share))).getD (o.getLastD (1, 1))
    { sail := sl, conf := d.conf, top := top, share := share, point := 5, gate := g.1, ygate := g.2, d := demand s sl 5 g.1 g.2 }

/-- The extra cost of one point more; none for a sail that cannot move. -/
def extraCost (s : State) (g : TrimGrant) : Option Nat :=
  if g.conf || g.point ≤ g.top then none else some (demand s g.sail (g.point - 1) 16 16 - g.d)

/-- The cheapest grant that fits: its cost and its sail. -/
def cheapest (s : State) (pool : Nat) (l : List TrimGrant) : Option (Nat × Nat) :=
  l.foldl (fun b g => match extraCost s g with
    | none => b
    | some x =>
      if x ≤ pool then
        match b with
        | none => some (x, g.sail)
        | some (y, i) => if x < y || (x == y && g.sail < i) then some (x, g.sail) else some (y, i)
      else b) none

/-- Step 4 of R443: grants in increasing cost, ties to the lower sail, until none fits. -/
def grantPoints (s : State) : Nat → Nat → List TrimGrant → List TrimGrant
  | 0, _, l => l
  | f + 1, pool, l =>
    match cheapest s pool l with
    | none => l
    | some (x, i) =>
      grantPoints s f (pool - x) (l.map (fun g => if g.sail = i then
        { g with point := g.point - 1, gate := 16, ygate := 16, d := demand s i (g.point - 1) 16 16 } else g))

/-- The division of P_div in units of 0.01 W. -/
def divide (s : State) (pdiv : Nat) : List TrimGrant :=
  let l := (activeRig s).sails
  let w := (l.map (fun p => p.2.trimWeight)).sum
  let first := l.map (fun p => firstGrant s p.1 p.2 (pdiv * p.2.trimWeight / max 1 w))
  let pool := ((first.filter (fun g => !g.conf)).map (fun g => g.share - g.d)).sum
  grantPoints s 384 pool first

/-- Points and gates that a hot mast takes off a cluster (R449): one point per interval, then 2 gates. -/
def mastLimit (n point gate : Nat) : Nat × Nat :=
  let p := min 5 (point + n)
  (p, max 1 (gate - 2 * (n - (p - point))))

/-- Give a sail what it is granted. -/
def applyGrant (s : State) (one : Bool) (g : TrimGrant) : State :=
  let gate := if one then 1 else g.gate
  let yg := if one then 1 else g.ygate
  let x := (s.sailClusters g.sail).foldl (fun (x : PwrSt) c =>
    let m := mastLimit (x.mastCut.get 0 (c / 8)) g.point gate
    setGate (orderPoint x s.time c m.1) c m.2) s.pwr
  let keys := (yardKeys s).filter (fun k => k % 64 == g.sail)
  let x := { x with
    ygates := keys.foldl (fun t k => t.set 16 k (max 1 (yg - 2 * x.yardCut.get 0 (k / 64)))) x.ygates }
  let t := { x.trim g.sail with
    share := BitVec.ofNat 16 (g.share / 10), demand := BitVec.ofNat 16 (g.d / 10), point := BitVec.ofNat 3 g.point,
    gate := BitVec.ofNat 5 gate, ygate := BitVec.ofNat 5 yg }
  { s with pwr := { x with sails := x.sails.set TrimSail.reset g.sail t, capLimited := x.capLimited || decide (2 < g.point) } }

/-! ### Heat (R448, R449) -/

/-- The throttle limit of a sensor in units of 0.01 °C. -/
def throttleLimit (i : Nat) : Int :=
  if i < 64 then 10000
  else if i < 144 then 9500
  else if i < 152 then 10000
  else 11500

/-- The yards whose engines reach the place of a sensor: a yard's own, its DRAM, or every yard for a GDDR7 device. -/
def sensorYards (i : Nat) : List Nat :=
  if 64 ≤ i && i < 96 then [(i - 64) / 2]
  else if 96 ≤ i && i < 128 then [(i - 96) / 2]
  else if 128 ≤ i && i < 144 then List.range 16
  else []

/-- The sensors that throttle. -/
def hotSensors (x : PwrSt) : List Nat := (x.therm.filter (fun t => t.2.hot)).map (·.1)

/-- One more throttling step for each mast, yard and for the cap, as the hot sensors ask; none where no sensor asks. -/
def throttleSteps (x : PwrSt) : PwrSt :=
  let l := hotSensors x
  let step := fun (t : Tbl Nat) (n : Nat) (asks : Nat → Bool) =>
    ((List.range n).filter asks).map (fun i => (i, t.get 0 i + 1))
  { x with
    mastCut := step x.mastCut 8 (fun m => l.any (fun i => i < 64 && i / 8 == m))
    yardCut := step x.yardCut 16 (fun y => l.any (fun i => (sensorYards i).contains y))
    thermCut := if l.any (fun i => decide (144 ≤ i)) then min 24 (x.thermCut + 1) else 0 }

/-- Take a reading of a sensor. -/
def Therm.read (t : Therm) (limit temp : Int) (first : Bool) : Therm :=
  { temp := temp, max := if first then temp else Max.max t.max temp, throttle := decide (limit ≤ temp),
    hot := decide (limit ≤ temp) || (t.hot && decide (limit - 300 < temp)) }

/-- The channels of a DRAM core die or of a GDDR7 device: refresh is doubled from 85 °C on (R137, R177). -/
def refreshRate (s : State) (i : Nat) (temp : Int) : State :=
  let hot := decide (8500 ≤ temp)
  if 96 ≤ i && i < 128 then (List.range 4).foldl (fun s c => setChan s false (4 * (i - 96) + c) (fun x => { x with hot := hot })) s
  else if 128 ≤ i && i < 144 then
    (List.range 4).foldl (fun s c => setChan s true (4 * (i - 128) + c) (fun x => { x with hot := hot })) s
  else s

/-- THERMAL_READ: each sensor's reading. -/
def thermalReadState (l : List (Nat × Int)) (s : State) : State :=
  (l.filter (fun p => decide (p.1 < 156))).foldl (fun s p =>
    let first := (Tbl.look s.pwr.therm p.1).isNone
    let t := (s.pwr.thermOf p.1).read (throttleLimit p.1) p.2 first
    let s := refreshRate (s.updPwr (fun x => { x with therm := x.therm.set Therm.zero p.1 t })) p.1 p.2
    if t.throttle then alert (s.updPwr (fun x => { x with thermThrottle := true })) 2 else s) s

def execThermalRead (l : List (Nat × Int)) (s : State) : Out := unitCmd s (thermalReadState l)

/-! ### TRIM_INTERVAL -/

/-- The fast clamp ends at the next interval (R440): every gate stands at 16 until a sail's grant sets it. -/
def fullGates (x : PwrSt) : PwrSt :=
  if x.clamped then
    { (List.range 64).foldl (fun (x : PwrSt) c => setGate x c 16) x with ygates := [] }
  else x

/-- TRIM_INTERVAL (R440 to R444, R449): every 100 µs the trim controller learns, divides and orders. -/
def trimState (m : TrimMeasure) (s : State) : State :=
  if s.time.toNat % 100000 != 0 || s.pwr.trimAt == some s.time || !s.rst.fwRun then s
  else
    let present := activeSails s
    let s := s.updPwr (fun x => { x with sails := x.sails.filter (fun t => present.contains t.1) })
    let s := m.clusters.foldl (fun s c => learnCluster s c.1 c.2.1 c.2.2) s
    let s := s.updPwr throttleSteps
    let cap := capWatts s.pwr
    let pdiv := 98 * cap - 10 * m.fixed
    let least := (present.map (fun sl => demand s sl 5 1 1)).sum
    let unmet := decide (100 * cap < 10 * m.fixed + least)
    let one := unmet || (s.pwr.holdOne && decide (10 * cap < m.input))
    let s := s.updPwr fullGates
    let s := (divide s pdiv).foldl (fun s g => applyGrant s one g) s
    let s := s.updPwr (fun x => { x with
      effective := cap, fixed := BitVec.ofNat 16 m.fixed, clamped := false, holdOne := one, trimAt := some s.time,
      capUnmet := x.capUnmet || unmet })
    markPhases (if unmet then alert s 3 else s)

def execTrimInterval (m : TrimMeasure) (s : State) : Out := unitCmd s (trimState m)

/-! ### Energy (R445) -/

/-- Add energy in nJ to a context, its remainder below 1 µJ included. -/
def chargeCtx (s : State) (c nj : Nat) : State := s.updCtx c (fun x => { x with energyNj := x.energyNj + nj })

def chargeSail (s : State) (sl nj : Nat) : State := s.updSail sl (fun x => { x with energyNj := x.energyNj + nj })

/-- The fixed energy goes to the present sails in proportion to the clusters they own. -/
def chargeFixed (s : State) (nj : Nat) : State :=
  let l := activeSails s
  let n := (l.map (fun sl => (s.sailClusters sl).length)).sum
  l.foldl (fun s sl => chargeSail s sl (nj * (s.sailClusters sl).length / max 1 n)) s

def chargeItem (s : State) : EnergyItem → State
  | .command q n nj =>
    let c := s.queueCtx q
    match s.cmd q n, s.ctxSail c with
    | some k, some sl =>
      let s := if k.isCompleted then s else s.updCmd q n (fun k => { k with energyNj := k.energyNj + nj })
      chargeSail (chargeCtx s c nj) sl nj
    | _, _ => s
  | .context c nj =>
    match s.ctxSail c with
    | none => s
    | some sl => chargeSail (chargeCtx s c nj) sl nj
  | .sail sl nj => if (s.desc sl).isSome then chargeSail s sl nj else s
  | .fixed nj => chargeFixed s nj

def energyState (l : List EnergyItem) (s : State) : State := l.foldl chargeItem s

def execEnergyAttribution (l : List EnergyItem) (s : State) : Out := unitCmd s (energyState l)

end Sys2Proof.Machine
end

