-- ==== Sys2Proof/Machine/Fabric.lean ====
section
/-! DEFINITION. Fabric-manager messages (R223, R224, R254, R255, R257, R259 to R261).
Choices of the model here: log entry 11 (DESIGN CHOICE), log entry 31 (DESIGN CHOICE), log entry 34 (DESIGN
CHOICE). -/

namespace Sys2Proof.Machine

open Sys2Proof

/-- Take a message of the fabric manager on a port that carries its lease: for this device (R217, R223), and after FM_ASSIGN only from
the node that it named (R259). -/
def fromManager (s : State) (h : FmHdr) (k : State) : State :=
  if !manages s h.port then s
  else if !forUs s h.dst || (s.ryu.assigned && h.src != s.ryu.manager) then bumpMisroute s
  else k

/-- A message of the manager is acknowledged by its ARG (R259, FM_ACK). -/
def fmAcked (s : State) (h : FmHdr) : State := sendFm s (.ack h.arg)

/-- FM_ASSIGN (R10, R223, R259, R260): the node, which is never 0xFFFF, its domain and its manager; before any sail has run the counter
may be set. The device announces itself. -/
def fmAssignState (h : FmHdr) (node domain manager : Nat) (time : Option Word) (s : State) : State :=
  fromManager s h
    (if 0xFFFF ≤ node then s else
     let s1 := { s with ryu := { s.ryu with node := node, domain := domain, manager := manager, assigned := true } }
     let s2 := match time with
       | none => s1
       | some t => if s.ryu.ran then s1 else { s1 with time := t }
     fmAcked (sendFm s2 .hello) h)

/-- Write the route entries of `count` nodes (R224). -/
def setRoutes (s : State) (first count : Nat) (mask : BitVec 32) (hops : Nat) : State :=
  if 1 ≤ hops && hops ≤ 8 then
    let r : Route := { mask := mask, hops := hops }
    let none_ : Route := { mask := 0, hops := 0 }
    { s with ryu := { s.ryu with
        routes := (List.range (min count 65535)).foldl (fun t i => t.set none_ (first + i) r) s.ryu.routes } }
  else s

/-- FM_ROUTE (R224). -/
def fmRouteState (h : FmHdr) (first count : Nat) (mask : BitVec 32) (hops : Nat) (s : State) : State :=
  fromManager s h (fmAcked (setRoutes s first count mask hops) h)

/-- FM_TIME (R260): the counter's next step is held or doubled, at most once per 10,000 steps. The stamp of the frame's arrival goes
back on the port, with that of the answer's own departure. -/
def fmTimeState (h : FmHdr) (adjust : FmTime) (s : State) : State :=
  fromManager s h
    (let s1 := sendFm s (.time h.port s.time)
     if (s.time - s.ryu.slewAt).toNat < 10000 then s1
     else match adjust with
       | .none => s1
       | .hold => { s1 with ryu := { s1.ryu with slewAt := s.time, slew := .hold } }
       | .advance => { s1 with ryu := { s1.ryu with slewAt := s.time, slew := .advance } })

/-- Run a message that changes neither the queue of commands nor the rig, but may adjust the counter. -/
def timeCmd (s : State) (f : State → State) : Out := .next { f s with pending := s.pending, rig := s.rig }

def execFmAssign (h : FmHdr) (node domain manager : Nat) (time : Option Word) (s : State) : Out :=
  timeCmd s (fmAssignState h node domain manager time)
def execFmRoute (h : FmHdr) (first count : Nat) (mask : BitVec 32) (hops : Nat) (s : State) : Out :=
  unitCmd s (fmRouteState h first count mask hops)
/-- FM_TIME as a row; `sent` is the stamp at which the manager sent it, which the manager alone uses (R260). -/
def execFmTime (h : FmHdr) (_sent : Word) (adjust : FmTime) (s : State) : Out := unitCmd s (fmTimeState h adjust)

/-- FM_ACK: the message that this device has sent under the ARG is acknowledged (R259). -/
def fmAckState (h : FmHdr) (arg : Word) (s : State) : State :=
  fromManager s h
    { s with ryu := { s.ryu with fmOut := s.ryu.fmOut.filter (fun m => !(m.sent && m.arg == arg)) } }

def execFmAck (h : FmHdr) (arg : Word) (s : State) : Out := unitCmd s (fmAckState h arg)

/-! ### Resolution of a cleat (R254, R255) -/

/-- Whether a party has accepted an epoch, or holds or executes at it: a freeze at that epoch refuses nothing (R254). -/
def Cleat.settled (r : Cleat) (epoch : BitVec 32) : Bool :=
  decide (epoch.toNat ≤ r.epoch.toNat) && r.st != .copying && r.st != .refused

/-- A receiver that has not accepted records REFUSED (R254): in its record, or in a new one; beside the record of a party at a lower
epoch the refusal stands alone. -/
def recordRefused (s : State) (id : Word) (epoch : BitVec 32) : State :=
  let s1 := { s with ryu := { s.ryu with refusals := (id, epoch) :: s.ryu.refusals.filter (fun x => x != (id, epoch)) } }
  match s.cleat id false with
  | some r =>
    if r.settled epoch then s
    else if r.st == .copying || r.st == .refused then putCleat s1 ({ r with epoch := epoch }.enter .refused s.time) else s1
  | none => if s.ryu.cleats.length < 4096 then putCleat s1 (Cleat.blank id epoch .refused 64 s.time) else s1

/-- FM_FREEZE (R254): a receiver that has not accepted records REFUSED; the party reports its record, and the anchor the other. -/
def fmFreezeState (h : FmHdr) (id : Word) (epoch : BitVec 32) (s : State) : State :=
  fromManager s h
    (let s1 := recordRefused s id epoch
     let l := (s1.cleat id false).toList ++ (s1.cleat id true).toList
     fmAcked (if l.isEmpty then sendFm s1 (.record id none) else l.foldl (fun s r => sendFm s (.record id (some r))) s1) h)

/-- What a ruling does to the record of a party that is not the anchor: a receiver that it names holds the state and runs phase 2, a
releaser holds it again, and a mirror is promoted and runs the phases since the commit again (R255, R256). -/
def ruleParty (s : State) (r : Cleat) (x : Ruling) : State :=
  match x.kind with
  | .owner =>
    if x.node = s.ryu.node then
      let held := { r with epoch := x.epoch, committed := true }.enter .held s.time
      match r.st with
      | .refused => dropCleat s r.id false
      | .copying => dropCleat s r.id false
      | .mirror =>
        let p := { held with replayed := true }
        phase2 (putCleat s p) p
      | .accepted => runPhase (putCleat s held) held 2
      | _ => putCleat s held
    else if r.st == .mirror then putCleat s { r with epoch := x.epoch }
    else dropCleat s r.id false
  | .restart => dropCleat s r.id false
  | .lost => dropCleat s r.id false

/-- What a ruling does to the anchor's record (R255, R256). OWNER that names the mirror promotes it. -/
def ruleAnchor (s : State) (t : Cleat) (x : Ruling) : State :=
  match x.kind with
  | .owner =>
    let promoted := t.mirrored && x.node == t.mirrorNode && t.owner != t.mirrorNode
    putCleat s { t with epoch := x.epoch, owner := x.node, replayed := t.replayed || promoted, at_ := s.time }
  | .restart =>
    let t' := { t with epoch := x.epoch, owner := x.node, replayed := true, committed := false, at_ := s.time }
    startPhase1 (putCleat s t') t'
  | .lost => endDispatch s t .stateLost

/-- FM_RULING: a ruling below the epoch of a record has no part in it (R252). -/
def fmRulingState (h : FmHdr) (x : Ruling) (s : State) : State :=
  fromManager s h
    (let s := { s with ryu := { s.ryu with rulings := satInc s.ryu.rulings } }
     let s := match s.cleat x.id false with
       | none => s
       | some r => if x.epoch.toNat < r.epoch.toNat then s else ruleParty s r x
     let s := match s.cleat x.id true with
       | none => s
       | some t => if x.epoch.toNat < t.epoch.toNat then s else ruleAnchor s t x
     fmAcked s h)

/-- FM_PLACE (R259): the node placed for phase 1 or the mirror of a dispatch, or for phase 2 at its owner. -/
def fmPlaceState (h : FmHdr) (p : Placement) (s : State) : State :=
  fromManager s h
    (let s := fmAcked s h
     match p.role with
     | .phase2 =>
       match s.cleat p.id false with
       | some r => if r.st == .held && r.job.isNone then phase2At s r p.node else s
       | none => s
     | .phase1 =>
       match s.cleat p.id true with
       | some t => if t.owner = 0xFFFF then
           let t' := { t with owner := p.node }
           startPhase1 (putCleat s t') t'
         else s
       | none => s
     | .mirror =>
       match s.cleat p.id true with
       | some t => if t.mirrored && t.mirrorNode = 0xFFFF then
           let t' := { t with mirrorNode := p.node }
           startPhase1 (putCleat s t') t'
         else s
       | none => s)

/-- A node is DOWN (R256, R257, R261): every operation to it ends, the records of its cleats are freed, and the
owner of a state whose mirror it was goes on without. -/
def nodeDown (s : State) (node : Nat) : State :=
  let s := endOps s (fun o => o.node == node) .remoteUnreachable
  let s := { s with ryu := { s.ryu with
    cleats := s.ryu.cleats.filter (fun r => r.anchor || anchorOf r.id != node || node == s.ryu.node) } }
  s.ryu.cleats.foldl (fun s r =>
    if r.mirrored && r.mirrorNode = node && r.st != .mirror then loseMirror s r else s) s

/-- FM_PEER_STATE (R261). -/
def fmPeerState (h : FmHdr) (node : Nat) (st : PeerState) (_sails : List Nat) (s : State) : State :=
  fromManager s h
    (let s := { s with ryu := { s.ryu with peers := s.ryu.peers.set PeerState.up node st } }
     fmAcked (if st == .down then nodeDown s node else s) h)

def execFmFreeze (h : FmHdr) (id : Word) (epoch : BitVec 32) (s : State) : Out := unitCmd s (fmFreezeState h id epoch)
def execFmRuling (h : FmHdr) (r : Ruling) (s : State) : Out := unitCmd s (fmRulingState h r)
def execFmPlace (h : FmHdr) (p : Placement) (s : State) : Out := unitCmd s (fmPlaceState h p)
def execFmPeerState (h : FmHdr) (node : Nat) (st : PeerState) (sails : List Nat) (s : State) : Out :=
  unitCmd s (fun s => fmPeerState h node st sails s)

end Sys2Proof.Machine
end

