-- ==== Sys2Proof/Machine/RyuRx.lean ====
section
/-! DEFINITION. The receiving side of the Ryurun links (R214 to R222): frames by slot, their checks, their messages, and what a block
slot of a port does.
Choices of the model here: log entry 7 (DESIGN CHOICE), log entry 29 (DESIGN CHOICE), log entry 30 (DESIGN
CHOICE). -/

namespace Sys2Proof.Machine

open Sys2Proof

/-! ### Messages (R215, R218, R230) -/

/-- The class of an operation (R219, R230); none for a reserved code. -/
def opClass (op : Nat) : Option Nat :=
  if [0x01, 0x02, 0x10, 0x11, 0x60, 0x62].contains op then some 0
  else if op = 0x20 || op = 0x61 then some 1
  else if 0x30 ≤ op && op ≤ 0x38 then some 2
  else if op = 0x40 then some 3
  else if 0x50 ≤ op && op ≤ 0x5B then some 4
  else none

/-- Operations whose messages carry a tag (R215). -/
def tagged (op : Nat) : Bool := [0x01, 0x02, 0x10, 0x20, 0x60, 0x61, 0x62].contains op

/-- The fields of a frame header that stand for the whole message (R215). -/
def headMsg (h : List Byte) : RyuMsg :=
  let a := leNat (h.take 8)
  let b := leNat ((h.drop 8).take 8)
  let d := leNat ((h.drop 24).take 4)
  { src := a / 2 ^ 48, dst := a / 2 ^ 32 % 2 ^ 16, lease := b / 2 ^ 32 % 16, tc := a / 2 ^ 13 % 8, enc := a.testBit 19, tagOk := false,
    poison := [], tag := b / 2 ^ 8 % 2 ^ 15, tepoch := BitVec.ofNat 8 (b / 2 ^ 23), keyGen := BitVec.ofNat 16 (b / 2 ^ 40),
    rKeyGen := BitVec.ofNat 16 (d / 2 ^ 16), xlen := BitVec.ofNat 8 (b / 2 ^ 56), arg := BitVec.ofNat 64 (leNat ((h.drop 16).take 8)),
    win := d % 2 ^ 16, payload := [] }

/-- Whether two frames are of one message (R215). -/
def sameMsg (op : Nat) (a b : RyuMsg) : Bool :=
  a.tc == b.tc && a.src == b.src &&
    (if tagged op then a.tag == b.tag && a.tepoch == b.tepoch else a.win == b.win && a.arg == b.arg)

/-- The key slot that a frame resolves to (R218). The CLEAT_ID of a cleat message stands in its encrypted payload, so its WIN decides. -/
def frameSlot (s : State) (op : Nat) (m : RyuMsg) (sl : Nat) : KeySlot :=
  if op = 0x20 || op = 0x61 then tagSlot s m.tag sl
  else if op = 0x40 then ingSlot s m.win sl
  else winSlot s m.win sl

/-- The plaintext of an encrypted frame, if its tag verifies (R218): the AAD is the header without SEQ, LEASE and CRC, the crypto block
the last one. -/
def openFrame (k : KeySlot) (h : List Byte) (r : List (List Byte)) : Option (List Byte) :=
  let ct := r.dropLast.flatten
  let crypto := r.getLastD []
  let iv := ivOf (BitVec.ofNat 32 (leNat ((crypto.drop 24).take 4))) (BitVec.ofNat 64 (leNat ((crypto.drop 16).take 8)))
  let a := leNat (h.take 4)
  let b := leNat ((h.drop 8).take 8)
  let aad := leBytes 4 (a % 2 ^ 20) ++ (h.drop 4).take 4 ++ leBytes 8 (b - b / 2 ^ 32 % 16 * 2 ^ 32) ++ (h.drop 16).take 12
  if k.st != .empty && !r.isEmpty && fitTo 16 (Config.gcmTag k.linkKey iv aad ct) == crypto.take 16 then
    some (fitTo ct.length (Config.gcmOpen k.linkKey iv aad ct))
  else none

/-! ### Delivery -/

/-- A cleat message from its frames (R250). -/
def cleatMsg (port : Nat) (m : RyuMsg) : CleatMsg :=
  let w := fun (i : Nat) => leNat ((m.payload.drop (8 * i)).take 8)
  { port := port, src := m.src, dst := m.dst, lease := m.lease, enc := m.enc, tagOk := m.tagOk, keyGen := m.keyGen,
    id := BitVec.ofNat 64 (w 0), epoch := m.arg.setWidth 32, win := m.win, stateAddr := BitVec.ofNat 64 (w 1),
    stateLen := BitVec.ofNat 64 (w 2), mirror := w 3 % 2 ^ 16 }

/-- The effect of a cleat message by its code and subcode (R250). -/
def deliverCleat (op sub : Nat) (m : CleatMsg) (s : State) : State :=
  match op with
  | 0x30 => ph1State m s
  | 0x31 => mirrorPutState m s
  | 0x32 => mirrorAckState m s
  | 0x33 => commitState m s
  | 0x34 => commitAckState m s
  | 0x35 => offerState m s
  | 0x36 => acceptState m s
  | 0x37 => if sub = 0 then ackState m s else declineState m s
  | 0x38 => if sub = 0 then staleState m s else retireState m s
  | _ => s

/-- The effect of a message of the manager (R259), whose payload holds what the table lists, in its order. -/
def deliverFm (port op : Nat) (m : RyuMsg) (s : State) : State :=
  let h : FmHdr := { port := port, src := m.src, dst := m.dst, arg := m.arg }
  let f := fun (o n : Nat) => leNat ((m.payload.drop o).take n)
  let id := BitVec.ofNat 64 (f 0 8)
  match op with
  | 0x51 => fmAssignState h (f 0 2) (f 2 2) (f 4 2) (if f 6 2 = 0 then none else some (BitVec.ofNat 64 (f 8 8))) s
  | 0x52 => fromManager s h (fmAcked ((List.range (m.payload.length / 16)).foldl (fun s i =>
      if f (16 * i + 2) 2 = 0 then s
      else setRoutes s (f (16 * i) 2) (f (16 * i + 2) 2) (BitVec.ofNat 32 (f (16 * i + 4) 4)) (f (16 * i + 8) 8)) s) h)
  | 0x53 => fmTimeState h (if f 0 8 = 1 then .hold else if f 0 8 = 2 then .advance else .none) s
  | 0x55 => fmFreezeState h id (BitVec.ofNat 32 (f 8 4)) s
  | 0x57 => fmRulingState h { id := id, kind := if f 8 2 = 1 then .owner else if f 8 2 = 2 then .restart else .lost, node := f 10 2,
                              epoch := BitVec.ofNat 32 (f 12 4) } s
  | 0x58 => fmPlaceState h { id := id, role := if f 8 4 = 1 then .phase1 else if f 8 4 = 2 then .phase2 else .mirror, node := f 12 4 } s
  | 0x5A => fmPeerState h (f 0 4) (if f 4 4 = 0 then .up else if f 4 4 = 1 then .recovering else .down) [] s
  | 0x5B => fmAckState h h.arg s
  | _ => bumpMisroute s

/-- The effect of a whole message at this device. -/
def deliverMsg (port op : Nat) (m : RyuMsg) (s : State) : State :=
  match op with
  | 0x01 => rdState port m s
  | 0x02 => wrState port m s
  | 0x11 => hintState port m s
  | 0x20 => respState port m s
  | 0x40 => ingState port m s
  | 0x60 => impOpenState port m s
  | 0x61 => impAckState port m s
  | 0x62 => impCloseState port m s
  | _ => if op < 0x40 then deliverCleat op (m.arg.toNat / 2 ^ 32 % 4) (cleatMsg port m) s else deliverFm port op m s

/-- A message of this device to itself takes no port (R250). -/
def deliverOwn (s : State) (o : OutMsg) : State :=
  let m : RyuMsg := { src := o.dst, dst := o.dst, lease := o.lease, tc := o.tc, enc := true, tagOk := true, poison := [], tag := o.tag,
                      tepoch := o.tepoch, keyGen := o.keyGen, rKeyGen := o.rKeyGen, xlen := o.xlen, arg := o.arg, win := o.win,
                      payload := o.payload }
  deliverCleat o.op (o.arg.toNat / 2 ^ 32 % 4) (cleatMsg 32 m) s

/-- The messages of this device to itself are taken. -/
def serveOwn (s : State) : State :=
  let own := s.ryu.outbox.filter (fun m => m.port == 32)
  if own.isEmpty then s
  else own.foldl deliverOwn { s with ryu := { s.ryu with outbox := s.ryu.outbox.filter (fun m => m.port != 32) } }

/-! ### Frames (R215 to R220) -/

/-- A good frame joins its message; its blocks return to the sender when they are passed on, those of a LKUP's last frame when it is
served (R220). -/
def addFrame (s : State) (p op : Nat) (m : RyuMsg) (first last : Bool) (owe : Option (Nat × Nat)) : State :=
  let x := s.port p
  let old := x.asm.find? (fun a => a.op == op && sameMsg op a.msg m)
  let rest := x.asm.filter (fun a => !(a.op == op && sameMsg op a.msg m))
  let whole : Option RyuMsg := if first then some m else old.map (fun a =>
    { a.msg with payload := a.msg.payload ++ m.payload, poison := a.msg.poison ++ m.poison })
  match whole with
  | none => oweBlocks s p owe
  | some w =>
    let keep : List RxAsm := if last then rest else rest ++ [{ op := op, msg := w }]
    let s := s.setPort p { x with asm := keep }
    if !last then oweBlocks s p owe
    else if op = 0x10 then lkupTake p w owe s
    else deliverMsg p op w (oweBlocks s p owe)

/-- A frame that has come whole and in order (R217, R218): what is not for this device, of a reserved code, or on another lease than its
own is dropped and counted, and so is what does not verify. -/
def takeFrame (s : State) (p : Nat) (f : RxPart) (h : List Byte) (r : List (List Byte)) : State :=
  let a := leNat (h.take 8)
  let op := leNat ((h.drop 8).take 1)
  let m := headMsg h
  let owe := if m.tc < 3 || (m.tc = 4 && f.lease = 15) then some (8 * f.lease + m.tc, f.len) else none
  let drop := fun (s : State) => oweBlocks s p owe
  let good := fun (data : List Byte) =>
    addFrame s p op { m with tagOk := m.enc, payload := data, poison := List.replicate (data.length / 32) (a.testBit 18) } (a.testBit 16)
      (a.testBit 17) owe
  if !forUs s m.dst || opClass op != some m.tc || (m.tc = 4) != (f.lease = 15) || m.lease != f.lease then drop (bumpMisroute s)
  else if f.lease = 15 then good r.flatten
  else match leaseSail s p f.lease with
    | none => drop (bumpMisroute s)
    | some sl =>
      if m.enc then
        match openFrame (frameSlot s op m sl) h r with
        | none => drop (bumpAuth s)
        | some data => good data
      else if op = 0x40 then good r.flatten
      else drop (bumpAuth s)

/-! ### Blocks (R214, R216, R222) -/

/-- Give up the frames in progress from sequence number `q` on, and ask for them again. -/
def discardFrom (x : RyuPort) (q : BitVec 12) : RyuPort :=
  { x with part := x.part.filter (fun f => !upTo f.seq q), rxSeq := q, nakDue := true }

/-- Pass on the frames that are whole, in order; one with a bad CRC is given up with all that follow. -/
def passFrames : Nat → State → Nat → State
  | 0, s, _ => s
  | n + 1, s, p =>
    let x := s.port p
    match x.part with
    | [] => s
    | f :: t =>
      if f.blocks.length < f.len then s
      else
        match f.blocks with
        | [] => s.setPort p { x with part := t }
        | h :: r =>
          if leNat ((h.drop 28).take 4) == (crc32 (h.take 28 ++ r.flatten)).toNat then
            passFrames n (takeFrame (s.setPort p { x with part := t }) p f h r) p
          else s.setPort p { (discardFrom x f.seq) with crc := satInc x.crc }

/-- A frame header begins a frame of its lease when its SEQ is the one expected next. A LEN above 17 is no frame's: it has failed. -/
def takeHeader (s : State) (p lease : Nat) (l : List Byte) : State :=
  let x := s.port p
  let w := leNat (l.take 4)
  let seq := BitVec.ofNat 12 (w / 2 ^ 20)
  let len := w / 2 ^ 8 % 32
  let f : RxPart := { lease := lease, seq := seq, len := len + 1, blocks := [l] }
  match x.part.find? (fun g => g.lease == lease && decide (g.blocks.length < g.len)) with
  | some g => s.setPort p (discardFrom x g.seq)
  | none =>
    if seq != x.rxSeq then s
    else if 17 < len then s.setPort p { x with nakDue := true, crc := satInc x.crc }
    else passFrames 64 (s.setPort p { x with part := x.part ++ [f], rxSeq := x.rxSeq + 1 }) p

/-- A data block continues the frame in progress of its lease. -/
def takeData (s : State) (p lease : Nat) (l : List Byte) : State :=
  let x := s.port p
  match x.part.findIdx? (fun g => g.lease == lease && decide (g.blocks.length < g.len)) with
  | none => s
  | some i => passFrames 64 (s.setPort p { x with part := x.part.modify i (fun g => { g with blocks := g.blocks ++ [l] }) }) p

/-- A control block other than a frame header. -/
def takeControl (s : State) (p : Nat) (l : List Byte) : State :=
  let ok := leNat ((l.drop 28).take 4) == (crc32 (fitTo 28 l)).toNat
  let count := s.updPort p (fun x => { x with crc := satInc x.crc })
  if !ok then count
  else match (l.headD 0).toNat with
    | 2 => linkState p (parseLink l) s
    | 3 => s
    | 4 => identState p (leNat ((l.drop 1).take 2)) (leNat ((l.drop 3).take 1)) (BitVec.ofNat 32 (leNat ((l.drop 4).take 4))) s
    | _ => count

/-- A header in a slot that the schedule gives to no lease (R217): the frame is counted, and its place in the sequence is past. -/
def strayHeader (s : State) (p : Nat) (l : List Byte) : State :=
  let seq := BitVec.ofNat 12 (leNat (l.take 4) / 2 ^ 20)
  (bumpMisroute s).updPort p (fun x => if seq = x.rxSeq then { x with rxSeq := x.rxSeq + 1 } else x)

/-- One slot of the receive direction. The slot count moves on, but for a LINK block with the period mark, which has set it. -/
def rxState (p : Nat) (rx : Option RxBlock) (s : State) : State :=
  let slot := (s.port p).rxSlot
  let next := fun (s : State) => s.updPort p (fun x => { x with rxSlot := (slot + 1) % 256 })
  match rx with
  | none => next s
  | some b =>
    let l := fitTo 32 b.bytes
    if b.control && l.headD 0 != 1 then
      let marks := l.headD 0 == 2 && (parseLink l).crcOk && (parseLink l).pmark
      if marks then takeControl s p l else next (takeControl s p l)
    else match slotLease s p slot with
      | none => next (if b.control then strayHeader s p l else s)
      | some lease => next (if b.control then takeHeader s p lease l else takeData s p lease l)

/-- BLOCK_SLOT (R212 to R222): a block slot passes in each direction of a trained port. -/
def blockSlotState (p : Nat) (rx : Option RxBlock) (s : State) : State :=
  if (s.port p).trained && !(s.port p).fenced then rxState p rx (txState p s) else s

def execBlockSlot (p : Nat) (rx : Option RxBlock) (s : State) : Out := timeCmd s (blockSlotState p rx)

/-- The lookups that wait in ports are looked at again (R232). -/
def serveLkups (s : State) : State := s.ryu.ports.foldl (fun s p => retryLkups s p.1) s

/-- UNCORRECTABLE_CODEWORD (R216): with `fec` the 20 slots of a codeword are lost, with every frame that had a block
in it; without, the oldest frame in progress fails its CRC. -/
def codewordState (p : Nat) (fec : Bool) (s : State) : State :=
  let x := s.port p
  if !x.trained then s
  else if fec then
    let slots := (List.range 20).map (fun i => (x.rxSlot + i) % 256)
    let hit := x.part.find? (fun f => slots.any (fun i => slotLease s p i == some f.lease))
    let y := match hit with
      | none => { x with nakDue := true }
      | some f => discardFrom x f.seq
    s.setPort p { y with uncorr := satInc x.uncorr, rxSlot := (x.rxSlot + 20) % 256 }
  else
    let y := match x.part with
      | [] => { x with nakDue := true }
      | f :: _ => discardFrom x f.seq
    s.setPort p { y with crc := satInc x.crc }

def execUncorrectableCodeword (p : Nat) (fec : Bool) (s : State) : Out := unitCmd s (codewordState p fec)

end Sys2Proof.Machine
end

