-- ==== Sys2Proof/Machine/Clock.lean ====
section
/-! DEFINITION. What one nanosecond of the global time counter does (R5, R6): the cycles of the cores (R59, R88), the ends of the
windows of telltales and of the counters of confidential sails (R374, R415, R417), requests for reports that waited (R367), errors
in memories (R410).
Choices of the model here: log entry 1 (DESIGN CHOICE), log entry 17 (DEDUCED), log entry 52 (DEDUCED), log
entry 54 (DEDUCED), log entry 64 (DESIGN CHOICE). -/

namespace Sys2Proof.Machine

open Sys2Proof

/-! ### Core cycles -/

/-- The 3,000ths of a core cycle that pass in 1 ns on a logical core: its point's frequency, two thirds of it while its island
droops (R434), none while it stands still (R435). -/
def coreSpeed (s : State) (k : Nat) : Nat :=
  match physOf s (k / 34) (k % 34) with
  | none => 0
  | some p =>
    let i : Island := .core (k / 34) (p % 36)
    let f := pointMhz (s.pwr.clk (k / 34)).point.toNat
    if s.pwr.stopped.contains i then 0 else if droops s.pwr i then 2 * f else 3 * f

/-- The cycles that a nanosecond adds to a resident program: every one counts in CYCLE (R59), and towards the 32,768 of R88 unless the
program stands at a yield point. -/
def coreTick (s : State) (k : Nat) (x : CoreSlot) : CoreSlot :=
  match x.prog with
  | none => x
  | some p =>
    let t := x.phase + coreSpeed s k
    let n := t / 3000
    { x with
      phase := t % 3000
      prog := some { p with
        cycle := p.cycle + BitVec.ofNat 64 n
        yieldCount := if atYieldPoint s k p then 0 else p.yieldCount + n } }

def tickCores (s : State) : State := { s with cores := s.cores.map (fun x => (x.1, coreTick s x.1 x.2)) }

/-! ### Windows -/

/-- Every object that has a telltale (R414). -/
def tellObjects : List (Nat × Nat) :=
  (List.range 9).flatMap (fun k => (List.range (telltaleKind k).1).map (fun i => (k, i)))

/-- A µs during which the work of an object waits only under timers of its own is one progress event (R417). -/
def tickTimed (s : State) : State :=
  tellObjects.foldl (fun s o =>
    let w := objectTimed s o.1 o.2
    if w || (s.tell o.1 o.2).waited then
      s.updTell o.1 o.2 (fun t => { t with progress := t.progress + (if w && t.waited then 1 else 0), waited := w })
    else s) s

/-- The windows whose length divides the time end; one is held open while a lower retry runs, and ends when that ends (R415, R417). -/
def tickWindows (s : State) : State :=
  tellObjects.foldl (fun s o =>
    if s.time.toNat % (tellWindow s o.1 o.2).1 != 0 then s
    else if retryRuns s o.1 o.2 then s.updTell o.1 o.2 (fun t => { t with paused := true })
    else turnWindow s o.1 o.2) s

/-- A window that a retry held open ends with it (R417). -/
def tickPaused (s : State) : State :=
  (s.ttl.tells.filter (fun t => t.2.paused)).foldl (fun s t =>
    if retryRuns s (t.1 / 8192) (t.1 % 8192) then s else turnWindow s (t.1 / 8192) (t.1 % 8192)) s

/-- At the end of a 1 ms window the counters of the confidential sails are held (R374). -/
def tickConf (s : State) : State :=
  { s with sails := s.sails.map (fun x => (x.1, { x.2 with
      energyHeld := BitVec.ofNat 64 (x.2.energyNj / 1000), coreTimeHeld := sailCoreTime s x.1 })) }

/-! ### Memory errors (R55, R174, R178, R410) -/

/-- Object kind and index in the error log (R407) of the memory that holds a key: a DRAM channel, a GDDR7 channel, a CXL port, or
an SRAM by the physical core or 4,096 more than the cluster of a cluster buffer. -/
def upsetObject (k : Nat) : Option (Nat × Nat) :=
  if 2 ^ 48 ≤ k then (if k < spadKey 2304 then some (12, (k - 2 ^ 48) / 2 ^ 19) else none)
  else match regionOf k with
    | some (.dram c) => some (9, c)
    | some (.gddr c) => some (10, c)
    | some (.far g) => some (8, g / 2048)
    | some (.cbuf n) => some (12, 4096 + n)
    | some (.host p) => some (14, p)
    | _ => none

/-- A corrected error is logged, and when a unit exceeds 4,096 in one 1 s window, that once more (R410). -/
def noteCorrected (s : State) (o : Nat × Nat) (k : Nat) : State :=
  let key := 65536 * o.1 + o.2
  let n := s.ttl.corrected.get 0 key + 1
  let s := logUnit { s with ttl := { s.ttl with corrected := s.ttl.corrected.set 0 key n } } 0 0 o.1 o.2 0 none none k
  if n = 4097 then logUnit s 0 0 o.1 o.2 0x07 else s

/-- A granule becomes poisoned; in GDDR7 the poison pattern takes the place of its stored bytes (R178). -/
def spoil (s : State) (k : Nat) : State :=
  let g := k / granule k * granule k
  let s := setPoison s g true
  match regionOf k with
  | some (.gddr _) => loseSpan s g 64
  | _ => s

/-- A retry of a controller or of a CXL link layer pauses the access timers of its channel or port (R199, R412). -/
def pauseTimers (s : State) (k : Nat) : State :=
  let o := upsetObject k
  let d := BitVec.ofNat 64 (Config.retryNs s.free % (if (o.map (·.1)) == some 8 then 4001 else 2001))
  let later := fun (key : Option Nat) (w : Word) => if (key.bind upsetObject) == o then w + d else w
  { s with
    free := s.free + 1
    yards := s.yards.map (fun p => (p.1, { p.2 with reqs := p.2.reqs.map (fun r =>
      { r with rows := r.rows.map (fun x => { x with asked := later (rowKey s r x) x.asked }) }) }))
    ctxs := s.ctxs.map (fun c => (c.1, { c.2 with migs := c.2.migs.map (fun m =>
      { m with at_ := later (match pageAt s m.range m.page with
        | .key k => some k
        | _ => none) m.at_ }) })) }

/-- An error in a memory: corrected, mended by the retry of R410, or lasting, which poisons the granule. A completion of a host
port that carries the poisoned indication is of the last kind (R186). -/
def memoryError (s : State) (u : Config.Upset) : State :=
  match u with
  | .corrected k => match upsetObject k with
    | none => s
    | some o => noteCorrected s o k
  | .retried k => match upsetObject k with
    | none => s
    | some o => pauseTimers (logUnit s 1 0 o.1 o.2 0x08 none none k) k
  | .lasting k => match upsetObject k with
    | none => s
    | some o => spoil (logUnit s 2 0 o.1 o.2 0x08 none none k) k

def tickUpset (s : State) : State :=
  let t := { s with free := s.free + 1 }
  match Config.upset s.free with
  | none => t
  | some u => memoryError t u

/-! ### One nanosecond -/

/-- What the Ryurun port, the cleat engine and a sail step do by themselves. -/
def tickFabric (s : State) : State := pumpCleats (serveOwn (serveLkups (endSailSteps s)))

/-- One step of the counter (R5): an event that its new value stamps belongs to the window that begins with it (R6). -/
def countStep (s : State) : State :=
  let s := { s with time := s.time + 1 }
  let s := tickPaused (if s.time.toNat % 1000 = 0 then tickWindows (tickTimed s) else s)
  let s := if s.time.toNat % 1000000 = 0 then tickConf s else s
  if s.time.toNat % 1000000000 = 0 then { s with ttl := { s.ttl with corrected := [] } } else s

/-- The passing of one nanosecond: the counter advances by one, or as FM_TIME asked for by none or two (R260). -/
def tickState (s : State) : State :=
  let slew := s.ryu.slew
  let s := tickFabric (tickCores { s with ryu := { s.ryu with slew := .none } })
  let s := match slew with
    | .none => countStep s
    | .hold => s
    | .advance => countStep (countStep s)
  tickUpset (if s.rst.fwRun then serveReports s else s)

end Sys2Proof.Machine
end

