-- ==== Sys2Proof/Machine/SmBus.lean ====
section
/-! DEFINITION. The sideband and the module (15): the SMBus commands of R458, SMBUS_TIMEOUT, SIDEBAND_FAULT, and the cages:
CABLE_PRESENCE, PORT_TRAIN_ATTEMPT, CAGE_SHORT.
Choices of the model here: log entry 57 (DEDUCED), log entry 58 (DESIGN CHOICE). -/

namespace Sys2Proof.Machine

open Sys2Proof

/-! ### Transactions (R457) -/

/-- Whether the target answers: from step 1 of bring-up until PWR_GOOD falls. -/
def smbusAnswers (s : State) : Bool := s.rst.powered && s.pwr.pwrGood && decide (1 ≤ s.rst.step)

/-- Run a transaction: one whose packet error check fails is acknowledged and discarded. `f` gives the state and the bytes
that are read. -/
def smbusRun (pec : Bool) (f : State → State × List Byte) (s : State) : State :=
  if !smbusAnswers s then s.updPwr (fun x => { x with smbusAck := false, smbusOut := [] })
  else if !pec then s.updPwr (fun x => { x with smbusAck := true, smbusOut := [] })
  else
    let r := f s
    r.1.updPwr (fun x => { x with smbusAck := true, smbusOut := r.2 })

/-- A read that changes nothing else. -/
def smbusRead (pec : Bool) (f : State → List Byte) : State → State := smbusRun pec (fun s => (s, f s))

/-- A write. -/
def smbusWrite (pec : Bool) (f : State → State) : State → State := smbusRun pec (fun s => (f s, []))

def bitAt (b : Bool) (i : Nat) : Nat := if b then 2 ^ i else 0

/-! ### The commands (R458) -/

/-- The STATUS word. -/
def statusWord (s : State) : Nat :=
  let x := s.pwr
  bitAt s.rst.ready 0 + bitAt s.rst.offReady 1 + bitAt x.thermThrottle 2 + bitAt x.capUnmet 3 + bitAt x.powerCycle 4 +
    bitAt x.fatal 5 + bitAt (x.reversed || x.overvolt || x.brownout) 6 + bitAt x.sbShort 7

/-- Whether ALERT_N is asserted. -/
def alertN (s : State) : Bool := s.pwr.alertCause != 0 || s.pwr.alertOff || s.pwr.alertFw

/-- PWR_INPUT_FAULT bits [7:0]. -/
def inputFaultByte (x : PwrSt) : Nat :=
  bitAt x.reversed 0 + bitAt x.overvolt 1 + bitAt x.brownout 2 + bitAt x.sbShort 3 + 16 * x.sbPin.toNat

/-- Clear the bits of PWR_INPUT_FAULT that a write carries. -/
def clearInputFault (x : PwrSt) (v : Nat) : PwrSt :=
  { x with
    reversed := x.reversed && !v.testBit 0, overvolt := x.overvolt && !v.testBit 1, brownout := x.brownout && !v.testBit 2,
    sbShort := x.sbShort && !v.testBit 3 }

/-- The highest reading of a die sensor: masts, yards, DRAM core dies, I/O dies and the masthead. -/
def hottest (x : PwrSt) : Int :=
  let l := (x.therm.filter (fun t => t.1 < 128 || (144 ≤ t.1 && t.1 < 152))).map (fun t => t.2.temp)
  match l with
  | [] => 0
  | a :: t => t.foldl max a

/-- The bytes of IDENT: part code, HWREV, ROMVER, FWVER, 0, bytes 0 to 23 of UNIT_ID. -/
def identBytes (s : State) : List Byte :=
  leBytes 2 0x0064 ++ leBytes 1 0xB1 ++ leBytes 1 0x23 ++ leBytes 2 s.rst.fwVer.toNat ++ leBytes 2 0 ++ leBytes 24 s.sec.unitId.toNat

/-- Reading STATUS clears the assertion of ALERT_N that OFF_READY has made. -/
def statusState (pec : Bool) : State → State :=
  smbusRun pec (fun s => (s.updPwr (fun x => { x with alertOff := false }), leBytes 2 (statusWord s)))

def alertCauseState (pec : Bool) : State → State := smbusRead pec (fun s => leBytes 2 s.pwr.alertCause.toNat)
def alertClearState (pec : Bool) (v : BitVec 16) : State → State :=
  smbusWrite pec (fun s => s.updPwr (fun x => { x with alertCause := x.alertCause &&& ~~~ v }))

/-- TRAY_CAP: a write sets PWR_CAP_TRAY.WATTS, clamped. -/
def trayCapState (pec : Bool) (w : Option (BitVec 16)) : State → State :=
  match w with
  | none => smbusRead pec (fun s => leBytes 2 s.pwr.capTray.toNat)
  | some v => smbusWrite pec (fun s => s.updPwr (fun x => { x with capTray := BitVec.ofNat 11 (clampCap v.toNat) }))

def inputPowerState (pec : Bool) : State → State := smbusRead pec (fun s => leBytes 2 s.pwr.mean.toNat)
def inputVoltageState (pec : Bool) : State → State := smbusRead pec (fun s => leBytes 2 s.pwr.inputVolt)
def hottestState (pec : Bool) : State → State :=
  smbusRead pec (fun s => leBytes 2 (BitVec.ofInt 16 (hottest s.pwr)).toNat)

/-- PORT_MODE: held in MRAM, in force from the next COLD reset on (R288). -/
def portModeState (pec : Bool) (w : Option Byte) : State → State :=
  match w with
  | none => smbusRead pec (fun s => leBytes 1 s.pwr.portMode.toNat)
  | some v => smbusWrite pec (fun s => s.updPwr (fun x => { x with portMode := v &&& 0x0F }))

/-- SHUTDOWN: 0xA5 acts as RST_SHUTDOWN.GO (R459). -/
def shutdownState (pec : Bool) (v : Byte) : State → State := smbusWrite pec (fun s => if v = 0xA5 then goShutdown s else s)

def smbusIdentState (pec : Bool) : State → State := smbusRead pec identBytes
def inputFaultState (pec : Bool) : State → State := smbusRead pec (fun s => leBytes 2 (inputFaultByte s.pwr))
def inputFaultClearState (pec : Bool) (v : BitVec 16) : State → State :=
  smbusWrite pec (fun s => s.updPwr (fun x => clearInputFault x v.toNat))

def execStatus (pec : Bool) (s : State) : Out := unitCmd s (statusState pec)
def execAlertCause (pec : Bool) (s : State) : Out := unitCmd s (alertCauseState pec)
def execAlertCauseClear (pec : Bool) (v : BitVec 16) (s : State) : Out := unitCmd s (alertClearState pec v)
def execTrayCap (pec : Bool) (w : Option (BitVec 16)) (s : State) : Out := unitCmd s (trayCapState pec w)
def execInputPower (pec : Bool) (s : State) : Out := unitCmd s (inputPowerState pec)
def execInputVoltage (pec : Bool) (s : State) : Out := unitCmd s (inputVoltageState pec)
def execHottest (pec : Bool) (s : State) : Out := unitCmd s (hottestState pec)
def execPortMode (pec : Bool) (w : Option Byte) (s : State) : Out := unitCmd s (portModeState pec w)
def execShutdown (pec : Bool) (v : Byte) (s : State) : Out := unitCmd s (shutdownState pec v)
def execSmbusIdent (pec : Bool) (s : State) : Out := unitCmd s (smbusIdentState pec)
def execInputFault (pec : Bool) (s : State) : Out := unitCmd s (inputFaultState pec)
def execInputFaultClear (pec : Bool) (v : BitVec 16) (s : State) : Out := unitCmd s (inputFaultClearState pec v)

/-! ### Sideband faults (R460) -/

/-- Record a sideband fault by its contact number. -/
def noteSideband (s : State) (pin : Nat) : State :=
  alert (s.updPwr (fun x => { x with sbShort := true, sbPin := BitVec.ofNat 4 (pin - 1) })) 7

/-- SMBUS_TIMEOUT: the target releases both lines and resets its interface. -/
def smbusTimeoutState (pin : Nat) (s : State) : State :=
  if !smbusAnswers s then s else (noteSideband s pin).updPwr (fun x => { x with smbusAck := false, smbusOut := [] })

/-- SIDEBAND_FAULT: recorded; the device runs on. -/
def sidebandFaultState (pin : Nat) (s : State) : State := if s.rst.powered then noteSideband s pin else s

def execSmbusTimeout (pin : Nat) (s : State) : Out := unitCmd s (smbusTimeoutState pin)
def execSidebandFault (pin : Nat) (s : State) : Out := unitCmd s (sidebandFaultState pin)

/-! ### Cages (R452, R460) -/

def supplyBit (x : PwrSt) (p : Nat) : Bool := x.supplyOff.getLsbD p

/-- CABLE_PRESENCE: a cable is plugged or unplugged; a removal lets a tripped supply be switched on again. -/
def cableState (p : Nat) (present : Bool) (s : State) : State :=
  let s := s.updPort p (fun x => { x with cable := present })
  if present then s else s.updPwr (fun x => { x with supplyOff := x.supplyOff &&& ~~~ ((1 : BitVec 32) <<< p) })

/-- PORT_TRAIN_ATTEMPT: a port that is not trained, with a cable present and its supply on, attempts training once per
second; a failure is neither logged nor a fence. -/
def trainAttemptState (p : Nat) (t : Option TrainResult) (s : State) : State :=
  let x := s.port p
  let due := match x.lastTry with
    | none => true
    | some a => decide ((s.time - a).toNat ≥ 1000000000)
  if x.trained || x.fenced || !x.cable || supplyBit s.pwr p || !due then s
  else
    let s := s.updPort p (fun x => { x with lastTry := some s.time })
    match t with
    | none => s
    | some r => portTrainingState p r s

/-- CAGE_SHORT: the supply is switched off until the cable is next removed; the port is not trained. -/
def cageShortState (p : Nat) (s : State) : State :=
  let s := s.updPort p (fun x => { x with trained := false, up := false })
  s.updPwr (fun x => { x with fabShort := x.fabShort ||| ((1 : BitVec 32) <<< p), supplyOff := x.supplyOff ||| ((1 : BitVec 32) <<< p) })

def execCablePresence (p : Nat) (present : Bool) (s : State) : Out := unitCmd s (cableState p present)
def execPortTrainAttempt (p : Nat) (t : Option TrainResult) (s : State) : Out := unitCmd s (trainAttemptState p t)
def execCageShort (p : Nat) (s : State) : Out := unitCmd s (cageShortState p)

end Sys2Proof.Machine
end

