-- ==== Sys2Proof/Machine/RegWrite.lean ====
section
/-! DEFINITION. REGISTER_WRITE (R2, R293 to R297): writes to fields without a row of their own. A write that a row of its own
stands for (a doorbell, a command register, a clear of counters) is that row's command and changes nothing here.
Choices of the model here: log entry 39 (DEDUCED), log entry 58 (DESIGN CHOICE). -/

namespace Sys2Proof.Machine

open Sys2Proof

/-! ### Accesses (R2, R293) -/

/-- A write to a 64-bit register: its value in place, and the bits that it reaches. -/
structure RegW where
  v : Word
  m : Word
deriving DecidableEq, Repr

/-- The register that an access reaches; none for an access that is wider, narrower or misaligned. -/
def regAccess (off width : Nat) (v : Word) : Option (Nat × RegW) :=
  if width = 8 && off % 8 == 0 then some (off, { v := v, m := BitVec.allOnes 64 })
  else if width = 4 && off % 4 == 0 then
    let lo := (v.extractLsb' 0 32).zeroExtend 64
    let m : Word := 0xFFFFFFFF
    if off % 8 = 0 then some (off, { v := lo, m := m }) else some (off - 4, { v := lo <<< 32, m := m <<< 32 })
  else none

/-- An RW field at bit `lo`. -/
def RegW.field {n : Nat} (w : RegW) (lo : Nat) (old : BitVec n) : BitVec n :=
  (((old.zeroExtend 64 <<< lo) &&& ~~~w.m) ||| (w.v &&& w.m)).extractLsb' lo n

/-- An RW field of `n` bits at bit `lo` that the state holds as a number. -/
def RegW.nat (w : RegW) (lo n old : Nat) : Nat := (w.field lo (BitVec.ofNat n old)).toNat

/-- An RW bit. -/
def RegW.flag (w : RegW) (i : Nat) (old : Bool) : Bool := if w.m.getLsbD i then w.v.getLsbD i else old

/-- Whether a write carries a 1 in a bit: what a W1C bit looks at. -/
def RegW.one (w : RegW) (i : Nat) : Bool := (w.v &&& w.m).getLsbD i

/-- A W1C bit. -/
def RegW.clear (w : RegW) (i : Nat) (old : Bool) : Bool := old && !w.one i

/-- An aligned address field: bits [hi:lo] of the register, held with its low bits. -/
def RegW.addr (w : RegW) (lo n old : Nat) : Nat := 2 ^ lo * w.nat lo n (old / 2 ^ lo)

/-! ### Context blocks -/

/-- A context block's fields (02, 03, 04, 06). -/
def ctxWrite (x : Ctx) (off : Nat) (w : RegW) : Ctx :=
  match off with
  | 0x0F0 => { x with arith := x.arith &&& ~~~ ((w.v &&& w.m).extractLsb' 0 5) }
  | 0x100 =>
    if w.one 44 then { x with cf := Ctx.empty.cf } else { x with cf := { x.cf with more := w.clear 45 x.cf.more } }
  | 0x120 => { x with tblBase := BitVec.ofNat 56 (w.addr 6 50 x.tblBase.toNat) }
  | 0x128 => { x with tblCount := BitVec.ofNat 13 (min 4096 (w.field 0 x.tblCount).toNat) }
  | 0x158 => if w.one 63 then { x with xf := Ctx.empty.xf } else { x with xf := { x.xf with more := w.clear 62 x.xf.more } }
  | _ => x

/-! ### Queue blocks (R302, R305) -/

/-- The base and configuration registers of a queue accept writes while it is IDLE. -/
def queueWrite (x : Queue) (off : Nat) (w : RegW) : Queue :=
  if x.st != .idle then x
  else match off with
    | 0x000 => { x with sqBase := w.addr 12 34 x.sqBase }
    | 0x008 => { x with cqBase := w.addr 12 34 x.cqBase }
    | 0x010 => { x with
        ctx := w.nat 0 11 x.ctx, log2 := w.nat 11 5 x.log2, vector := w.nat 16 11 x.vector, irqAll := w.flag 27 x.irqAll }
    | _ => x

/-- A write to the block of queue `q`. -/
def writeQueueReg (s : State) (fn : HostFn) (q off : Nat) (w : RegW) : State :=
  match s.queueSail q with
  | none => s
  | some sl => if s.reaches fn sl then s.updQueue q (fun x => queueWrite x off w) else s

/-- A write to the block of context `c`. -/
def writeCtxReg (s : State) (fn : HostFn) (c off : Nat) (w : RegW) : State :=
  match s.ctxSail c with
  | none => s
  | some sl => if s.reaches fn sl then s.updCtx c (fun x => ctxWrite x off w) else s

/-! ### Sail blocks (09, 10) -/

/-- SAIL_BATCH: ignored while a sequence slot is held, but for CHUNK and STEPMAX; clamped. At ENABLE the estimates and the step number
start at 0 (R340, R342). -/
def batchWrite (x : Sail) (w : RegW) : Sail :=
  let ch := w.field 0 x.chunk
  let st := w.field 8 x.stepMax
  let c := w.field 16 x.bCtx
  let f := w.field 27 x.bCoreFirst
  let n := w.field 39 x.bCoreCount
  let e := w.flag 51 x.bEnable
  if !x.seqs.isEmpty && !(c == x.bCtx && f == x.bCoreFirst && n == x.bCoreCount && e == x.bEnable) then x
  else
    let x := if e && !x.bEnable then { x with ec := 0, et := 0, stepNo := 0 } else x
    { x with
    chunk := BitVec.ofNat 8 (max 1 (min 64 ch.toNat)), stepMax := BitVec.ofNat 8 (max 2 (min 255 st.toNat)), bCtx := c,
    bCoreFirst := f, bCoreCount := n, bEnable := e }

/-- A sail block's own fields. -/
def sailWrite (x : Sail) (off : Nat) (w : RegW) : Sail :=
  match off with
  | 0x010 => { x with ctxDesc := w.addr 6 40 x.ctxDesc }
  | 0x020 => { x with ignored := w.clear 1 x.ignored }
  | 0x040 => { x with semSel := w.field 0 x.semSel }
  | 0x080 => { x with quantum := max 50 (min 100000 (w.nat 0 20 x.quantum)) }
  | 0x088 => batchWrite x w
  | 0x090 => { x with entry := w.field 0 x.entry }
  | 0x098 => { x with fbEntry := w.field 0 x.fbEntry }
  | 0x0A0 => { x with listBase := w.field 0 x.listBase }
  | 0x0B0 => { x with
      evDegraded := w.clear 0 x.evDegraded, evRestored := w.clear 1 x.evRestored, evFallback := w.clear 2 x.evFallback,
      evVector := w.field 16 x.evVector, evIrq := w.flag 27 x.evIrq, evPort := w.flag 28 x.evPort }
  | 0x0B8 => { x with reefSel := w.field 0 x.reefSel }
  | _ => x

/-- SAIL_VIEW_SEL of a function for a sail (R297). -/
def viewOf (s : State) (fn : HostFn) (sl : Nat) : BitVec 64 :=
  ((s.hif.viewSel.find? (fun v => v.1 == (fn, sl))).map (·.2)).getD 0

def setView (s : State) (fn : HostFn) (sl : Nat) (v : BitVec 64) : State :=
  { s with hif := { s.hif with viewSel := s.hif.viewSel.filter (fun x => x.1 != (fn, sl)) ++ [((fn, sl), v)] } }

/-- A write to the block of a sail, its views included. -/
def writeSailReg (s : State) (fn : HostFn) (sl off : Nat) (w : RegW) : State :=
  let view := viewOf s fn sl
  let c := (view.extractLsb' 0 11).toNat
  let q := (view.extractLsb' 16 13).toNat
  if !s.reaches fn sl then s
  else if off = 0x0E0 then setView s fn sl (w.field 0 view &&& 0x1FFF07FF)
  else if off < 0x1000 then s.updSail sl (fun x => sailWrite x off w)
  else if 0x2000 ≤ off && off < 0x2400 then
    if s.ctxSail c == some sl then writeCtxReg s fn c (off - 0x2000) w else s
  else if 0x3000 ≤ off && off < 0x4000 then
    if s.queueSail q == some sl then writeQueueReg s fn q (off - 0x3000) w else s
  else s

/-! ### The blocks of a physical function -/

/-- SEC and LCS (11). `port` is that of the writing function. -/
def writeSec (s : State) (port off : Nat) (w : RegW) : State :=
  match off with
  | 0x028 => s.updSec (fun x =>
      let a := fun (old : BitVec 46) => BitVec.ofNat 46 (w.addr 6 40 old.toNat)
      { x with reqAddr := if port = 0 then x.reqAddr.set 0 (a x.reqAddr[0]) else x.reqAddr.set 1 (a x.reqAddr[1]) })
  | 0x038 => s.updSec (fun x => { x with lcsIgnored := w.clear 1 x.lcsIgnored })
  | 0x050 => s.updSec (fun x => { x with slotSel := w.field 0 x.slotSel })
  | _ => s

/-- RST (12). -/
def writeRst (s : State) (off : Nat) (w : RegW) : State :=
  match off with
  | 0x020 => s.updRst (fun x => { x with short := w.field 0 x.short, bandCount := w.field 16 x.bandCount })
  | 0x028 => s.updRst (fun x => { x with sdIgnored := w.clear 1 x.sdIgnored })
  | 0x030 => s.updRst (fun x => { x with blkKind := w.field 0 x.blkKind, blkIndex := w.field 16 x.blkIndex })
  | 0x040 => s.updRst (fun x => { x with blkIgnored := w.clear 2 x.blkIgnored })
  | _ => s

/-- CLK and PWR (14, 15). -/
def writeClk (s : State) (off : Nat) (w : RegW) : State :=
  match off with
  | 0x000 => s.updPwr (fun x => { x with clkSel := w.field 0 x.clkSel })
  | _ => s

def writePwr (s : State) (off : Nat) (w : RegW) : State :=
  match off with
  | 0x000 => s.updPwr (fun x => { x with capHost := w.field 0 x.capHost })
  | 0x020 => s.updPwr (fun x => { x with
      capLimited := w.clear 0 x.capLimited, capUnmet := w.clear 1 x.capUnmet, fastClamp := w.clear 2 x.fastClamp,
      thermThrottle := w.clear 3 x.thermThrottle, undervolt := w.flag 4 x.undervolt })
  | 0x028 => s.updPwr (fun x =>
      let y := clearInputFault x ((w.v &&& w.m).toNat % 16)
      { y with fabShort := y.fabShort &&& ~~~ ((w.v &&& w.m).extractLsb' 32 32) })
  | _ => s

/-- RIG (08). -/
def writeRig (s : State) (port off : Nat) (w : RegW) : State :=
  match off with
  | 0x000 => s.updRig (fun r => { r with ignored := w.clear 7 r.ignored, done := w.clear 8 r.done })
  | 0x008 =>
    let a := fun (old : Word) => BitVec.ofNat 64 (w.addr 6 58 old.toNat)
    s.updRig (fun r => { r with
      loadAddr := if port = 0 then r.loadAddr.set 0 (a r.loadAddr[0]) else r.loadAddr.set 1 (a r.loadAddr[1]) })
  | 0x010 => s.updRig (fun r => { r with
      loadLen := if port = 0 then r.loadLen.set 0 (w.field 0 r.loadLen[0]) else r.loadLen.set 1 (w.field 0 r.loadLen[1]) })
  | 0x060 => s.updRig (fun r => { r with
      quiesce := BitVec.ofNat 32 (max 1000 (min 10000000 (w.field 0 r.quiesce).toNat)) })
  | _ => s

/-- Clear the CHANGED bit of a channel's rate. -/
def clearChanged (t : Tbl ChanRate) (c : Nat) : Tbl ChanRate := t.upd ChanRate.reset c (fun x => { x with changed := false })

/-- The YRD block of a yard (04). -/
def writeYrd (s : State) (y off : Nat) (w : RegW) : State :=
  if 0x040 ≤ off && off < 0x080 then
    if w.one 18 then { s with tiers := { s.tiers with chan := clearChanged s.tiers.chan (8 * y + (off - 0x040) / 8) } } else s
  else if off = 0x100 then s.updYard y (fun x => { x with sailSel := w.field 0 x.sailSel })
  else s

/-- The MEM block (06). -/
def writeMem (s : State) (off : Nat) (w : RegW) : State :=
  if off = 0x040 || off = 0x048 then
    if w.one 33 then s.setCxl ((off - 0x040) / 8) { s.cxl ((off - 0x040) / 8) with changed := false } else s
  else if 0x100 ≤ off && off < 0x300 then
    if w.one 18 then { s with tiers := { s.tiers with gchan := clearChanged s.tiers.gchan ((off - 0x100) / 8) } } else s
  else s

/-- The consumed count of the sample ring: never below its last value, never above what was produced. -/
def consOk (t : TtlSt) (v : Word) : Bool := decide (t.sampleCons.toNat ≤ v.toNat) && decide (v.toNat ≤ t.sampleProd.toNat)

/-- The TTL block (13). -/
def writeTtl (s : State) (off : Nat) (w : RegW) : State :=
  let t := s.ttl
  match off with
  | 0x008 => { s with ttl := { t with logSel := w.field 0 t.logSel } }
  | 0x050 => { s with ttl := { t with selKind := w.field 0 t.selKind, selIndex := w.field 16 t.selIndex } }
  | 0x058 =>
    if w.one 2 && decide (t.selIndex.toNat < (telltaleKind t.selKind.toNat).1) then
      s.updTell t.selKind.toNat t.selIndex.toNat (fun x => { x with hung := false })
    else s
  | 0x070 => { s with ttl := { t with
      sampleBase := BitVec.ofNat 46 (w.nat 6 40 t.sampleBase.toNat), samplePort := w.flag 46 t.samplePort,
      sampleLog2 := w.field 47 t.sampleLog2 } }
  | 0x080 =>
    let v := w.field 0 t.sampleCons
    if consOk t v then { s with ttl := { t with sampleCons := v } } else s
  | _ => s

/-- The TRM and BST blocks (14, 12). -/
def writeTrm (s : State) (off : Nat) (w : RegW) : State :=
  match off with
  | 0x000 => s.updPwr (fun x => { x with sailSel := w.field 0 x.sailSel })
  | 0x020 => s.updPwr (fun x => { x with thermSel := w.field 0 x.thermSel })
  | _ => s

def writeBst (s : State) (off : Nat) (w : RegW) : State :=
  match off with
  | 0x010 => s.updRst (fun x => { x with entrySel := w.field 0 x.entrySel })
  | _ => s

/-- The diagnostics region (R295). -/
def writeDiag (s : State) (off : Nat) (w : RegW) : State :=
  if off < 0x10000 then writeYrd s (off / 0x1000) (off % 0x1000) w
  else match off / 0x1000 with
    | 0x10 => if off = 0x10020 then { s with mesh := { s.mesh with rtrSel := w.nat 0 12 s.mesh.rtrSel } } else s
    | 0x11 => writeMem s (off % 0x1000) w
    | 0x12 => if off = 0x12008 then { s with ryu := { s.ryu with portSel := w.nat 0 5 s.ryu.portSel } } else s
    | 0x13 => writeTtl s (off % 0x1000) w
    | 0x14 => writeTrm s (off % 0x1000) w
    | 0x15 => writeBst s (off % 0x1000) w
    | _ => s

/-- BAR0 of a primary physical function (R294). -/
def writePf (s : State) (port off : Nat) (w : RegW) : State :=
  if off < 0x10000 then s
  else if off < 0x20000 then writeSec s port (off - 0x10000) w
  else if off < 0x24000 then writeRst s (off - 0x20000) w
  else if off < 0x28000 then writeClk s (off - 0x24000) w
  else if off < 0x30000 then writePwr s (off - 0x28000) w
  else if 0x100000 ≤ off && off < 0x110000 then writeRig s port (off - 0x100000) w
  else if 0x200000 ≤ off && off < 0x300000 then writeSailReg s (.pf port) ((off - 0x200000) / 0x4000) ((off - 0x200000) % 0x4000) w
  else if 0x300000 ≤ off && off < 0x500000 then writeCtxReg s (.pf port) ((off - 0x300000) / 0x400) ((off - 0x300000) % 0x400) w
  else if 0x1000000 ≤ off && off < 0x2000000 then writeDiag s (off - 0x1000000) w
  else s

/-- BAR0 and BAR2 of a virtual function (R290, R296). -/
def writeVf (s : State) (port k bar off : Nat) (w : RegW) : State :=
  match s.vfSail port k with
  | none => s
  | some sl =>
    match s.desc sl with
    | none => s
    | some d =>
      if bar = 0 then
        if 0x4000 ≤ off && off < 0x8000 then writeSailReg s (.vf port k) sl (off - 0x4000) w
        else if 0x8000 ≤ off && decide ((off - 0x8000) / 0x400 < min d.ctxCount 224) then
          writeCtxReg s (.vf port k) (d.ctxFirst + (off - 0x8000) / 0x400) ((off - 0x8000) % 0x400) w
        else s
      else if bar = 2 && decide (off / 0x1000 < min d.qCount 256) then
        writeQueueReg s (.vf port k) (d.qFirst + off / 0x1000) (off % 0x1000) w
      else s

/-- REGISTER_WRITE. -/
def registerWriteState (fn : HostFn) (bar off width : Nat) (v : Word) (s : State) : State :=
  match regAccess off width v with
    | none => s
    | some (o, w) =>
      match fn with
      | .pf p =>
        if bar = 0 then writePf s p o w
        else if bar = 2 && o < 0x2000000 then writeQueueReg s (.pf p) (o / 0x1000) (o % 0x1000) w
        else s
      | .vf p k => writeVf s p k bar o w
      | .sec _ => s

def execRegisterWrite (fn : HostFn) (bar off width : Nat) (v : Word) (s : State) : Out :=
  rigCmd s (registerWriteState fn bar off width v)

end Sys2Proof.Machine
end

