-- ==== Sys2Proof/Machine/Dispatch.lean ====
section
/-! DEFINITION. The dispatch of commands: one arm per constructor of `Instr`. -/

namespace Sys2Proof.Machine

open Sys2Proof

/-- The effect of a command on everything but the queue of waiting commands. -/
def exec (i : Instr) (s : State) : Host.Outcome State Fault Refusal :=
  match i with
  | .add c g f => Sys2Proof.Machine.execAdd c g f s
  | .sub c g f => Sys2Proof.Machine.execSub c g f s
  | .mul c g f => Sys2Proof.Machine.execMul c g f s
  | .mulhu c g f => Sys2Proof.Machine.execMulhu c g f s
  | .divu c g f => Sys2Proof.Machine.execDivu c g f s
  | .remu c g f => Sys2Proof.Machine.execRemu c g f s
  | .and c g f => Sys2Proof.Machine.execAnd c g f s
  | .or c g f => Sys2Proof.Machine.execOr c g f s
  | .xor c g f => Sys2Proof.Machine.execXor c g f s
  | .sll c g f => Sys2Proof.Machine.execSll c g f s
  | .srl c g f => Sys2Proof.Machine.execSrl c g f s
  | .sra c g f => Sys2Proof.Machine.execSra c g f s
  | .min c g f => Sys2Proof.Machine.execMin c g f s
  | .max c g f => Sys2Proof.Machine.execMax c g f s
  | .minu c g f => Sys2Proof.Machine.execMinu c g f s
  | .maxu c g f => Sys2Proof.Machine.execMaxu c g f s
  | .ceq c g f => Sys2Proof.Machine.execCeq c g f s
  | .cne c g f => Sys2Proof.Machine.execCne c g f s
  | .clt c g f => Sys2Proof.Machine.execClt c g f s
  | .cltu c g f => Sys2Proof.Machine.execCltu c g f s
  | .cge c g f => Sys2Proof.Machine.execCge c g f s
  | .cgeu c g f => Sys2Proof.Machine.execCgeu c g f s
  | .pand c g f => Sys2Proof.Machine.execPand c g f s
  | .por c g f => Sys2Proof.Machine.execPor c g f s
  | .pnot c g f => Sys2Proof.Machine.execPnot c g f s
  | .li c g f => Sys2Proof.Machine.execLi c g f s
  | .lih c g f => Sys2Proof.Machine.execLih c g f s
  | .nop c g f => Sys2Proof.Machine.execNop c g f s
  | .br c g f => Sys2Proof.Machine.execBr c g f s
  | .brr c g f => Sys2Proof.Machine.execBrr c g f s
  | .call c g f => Sys2Proof.Machine.execCall c g f s
  | .ret c g f => Sys2Proof.Machine.execRet c g f s
  | .loop c g f => Sys2Proof.Machine.execLoop c g f s
  | .yield c g f => Sys2Proof.Machine.execYield c g f s
  | .halt c g f => Sys2Proof.Machine.execHalt c g f s
  | .ld8u c g f => Sys2Proof.Machine.execLd8u c g f s
  | .ld16u c g f => Sys2Proof.Machine.execLd16u c g f s
  | .ld32u c g f => Sys2Proof.Machine.execLd32u c g f s
  | .ld64 c g f => Sys2Proof.Machine.execLd64 c g f s
  | .ld8s c g f => Sys2Proof.Machine.execLd8s c g f s
  | .ld16s c g f => Sys2Proof.Machine.execLd16s c g f s
  | .ld32s c g f => Sys2Proof.Machine.execLd32s c g f s
  | .st8 c g f => Sys2Proof.Machine.execSt8 c g f s
  | .st16 c g f => Sys2Proof.Machine.execSt16 c g f s
  | .st32 c g f => Sys2Proof.Machine.execSt32 c g f s
  | .st64 c g f => Sys2Proof.Machine.execSt64 c g f s
  | .vadd c g f => Sys2Proof.Machine.execVadd c g f s
  | .vsub c g f => Sys2Proof.Machine.execVsub c g f s
  | .vmul c g f => Sys2Proof.Machine.execVmul c g f s
  | .vfma c g f => Sys2Proof.Machine.execVfma c g f s
  | .vmin c g f => Sys2Proof.Machine.execVmin c g f s
  | .vmax c g f => Sys2Proof.Machine.execVmax c g f s
  | .vdiv c g f => Sys2Proof.Machine.execVdiv c g f s
  | .vrcp c g f => Sys2Proof.Machine.execVrcp c g f s
  | .vrsqrt c g f => Sys2Proof.Machine.execVrsqrt c g f s
  | .vexp2 c g f => Sys2Proof.Machine.execVexp2 c g f s
  | .vlog2 c g f => Sys2Proof.Machine.execVlog2 c g f s
  | .vand c g f => Sys2Proof.Machine.execVand c g f s
  | .vor c g f => Sys2Proof.Machine.execVor c g f s
  | .vxor c g f => Sys2Proof.Machine.execVxor c g f s
  | .vshl c g f => Sys2Proof.Machine.execVshl c g f s
  | .vshr c g f => Sys2Proof.Machine.execVshr c g f s
  | .vbcast c g f => Sys2Proof.Machine.execVbcast c g f s
  | .vredsum c g f => Sys2Proof.Machine.execVredsum c g f s
  | .vredmax c g f => Sys2Proof.Machine.execVredmax c g f s
  | .vmov c g f => Sys2Proof.Machine.execVmov c g f s
  | .vsel c g f => Sys2Proof.Machine.execVsel c g f s
  | .vld c g f => Sys2Proof.Machine.execVld c g f s
  | .vst c g f => Sys2Proof.Machine.execVst c g f s
  | .vlds c g f => Sys2Proof.Machine.execVlds c g f s
  | .vsts c g f => Sys2Proof.Machine.execVsts c g f s
  | .vgath c g f => Sys2Proof.Machine.execVgath c g f s
  | .vscat c g f => Sys2Proof.Machine.execVscat c g f s
  | .vcvt c g f => Sys2Proof.Machine.execVcvt c g f s
  | .vmxq c g f => Sys2Proof.Machine.execVmxq c g f s
  | .vseed c g f => Sys2Proof.Machine.execVseed c g f s
  | .vseedr c g f => Sys2Proof.Machine.execVseedr c g f s
  | .mma c g f => Sys2Proof.Machine.execMma c g f s
  | .mzero c g f => Sys2Proof.Machine.execMzero c g f s
  | .mld c g f => Sys2Proof.Machine.execMld c g f s
  | .mst c g f => Sys2Proof.Machine.execMst c g f s
  | .send c g f => Sys2Proof.Machine.execSend c g f s
  | .recv c g f => Sys2Proof.Machine.execRecv c g f s
  | .req c g f => Sys2Proof.Machine.execReq c g f s
  | .sstat c g f => Sys2Proof.Machine.execSstat c g f s
  | .cbmov c g f => Sys2Proof.Machine.execCbmov c g f s
  | .dmasub c g f => Sys2Proof.Machine.execDmasub c g f s
  | .fence c g f => Sys2Proof.Machine.execFence c g f s
  | .waite c g f => Sys2Proof.Machine.execWaite c g f s
  | .sete c g f => Sys2Proof.Machine.execSete c g f s
  | .adde c g f => Sys2Proof.Machine.execAdde c g f s
  | .semacq c g f => Sys2Proof.Machine.execSemacq c g f s
  | .semtry c g f => Sys2Proof.Machine.execSemtry c g f s
  | .semrel c g f => Sys2Proof.Machine.execSemrel c g f s
  | .csrr c g f => Sys2Proof.Machine.execCsrr c g f s
  | .csrw c g f => Sys2Proof.Machine.execCsrw c g f s
  | .flagr c g f => Sys2Proof.Machine.execFlagr c g f s
  | .flagc c g f => Sys2Proof.Machine.execFlagc c g f s
  | .time c g f => Sys2Proof.Machine.execTime c g f s
  | .post c u => Sys2Proof.Machine.execPost c u s
  | .waitingInstruction c => Sys2Proof.Machine.execWaitingInstruction c s
  | .yieldOverdue c => Sys2Proof.Machine.execYieldOverdue c s
  | .preemptAtYieldPoint c => Sys2Proof.Machine.execPreemptAtYieldPoint c s
  | .contextSaveComplete c => Sys2Proof.Machine.execContextSaveComplete c s
  | .pool yard engine => Sys2Proof.Machine.execPool yard engine s
  | .gather yard engine => Sys2Proof.Machine.execGather yard engine s
  | .decode yard engine => Sys2Proof.Machine.execDecode yard engine s
  | .cgBegin yard req => Sys2Proof.Machine.execCgBegin yard req s
  | .update yard req => Sys2Proof.Machine.execUpdate yard req s
  | .cgCommit yard req => Sys2Proof.Machine.execCgCommit yard req s
  | .cgAbort yard req => Sys2Proof.Machine.execCgAbort yard req s
  | .tblsync yard req => Sys2Proof.Machine.execTblsync yard req s
  | .yseed yard req => Sys2Proof.Machine.execYseed yard req s
  | .cgBeginQuotaGrant yard sail => Sys2Proof.Machine.execCgBeginQuotaGrant yard sail s
  | .engineTakesRequest yard sail => Sys2Proof.Machine.execEngineTakesRequest yard sail s
  | .rowFetchComplete yard engine k => Sys2Proof.Machine.execRowFetchComplete yard engine k s
  | .fetchPortRead yard engine k => Sys2Proof.Machine.execFetchPortRead yard engine k s
  | .cgAction handle idx => Sys2Proof.Machine.execCgAction handle idx s
  | .intentLogDurable handle idx => Sys2Proof.Machine.execIntentLogDurable handle idx s
  | .commitPoint handle => Sys2Proof.Machine.execCommitPoint handle s
  | .cgApply handle yard => Sys2Proof.Machine.execCgApply handle yard s
  | .groupRetire handle => Sys2Proof.Machine.execGroupRetire handle s
  | .lockReleasedResume yard row => Sys2Proof.Machine.execLockReleasedResume yard row s
  | .holdTimerExpiry handle => Sys2Proof.Machine.execHoldTimerExpiry handle s
  | .backgroundWindow r => Sys2Proof.Machine.execBackgroundWindow r s
  | .yrdSailPeakRead fn yard sail => Sys2Proof.Machine.execYrdSailPeakRead fn yard sail s
  | .meshSlot router => Sys2Proof.Machine.execMeshSlot router s
  | .meshRtrClr fn v => Sys2Proof.Machine.execMeshRtrClr fn v s
  | .dieLinkLoss router dir => Sys2Proof.Machine.execDieLinkLoss router dir s
  | .rangeMap q n => Sys2Proof.Machine.execRangeMap q n s
  | .rangeUnmap q n => Sys2Proof.Machine.execRangeUnmap q n s
  | .rangeModify q n => Sys2Proof.Machine.execRangeModify q n s
  | .rangeSync q n => Sys2Proof.Machine.execRangeSync q n s
  | .rangeDrainEnd ctx => Sys2Proof.Machine.execRangeDrainEnd ctx s
  | .migrationComplete ctx vstart page => Sys2Proof.Machine.execMigrationComplete ctx vstart page s
  | .accessTimerExpiry a => Sys2Proof.Machine.execAccessTimerExpiry a s
  | .prodRead yard slot => Sys2Proof.Machine.execProdRead yard slot s
  | .portTraining port t => Sys2Proof.Machine.execPortTraining port t s
  | .linkLoss port retrained => Sys2Proof.Machine.execLinkLoss port retrained s
  | .ident port node peerPort digest => Sys2Proof.Machine.execIdent port node peerPort digest s
  | .link port b => Sys2Proof.Machine.execLink port b s
  | .ackTimerExpiry port => Sys2Proof.Machine.execAckTimerExpiry port s
  | .rd port m => Sys2Proof.Machine.execRd port m s
  | .wr port m => Sys2Proof.Machine.execWr port m s
  | .lkup port m => Sys2Proof.Machine.execLkup port m s
  | .hint port m => Sys2Proof.Machine.execHint port m s
  | .resp port m => Sys2Proof.Machine.execResp port m s
  | .ing port m => Sys2Proof.Machine.execIng port m s
  | .impOpen port m => Sys2Proof.Machine.execImpOpen port m s
  | .impAck port m => Sys2Proof.Machine.execImpAck port m s
  | .impClose port m => Sys2Proof.Machine.execImpClose port m s
  | .remoteTimeout tag => Sys2Proof.Machine.execRemoteTimeout tag s
  | .consRead stream => Sys2Proof.Machine.execConsRead stream s
  | .ph1Start m => Sys2Proof.Machine.execPh1Start m s
  | .mirrorPut m => Sys2Proof.Machine.execMirrorPut m s
  | .mirrorAck m => Sys2Proof.Machine.execMirrorAck m s
  | .commit m => Sys2Proof.Machine.execCommit m s
  | .commitAck m => Sys2Proof.Machine.execCommitAck m s
  | .offer m => Sys2Proof.Machine.execOffer m s
  | .accept m => Sys2Proof.Machine.execAccept m s
  | .ack m => Sys2Proof.Machine.execAck m s
  | .decline m => Sys2Proof.Machine.execDecline m s
  | .stale m => Sys2Proof.Machine.execStale m s
  | .retire m => Sys2Proof.Machine.execRetire m s
  | .cleatTimerExpiry id => Sys2Proof.Machine.execCleatTimerExpiry id s
  | .fmAssign h node domain manager time => Sys2Proof.Machine.execFmAssign h node domain manager time s
  | .fmRoute h first count mask hops => Sys2Proof.Machine.execFmRoute h first count mask hops s
  | .fmTime h sent adjust => Sys2Proof.Machine.execFmTime h sent adjust s
  | .fmFreeze h id epoch => Sys2Proof.Machine.execFmFreeze h id epoch s
  | .fmRuling h r => Sys2Proof.Machine.execFmRuling h r s
  | .fmPlace h p => Sys2Proof.Machine.execFmPlace h p s
  | .fmPeerState h node st sails => Sys2Proof.Machine.execFmPeerState h node st sails s
  | .fmAck h arg => Sys2Proof.Machine.execFmAck h arg s
  | .ryuClr fn v => Sys2Proof.Machine.execRyuClr fn v s
  | .load port => Sys2Proof.Machine.execLoad port s
  | .loadEnd port => Sys2Proof.Machine.execLoadEnd port s
  | .swap port => Sys2Proof.Machine.execSwap port s
  | .discard port => Sys2Proof.Machine.execDiscard port s
  | .drain => Sys2Proof.Machine.execDrain s
  | .scrub failed => Sys2Proof.Machine.execScrub failed s
  | .cut => Sys2Proof.Machine.execCut s
  | .release => Sys2Proof.Machine.execRelease s
  | .quiesceLimitExpiry q n => Sys2Proof.Machine.execQuiesceLimitExpiry q n s
  | .doorbell fn q tail => Sys2Proof.Machine.execDoorbell fn q tail s
  | .overrunClear fn q => Sys2Proof.Machine.execOverrunClear fn q s
  | .qbCqHead fn q v => Sys2Proof.Machine.execQbCqHead fn q v s
  | .commandFetch q => Sys2Proof.Machine.execCommandFetch q s
  | .commandStart q => Sys2Proof.Machine.execCommandStart q s
  | .completionRecord q n => Sys2Proof.Machine.execCompletionRecord q n s
  | .enable fn q => Sys2Proof.Machine.execEnable fn q s
  | .disable fn q => Sys2Proof.Machine.execDisable fn q s
  | .qbFenceSignal fn q v => Sys2Proof.Machine.execQbFenceSignal fn q v s
  | .create fn sail ctx => Sys2Proof.Machine.execCreate fn sail ctx s
  | .destroy fn sail ctx => Sys2Proof.Machine.execDestroy fn sail ctx s
  | .reset fn sail ctx => Sys2Proof.Machine.execReset fn sail ctx s
  | .resume fn sail ctx => Sys2Proof.Machine.execResume fn sail ctx s
  | .vfFunctionLevelReset port vf => Sys2Proof.Machine.execVfFunctionLevelReset port vf s
  | .pfFunctionLevelReset port => Sys2Proof.Machine.execPfFunctionLevelReset port s
  | .doeDiscovery fn index => Sys2Proof.Machine.execDoeDiscovery fn index s
  | .nopCommand q n => Sys2Proof.Machine.execNopCommand q n s
  | .run q n => Sys2Proof.Machine.execRun q n s
  | .dma q n => Sys2Proof.Machine.execDma q n s
  | .semInit q n => Sys2Proof.Machine.execSemInit q n s
  | .semRelease q n => Sys2Proof.Machine.execSemRelease q n s
  | .tableSync q n => Sys2Proof.Machine.execTableSync q n s
  | .memPrefetch q n => Sys2Proof.Machine.execMemPrefetch q n s
  | .memAdvise q n => Sys2Proof.Machine.execMemAdvise q n s
  | .orderSet q n => Sys2Proof.Machine.execOrderSet q n s
  | .orderClear q n => Sys2Proof.Machine.execOrderClear q n s
  | .dirtyHarvest q n => Sys2Proof.Machine.execDirtyHarvest q n s
  | .exportCreate q n => Sys2Proof.Machine.execExportCreate q n s
  | .exportDestroy q n => Sys2Proof.Machine.execExportDestroy q n s
  | .importOpen q n => Sys2Proof.Machine.execImportOpen q n s
  | .importClose q n => Sys2Proof.Machine.execImportClose q n s
  | .ingOpen q n => Sys2Proof.Machine.execIngOpen q n s
  | .ingClose q n => Sys2Proof.Machine.execIngClose q n s
  | .dispatch q n => Sys2Proof.Machine.execDispatch q n s
  | .seqSubmit q n => Sys2Proof.Machine.execSeqSubmit q n s
  | .sharedCreate q n => Sys2Proof.Machine.execSharedCreate q n s
  | .sharedRelease q n => Sys2Proof.Machine.execSharedRelease q n s
  | .dmaDescriptorStart cluster eng => Sys2Proof.Machine.execDmaDescriptorStart cluster eng s
  | .dmaDescriptorComplete cluster eng k ctx => Sys2Proof.Machine.execDmaDescriptorComplete cluster eng k ctx s
  | .dmaRingRecord cluster eng => Sys2Proof.Machine.execDmaRingRecord cluster eng s
  | .quantumExpiry c => Sys2Proof.Machine.execQuantumExpiry c s
  | .holdLimitExpiry ctx => Sys2Proof.Machine.execHoldLimitExpiry ctx s
  | .batchStepBoundary sail => Sys2Proof.Machine.execBatchStepBoundary sail s
  | .reefWindow rclass index => Sys2Proof.Machine.execReefWindow rclass index s
  | .confCounterWindow sail => Sys2Proof.Machine.execConfCounterWindow sail s
  | .getReport fn sail nonce => Sys2Proof.Machine.execGetReport fn sail nonce s
  | .getCert fn => Sys2Proof.Machine.execGetCert fn s
  | .keyDeliver fn bytes package => Sys2Proof.Machine.execKeyDeliver fn bytes package s
  | .keyRevoke fn sail killCode => Sys2Proof.Machine.execKeyRevoke fn sail killCode s
  | .drainBoundExpiry sail => Sys2Proof.Machine.execDrainBoundExpiry sail s
  | .bottomTreeBuild => Sys2Proof.Machine.execBottomTreeBuild s
  | .transition fn block => Sys2Proof.Machine.execTransition fn block s
  | .opkeyEnroll fn => Sys2Proof.Machine.execOpkeyEnroll fn s
  | .opkeyRotate fn block => Sys2Proof.Machine.execOpkeyRotate fn block s
  | .userRead fn block => Sys2Proof.Machine.execUserRead fn block s
  | .userWrite fn block => Sys2Proof.Machine.execUserWrite fn block s
  | .bypass => Sys2Proof.Machine.execBypass s
  | .idcode => Sys2Proof.Machine.execIdcode s
  | .samplePreload preload => Sys2Proof.Machine.execSamplePreload preload s
  | .extest => Sys2Proof.Machine.execExtest s
  | .dbgChallenge => Sys2Proof.Machine.execDbgChallenge s
  | .dbgResponse level sig => Sys2Proof.Machine.execDbgResponse level sig s
  | .dbgAccess a => Sys2Proof.Machine.execDbgAccess a s
  | .dbgReset => Sys2Proof.Machine.execDbgReset s
  | .powerOn => Sys2Proof.Machine.execPowerOn s
  | .perst port lowNs band => Sys2Proof.Machine.execPerst port lowNs band s
  | .trayResetN lowNs band => Sys2Proof.Machine.execTrayResetN lowNs band s
  | .resetDeassertion p highNs => Sys2Proof.Machine.execResetDeassertion p highNs s
  | .softwareWarm fn v => Sys2Proof.Machine.execSoftwareWarm fn v s
  | .softwareCompute fn v => Sys2Proof.Machine.execSoftwareCompute fn v s
  | .softwareSail fn v => Sys2Proof.Machine.execSoftwareSail fn v s
  | .blockQuiesce fn v => Sys2Proof.Machine.execBlockQuiesce fn v s
  | .blockReset fn => Sys2Proof.Machine.execBlockReset fn s
  | .blockResetComplete => Sys2Proof.Machine.execBlockResetComplete s
  | .bootBegin fn len => Sys2Proof.Machine.execBootBegin fn len s
  | .bootData fn off data => Sys2Proof.Machine.execBootData fn off data s
  | .bootEnd fn body => Sys2Proof.Machine.execBootEnd fn body s
  | .bootState fn => Sys2Proof.Machine.execBootState fn s
  | .shutdownGo fn => Sys2Proof.Machine.execShutdownGo fn s
  | .selfTestComplete results goldenBad => Sys2Proof.Machine.execSelfTestComplete results goldenBad s
  | .backgroundTestComplete results goldenBad => Sys2Proof.Machine.execBackgroundTestComplete results goldenBad s
  | .thermTrip sensor temp => Sys2Proof.Machine.execThermTrip sensor temp s
  | .powerLoss cause => Sys2Proof.Machine.execPowerLoss cause s
  | .telltaleWindowClose kind index => Sys2Proof.Machine.execTelltaleWindowClose kind index s
  | .fwBeat => Sys2Proof.Machine.execFwBeat s
  | .stepBoundExpiry step => Sys2Proof.Machine.execStepBoundExpiry step s
  | .suspectReplayEnd ctx v => Sys2Proof.Machine.execSuspectReplayEnd ctx v s
  | .samplingTimeout => Sys2Proof.Machine.execSamplingTimeout s
  | .channelTrainingLoss gddr chan retrained => Sys2Proof.Machine.execChannelTrainingLoss gddr chan retrained s
  | .cxlLinkLoss port retrained => Sys2Proof.Machine.execCxlLinkLoss port retrained s
  | .hostLinkDown port => Sys2Proof.Machine.execHostLinkDown port s
  | .mastheadFault memory => Sys2Proof.Machine.execMastheadFault memory s
  | .hostReadTimeout a => Sys2Proof.Machine.execHostReadTimeout a s
  | .trimInterval m => Sys2Proof.Machine.execTrimInterval m s
  | .powerSample deciWatts centiVolts => Sys2Proof.Machine.execPowerSample deciWatts centiVolts s
  | .droopFlagSet isl => Sys2Proof.Machine.execDroopFlagSet isl s
  | .droopFlagClear isl => Sys2Proof.Machine.execDroopFlagClear isl s
  | .pointSwitch cluster => Sys2Proof.Machine.execPointSwitch cluster s
  | .undervoltage isl => Sys2Proof.Machine.execUndervoltage isl s
  | .thermalRead readings => Sys2Proof.Machine.execThermalRead readings s
  | .energyAttribution items => Sys2Proof.Machine.execEnergyAttribution items s
  | .status pec => Sys2Proof.Machine.execStatus pec s
  | .alertCause pec => Sys2Proof.Machine.execAlertCause pec s
  | .alertCauseClear pec v => Sys2Proof.Machine.execAlertCauseClear pec v s
  | .trayCap pec w => Sys2Proof.Machine.execTrayCap pec w s
  | .inputPower pec => Sys2Proof.Machine.execInputPower pec s
  | .inputVoltage pec => Sys2Proof.Machine.execInputVoltage pec s
  | .hottest pec => Sys2Proof.Machine.execHottest pec s
  | .portMode pec w => Sys2Proof.Machine.execPortMode pec w s
  | .shutdown pec v => Sys2Proof.Machine.execShutdown pec v s
  | .smbusIdent pec => Sys2Proof.Machine.execSmbusIdent pec s
  | .inputFault pec => Sys2Proof.Machine.execInputFault pec s
  | .inputFaultClear pec v => Sys2Proof.Machine.execInputFaultClear pec v s
  | .smbusTimeout pin => Sys2Proof.Machine.execSmbusTimeout pin s
  | .cablePresence port present => Sys2Proof.Machine.execCablePresence port present s
  | .portTrainAttempt port t => Sys2Proof.Machine.execPortTrainAttempt port t s
  | .cageShort port => Sys2Proof.Machine.execCageShort port s
  | .inputOvervoltage => Sys2Proof.Machine.execInputOvervoltage s
  | .reversedPolarity => Sys2Proof.Machine.execReversedPolarity s
  | .sidebandFault pin => Sys2Proof.Machine.execSidebandFault pin s
  | .registerWrite fn bar off width v => Sys2Proof.Machine.execRegisterWrite fn bar off width v s
  | .blockSlot port rx => Sys2Proof.Machine.execBlockSlot port rx s
  | .uncorrectableCodeword port fec => Sys2Proof.Machine.execUncorrectableCodeword port fec s
  | .cxlViral port => Sys2Proof.Machine.execCxlViral port s

end Sys2Proof.Machine
end

