-- ==== Sys2Proof/Machine/Step.lean ====
section
/-! DEFINITION. The step: the command at the front of the queue is executed with the queue's rest; on
an empty queue one nanosecond passes (log entry 1).
Choices of the model here: log entry 1 (DESIGN CHOICE), log entry 9 (DESIGN CHOICE). -/

namespace Sys2Proof.Machine

open Sys2Proof

/-- The passing of one nanosecond (R5): what the clock drives. Neither the queue of commands nor the rig changes. -/
def State.tick (s : State) : State := { tickState s with pending := s.pending, rig := s.rig }

/-- One step of the block. -/
def step (s : State) : Host.Outcome State Fault Refusal :=
  match s.pending with
  | [] => .next s.tick
  | c :: rest => exec c { s with pending := rest }

/-- The state with the command that a word spells put at the front of the queue. -/
def State.withFetchWord (s : State) (nbits w : Nat) : State :=
  match Sys2Proof.decodeTableWord nbits w with
  | none => s
  | some c => { s with pending := c :: s.pending }

end Sys2Proof.Machine
end

