-- ==== Sys2Proof/Machine/RegRead.lean ====
section
/-! DEFINITION. Reads of registers (R2, R293 to R297, R373, R374): what a read returns in a state. A read has no effect but
that of YRD_SAIL_PEAK_READ, which has a row of its own.
Choices of the model here: log entry 24 (DESIGN CHOICE), log entry 51 (DEDUCED), log entry 58 (DESIGN CHOICE). -/

namespace Sys2Proof.Machine

open Sys2Proof

/-! ### Register layouts -/

/-- A register put together from its fields: (lowest bit, width, value). -/
def regOf (l : List (Nat × Nat × Nat)) : Word := BitVec.ofNat 64 ((l.map (fun f => f.2.2 % 2 ^ f.2.1 * 2 ^ f.1)).sum)

/-- A one-bit field. -/
def bitF (lo : Nat) (b : Bool) : Nat × Nat × Nat := (lo, 1, if b then 1 else 0)

/-! ### Context blocks (02, 03, 04, 06, 09, 10) -/

def CtxSt.code : CtxSt → Nat
  | .free => 0 | .active => 1 | .stopped => 2 | .resetting => 3 | .destroying => 4

/-- The tier of a range's target (R329): 0 in-package DRAM, 1 GDDR7, 2 far tier, 3 host windows and SRAM apertures,
4 other nodes. -/
def rangeTier (s : State) (e : RangeE) : Nat :=
  let a := e.target % 2 ^ 48
  if !s.isOwnNode (e.target / 2 ^ 48 % 2 ^ 16) then 4
  else if a < dramEnd then 0
  else if a < gddrEnd then 1
  else if farBase ≤ a && a < farEnd then 2
  else 3

/-- Bytes that the live ranges of a context map into a tier. -/
def tierBytes (s : State) (x : Ctx) (tier : Nat) : Nat :=
  ((x.ranges.filter (fun e => rangeTier s e == tier)).map (fun e => 4096 * e.pages)).sum

/-- Cores on which a context is resident. -/
def residentCount (s : State) (c : Nat) : Nat :=
  (s.cores.filter (fun p => match p.2.prog with
    | some g => g.ctx == c
    | none => false)).length

/-- The register at an offset of context `c`'s block. -/
def readCtx (s : State) (c off : Nat) : Word :=
  let x := s.ctx c
  match off with
  | 0x000 => regOf [(0, 3, x.st.code), bitF 3 x.sof, (4, 6, (s.ctxSail c).getD 0)]
  | 0x008 => ctxCoreTime s c
  | 0x010 => x.yardTime
  | 0x018 => regOf [(0, 64, tierBytes s x 0)]
  | 0x020 => regOf [(0, 64, tierBytes s x 1)]
  | 0x028 => regOf [(0, 64, tierBytes s x 2)]
  | 0x030 => regOf [(0, 64, tierBytes s x 3)]
  | 0x038 => regOf [(0, 64, tierBytes s x 4)]
  | 0x040 => regOf [(0, 64, x.energyNj / 1000)]
  | 0x048 => x.preempts
  | 0x050 => x.commands
  | 0x0F0 => x.arith.zeroExtend 64
  | 0x100 => regOf [(0, 8, x.cf.cause.toNat), (16, 12, x.cf.lcore.toNat), (28, 16, x.cf.status.toNat), bitF 44 x.cf.valid, bitF 45 x.cf.more]
  | 0x108 => x.cf.pc.zeroExtend 64
  | 0x120 => x.tblBase.zeroExtend 64
  | 0x128 => x.tblCount.zeroExtend 64
  | 0x140 => regOf [(0, 17, x.ranges.length), (17, 11, (heldTombs s c).length), bitF 28 x.drain.isSome]
  | 0x148 => x.mseq
  | 0x150 => x.floor
  | 0x158 => regOf [(0, 56, x.xf.va.toNat), (56, 3, x.xf.cause.toNat), (59, 3, x.xf.access.toNat), bitF 62 x.xf.more, bitF 63 x.xf.valid]
  | 0x160 => regOf [(0, 32, min x.migrations (2 ^ 32 - 1)), (32, 32, min x.direct (2 ^ 32 - 1))]
  | 0x168 => regOf [(0, 25, x.poolPages), (25, 25, (pinnedPages s c).length)]
  | 0x180 => regOf [
      bitF 0 (match s.ctxSail c with
        | some sl => !(readyOf s sl c).isEmpty
        | none => false),
      bitF 1 x.deferredAt.isSome, bitF 2 x.semRev, (16, 12, residentCount s c)]
  | 0x188 => regOf [(0, 64, ctxPass s c)]
  | _ => 0

/-! ### Queue blocks (09) -/

def QSt.code : QSt → Nat
  | .idle => 0 | .active => 1 | .disabling => 2

/-- The register at an offset of queue `q`'s block. -/
def readQueue (s : State) (q off : Nat) : Word :=
  let x := s.queue q
  match off with
  | 0x000 => regOf [(0, 46, x.sqBase)]
  | 0x008 => regOf [(0, 46, x.cqBase)]
  | 0x010 => regOf [(0, 11, x.ctx), (11, 5, x.log2), (16, 11, x.vector), bitF 27 x.irqAll]
  | 0x020 => x.tail.zeroExtend 64
  | 0x028 => x.head.zeroExtend 64
  | 0x030 => x.cqHead.zeroExtend 64
  | 0x038 => x.cqTail.zeroExtend 64
  | 0x040 => regOf [
      (0, 2, x.st.code), bitF 2 x.overrun, bitF 3 x.cqFull, (4, 3, x.error.toNat),
      (7, 1, (x.fn.map (·.hostPort)).getD 0)]
  | 0x048 => x.fence
  | 0x058 => x.fenceLow.zeroExtend 64
  | 0x060 => x.waitTime
  | 0x068 => x.preempts.zeroExtend 64
  | 0x070 => x.energyUj
  | 0x078 => x.doneCount
  | _ => 0

/-! ### Sail blocks (08, 09, 10) -/

/-- The per-sail counters of a yard in the order of R139. -/
def readYardCounter (s : State) (y sl i : Nat) : Word :=
  let c := (s.yard y).cnt.get YardCounters.zero sl
  match i with
  | 0 => c.reqs
  | 1 => c.rows
  | 2 => c.hits
  | 3 => c.misses
  | 4 => c.pads
  | 5 => c.actions
  | 6 => c.commits
  | 7 => c.peak
  | _ => 0

def readAborts (s : State) (y sl : Nat) : Word :=
  let c := (s.yard y).cnt.get YardCounters.zero sl
  regOf [(0, 16, c.conflict.toNat), (16, 16, c.logFull.toNat), (32, 16, c.expired.toNat), (48, 16, c.explicit.toNat)]

/-- The REEF entry that SAIL_REEF_SEL shows. -/
def reefShown (s : State) (sl : Nat) : Option ReefDef := ((activeRig s).reef.filter (fun e => e.sail == sl))[(s.sail sl).reefSel.toNat]?

/-- The running state of an entry, kept by its place in the section. -/
def reefRun (s : State) (e : ReefDef) : ReefState :=
  match (activeRig s).reef.findIdx? (· == e) with
  | none => ReefState.zero
  | some i => s.tiers.reef.get ReefState.zero i

/-- The semaphore that SAIL_SEM_SEL shows, inside the sail. -/
def semShown (s : State) (sl : Nat) : Option Sem :=
  let i := (s.sail sl).semSel.toNat
  if s.semSail i == some sl then some (s.sem i) else none

/-- Clusters with a DOWN logical core of the sail. -/
def downClusters (s : State) (sl : Nat) : Nat :=
  (((s.sail sl).downCores.map (fun k => k / 34)).eraseDups.map (fun c => 2 ^ c)).sum

def readSailStatus (s : State) (sl : Nat) : Word :=
  let x := s.sail sl
  let d := s.desc sl
  regOf [
    (0, 3, x.state.toNat), bitF 3 (!x.downCores.isEmpty), (4, 2, (d.map (·.role)).getD 0), bitF 6 ((d.map (·.conf)).getD false),
    (8, 7, (s.sailClusters sl).length), (16, 16, min x.rebinds 65535)]

def readSailEvent (x : Sail) : Word :=
  regOf [
    bitF 0 x.evDegraded, bitF 1 x.evRestored, bitF 2 x.evFallback, (16, 11, x.evVector.toNat), bitF 27 x.evIrq, bitF 28 x.evPort]

/-- The first 4 KiB of a sail block through function `fn`. -/
def readSailRegs (s : State) (fn : HostFn) (sl off : Nat) : Word :=
  let x := s.sail sl
  match off with
  | 0x000 => readSailStatus s sl
  | 0x008 => regOf [(0, 64, downClusters s sl)]
  | 0x010 => regOf [(0, 46, x.ctxDesc)]
  | 0x020 => regOf [bitF 0 x.busy, bitF 1 x.ignored, (16, 16, x.status.code.toNat), (32, 11, x.resCtx)]
  | 0x040 => x.semSel.zeroExtend 64
  | 0x048 => match semShown s sl with
    | none => 0
    | some m => regOf [(0, 31, m.value), bitF 31 (semHeld s x.semSel.toNat), (32, 31, m.max)]
  | 0x050 => match semShown s sl with
    | none => 0
    | some m => regOf [(0, 16, m.waiters.length), (16, 16, min m.ovf 65535), (32, 14, m.hold)]
  | 0x060 => regOf [(0, 64, x.energyNj / 1000)]
  | 0x068 => sailCoreTime s sl
  | 0x080 => regOf [(0, 20, x.quantum)]
  | 0x088 => regOf [
      (0, 8, x.chunk.toNat), (8, 8, x.stepMax.toNat), (16, 11, x.bCtx.toNat), (27, 12, x.bCoreFirst.toNat),
      (39, 12, x.bCoreCount.toNat), bitF 51 x.bEnable]
  | 0x090 => x.entry.zeroExtend 64
  | 0x098 => x.fbEntry.zeroExtend 64
  | 0x0A0 => x.listBase.zeroExtend 64
  | 0x0A8 => regOf [(0, 32, min x.seqDone (2 ^ 32 - 1)), (32, 16, min x.seqFallback 65535), (48, 16, min x.seqMissed 65535)]
  | 0x0B0 => readSailEvent x
  | 0x0B8 => x.reefSel.zeroExtend 64
  | 0x0C0 => match reefShown s sl with
    | none => 0
    | some e => regOf [
        (0, 17, reefScale s (activeRig s) e), (17, 3, e.rclass), (20, 2, e.tclass), (32, 32, reefRate s (activeRig s) e)]
  | 0x0C8 => match reefShown s sl with
    | none => 0
    | some e => (reefRun s e).bytes
  | 0x0D0 => match reefShown s sl with
    | none => 0
    | some e => (reefRun s e).late
  | 0x0E0 => viewOf s fn sl
  | _ => 0

/-- Whether a sail is confidential. -/
def State.confidential (s : State) (sl : Nat) : Bool := ((s.desc sl).map (·.conf)).getD false

/-- A context's register through a function that reaches its sail: a PF sees CTX_STATE alone of a confidential one (R373). -/
def readCtxReg (s : State) (fn : HostFn) (c off : Nat) : Word :=
  match s.ctxSail c with
  | none => 0
  | some sl => if !s.reaches fn sl || (fn.isPf && s.confidential sl && off != 0) then 0 else readCtx s c off

/-- A queue's register: a PF reads 0 of a queue that a VF of a confidential sail enabled (R305, R373). -/
def readQueueReg (s : State) (fn : HostFn) (q off : Nat) : Word :=
  match s.queueSail q with
  | none => 0
  | some sl =>
    let byVf := match (s.queue q).fn with
      | some f => !f.isPf
      | none => false
    if !s.reaches fn sl || (fn.isPf && s.confidential sl && byVf) then 0 else readQueue s q off

/-- What a PF reads of a confidential sail's block (R373, R374). -/
def readMaskedSail (s : State) (sl off : Nat) : Word :=
  let x := s.sail sl
  match off with
  | 0x000 => readSailStatus s sl
  | 0x008 => regOf [(0, 64, downClusters s sl)]
  | 0x060 => x.energyPf
  | 0x068 => x.coreTimePf
  | 0x0B0 => readSailEvent x
  | _ => 0

/-- A register of a sail's block: its own, the copies of the yards' counters (R139), the views (R297). -/
def readSailReg (s : State) (fn : HostFn) (sl off : Nat) : Word :=
  if !s.reaches fn sl then 0
  else
    let view := viewOf s fn sl
    let c := (view.extractLsb' 0 11).toNat
    let q := (view.extractLsb' 16 13).toNat
    let masked := fn.isPf && s.confidential sl
    if off < 0x1000 then (if masked then readMaskedSail s sl off else readSailRegs s fn sl off)
    else if off < 0x1800 then
      let y := (off - 0x1000) / 0x80
      let i := (off - 0x1000) % 0x80 / 8
      if masked then 0
      else match i with
        | 9 => readAborts s y sl
        | i => readYardCounter s y sl (if i = 8 then 7 else if i < 7 then i else 8)
    else if 0x2000 ≤ off && off < 0x2400 then (if s.ctxSail c == some sl then readCtxReg s fn c (off - 0x2000) else 0)
    else if 0x3000 ≤ off && off < 0x4000 then (if s.queueSail q == some sl then readQueueReg s fn q (off - 0x3000) else 0)
    else 0

/-! ### The global blocks of a physical function (09, 11, 12, 14, 15) -/

/-- The HIF global block of port `p` (09). -/
def readHif (s : State) (p off : Nat) : Word :=
  let h := if p = 0 then s.hif.ports[0] else s.hif.ports[1]
  match off with
  | 0x000 => regOf [
      (0, 16, 0x0064), (16, 8, 0xB1), (24, 8, 0x23), (32, 16, if s.rst.fwRun then s.rst.fwVer.toNat else 0), bitF 48 s.rst.fwRun,
      (49, 1, p)]
  | 0x008 => s.time
  | 0x010 => regOf [(0, 5, h.width.toNat), (5, 3, h.speed.toNat), bitF 8 (s.pwr.portModeNow.getLsbD p)]
  | _ => 0

def slotStCode : SlotSt → Nat
  | .empty => 0 | .loaded => 1 | .active => 2 | .draining => 3

def slotKindCode : SlotKind → Nat
  | .unused => 0 | .memory => 1 | .link => 2

/-- SEC and LCS (11), through the primary PF of `port`. -/
def readSec (s : State) (port off : Nat) : Word :=
  let x := s.sec
  let k := s.slot x.slotSel.toNat
  let op := match x.opKey with
    | none => (0 : BitVec 256)
    | some l => Config.sha256 l
  match off with
  | 0x000 => x.unitId.extractLsb' 0 64
  | 0x008 => x.unitId.extractLsb' 64 64
  | 0x010 => x.unitId.extractLsb' 128 64
  | 0x018 => x.unitId.extractLsb' 192 64
  | 0x020 => regOf [(0, 3, x.lc.code), (4, 3, x.lcMark.toNat), bitF 7 x.lcOpen, (8, 32, x.lcCounter.toNat), bitF 40 x.opKey.isSome]
  | 0x028 => (if port = 0 then x.reqAddr[0] else x.reqAddr[1]).zeroExtend 64
  | 0x038 => regOf [bitF 0 x.lcsBusy, bitF 1 x.lcsIgnored, (16, 16, x.lcsStatus.toNat)]
  | 0x040 => regOf [(0, 40, x.leafNext.toNat), bitF 63 x.leafDisabled]
  | 0x048 => x.leafResv.zeroExtend 64
  | 0x050 => x.slotSel.zeroExtend 64
  | 0x058 => regOf [
      (0, 2, slotStCode k.st), (2, 2, slotKindCode k.kind), (4, 6, k.sail), bitF 10 k.conf, (16, 16, k.gen.toNat),
      (32, 16, k.deliveries.toNat), (48, 16, k.badKill.toNat)]
  | 0x060 => x.drained.zeroExtend 64
  | 0x068 => regOf [(0, 2, if x.dbgOpen then x.dbgLevel else 0), bitF 2 x.dbgOpen, bitF 3 x.dbgSince]
  | 0x080 => op.extractLsb' 0 64
  | 0x088 => op.extractLsb' 64 64
  | 0x090 => op.extractLsb' 128 64
  | 0x098 => op.extractLsb' 192 64
  | _ => 0

/-- Work that a block holds (RST_BLK_STATUS.INFLIGHT). -/
def blockInflight (s : State) (k i : Nat) : Nat :=
  match k with
  | 0 => (residentCores s (fun c => s.coreRouter c == some i)).length
  | 1 => (residentCores s (fun c => c / 34 == i)).length + ((clusterDmas i).map (fun e => (s.engine e).descs.length)).sum
  | 2 => (s.engine i).descs.length
  | 3 => if (engineOf (s.yard (i / 32)) (i % 32)).cur.isSome then 1 else 0
  | 4 => (updWork s i).length
  | 5 => (s.ryu.tags.filter (fun t => match t.2.op with
      | some o => o.port == i
      | none => false)).length
  | 6 => (s.yards.map (fun p => ((openRows s p.1).filter (fun x => ((rowKey s x.1 x.2).map (farOf i)).getD false)).length)).sum
  | 7 => (s.yards.map (fun p => ((openRows s p.1).filter (fun x =>
      ((rowKey s x.1 x.2).map (fun key => decide (gddrBase + 2 ^ 34 * i ≤ key) && decide (key < gddrBase + 2 ^ 34 * (i + 1)))).getD false)).length)).sum
  | _ => 0

/-- RST (12). -/
def readRst (s : State) (off : Nat) : Word :=
  let x := s.rst
  let b := selectedBlock s
  let quiet := match b with
    | none => false
    | some p => x.quiesced.contains p
  match off with
  | 0x000 => regOf [bitF 0 x.ready, (1, 4, x.step), bitF 5 x.bgTest, bitF 6 x.shutdown, bitF 7 x.offReady]
  | 0x008 => regOf [(0, 4, x.source.toNat), (4, 3, x.scope.toNat), bitF 7 x.band, (8, 6, x.causeSail.toNat), (16, 48, x.causeTime.toNat)]
  | 0x010 => regOf [(0, 32, x.fuseMap.toNat), bitF 32 x.badEntry]
  | 0x020 => regOf [(0, 16, x.short.toNat), (16, 16, x.bandCount.toNat)]
  | 0x028 => regOf [bitF 1 x.sdIgnored]
  | 0x030 => regOf [(0, 3, x.blkKind.toNat), (16, 12, x.blkIndex.toNat)]
  | 0x038 => regOf [bitF 0 quiet]
  | 0x040 => regOf [
      bitF 0 quiet, bitF 1 (b.isSome && x.blockBusy == b), bitF 2 x.blkIgnored,
      (16, 16, min 65535 (match b with
        | none => 0
        | some (k, i) => blockInflight s k i))]
  | _ => 0

/-- The stretched cycles so far of the core islands of a cluster whose droop flags are set (R434). -/
def droopCycles (s : State) (c : Nat) : Nat :=
  (s.pwr.droop.map (fun d => match d.1 with
    | .core n _ => if n == c then (s.time - d.2).toNat * pointMhz (s.pwr.clk c).point.toNat / 1500 else 0
    | _ => 0)).sum

/-- CLK (14). -/
def readClk (s : State) (off : Nat) : Word :=
  let c := s.pwr.clkSel.toNat
  let k := s.pwr.clk c
  match off with
  | 0x000 => s.pwr.clkSel.zeroExtend 64
  | 0x008 => regOf [(0, 3, k.point.toNat), (3, 5, k.gate.toNat), (8, 3, k.target.toNat), bitF 11 k.held, bitF 12 (clusterDroops s.pwr c)]
  | 0x010 => k.stretch + BitVec.ofNat 64 (droopCycles s c)
  | _ => 0

/-- PWR (14, 15). -/
def readPwr (s : State) (off : Nat) : Word :=
  let x := s.pwr
  match off with
  | 0x000 => regOf [(0, 11, clampCap x.capHost.toNat)]
  | 0x008 => regOf [(0, 11, x.capTray.toNat), (11, 11, x.effective)]
  | 0x010 => regOf [(0, 16, x.mean.toNat), (16, 16, x.peak.toNat), (32, 16, x.fixed.toNat)]
  | 0x018 => x.energy
  | 0x020 => regOf [bitF 0 x.capLimited, bitF 1 x.capUnmet, bitF 2 x.fastClamp, bitF 3 x.thermThrottle, bitF 4 x.undervolt]
  | 0x028 => regOf [(0, 8, inputFaultByte x), (32, 32, x.fabShort.toNat)]
  | _ => 0

def shadowCode : ShadowSt → Nat
  | .empty => 0 | .loading => 1 | .valid => 2 | .rejected => 3

def phaseCode : RigPhase → Nat
  | .idle => 0 | .quiesce => 1 | .drain => 2 | .scrub => 3 | .cut => 4 | .release => 5

/-- RIG (08), through the primary PF of `port`. -/
def readRig (s : State) (port off : Nat) : Word :=
  let r := s.rig
  let digest := ((r.active.map (·.digest)).getD 0)
  match off with
  | 0x000 => regOf [bitF 0 r.active.isSome, (1, 3, shadowCode r.shadowSt), (4, 3, phaseCode r.phase), bitF 7 r.ignored, bitF 8 r.done]
  | 0x008 => if port = 0 then r.loadAddr[0] else r.loadAddr[1]
  | 0x010 => (if port = 0 then r.loadLen[0] else r.loadLen[1]).zeroExtend 64
  | 0x020 => regOf [(0, 8, r.error.rule.toNat), (8, 8, r.error.sec.toNat), (16, 32, r.error.entry.toNat)]
  | 0x028 => regOf [(0, 64, (r.active.map (·.serial)).getD 0)]
  | 0x030 => regOf [(0, 64, r.shadowSerial)]
  | 0x038 => regOf [(0, 64, r.highSerial)]
  | 0x040 => digest.extractLsb' 0 64
  | 0x048 => digest.extractLsb' 64 64
  | 0x050 => digest.extractLsb' 128 64
  | 0x058 => digest.extractLsb' 192 64
  | 0x060 => r.quiesce.zeroExtend 64
  | 0x068 => r.tSwap
  | 0x070 => r.tCut
  | 0x078 => r.tRelease
  | 0x080 => (r.active.map (·.created)).getD 0
  | _ => 0

/-! ### The diagnostics region (R295) -/

/-- The rate register of a channel: the nominal rate times the share that refresh and background activity leave. -/
def chanReg (s : State) (rc c nominal : Nat) (x : ChanRate) : Word :=
  regOf [(0, 16, reportedRate nominal (rateNow s (activeRig s) rc c)), bitF 16 x.hot, bitF 17 x.fenced, bitF 18 x.changed]

/-- YRD of yard `y` (04): the counters of a confidential sail read 0 (R373). -/
def readYrd (s : State) (y off : Nat) : Word :=
  let sl := (s.yard y).sailSel.toNat
  if off = 0 then regOf [(0, 4, y), (4, 8, 8 * y), (12, 4, (Config.dieRev y).toNat)]
  else if 0x040 ≤ off && off < 0x080 then
    let c := 8 * y + (off - 0x040) / 8
    chanReg s 0 c 2048 (s.tiers.chan.get ChanRate.reset c)
  else if off = 0x100 then (s.yard y).sailSel.zeroExtend 64
  else if s.confidential sl then 0
  else if 0x108 ≤ off && off < 0x148 then readYardCounter s y sl ((off - 0x108) / 8)
  else if off = 0x150 then readAborts s y sl
  else 0

/-- Whether the local port of a router belongs to a confidential sail (R373). -/
def routerMasked (s : State) (r : Nat) : Bool :=
  if r < 2304 then
    match s.clusterSail (routerCore r).1 with
    | none => false
    | some sl => s.confidential sl
  else false

/-- MESH (05). -/
def readMesh (s : State) (off : Nat) : Word :=
  let m := s.mesh
  let r := min m.rtrSel 2464
  let c := m.cnt.get RtrCounters.zero r
  match off with
  | 0x000 => regOf [(0, 15, m.period), bitF 15 m.boot, (16, 12, routers)]
  | 0x008 => regOf [(0, 64, m.slot.get 0 2464)]
  | 0x010 => regOf [(0, 12, m.switched.length), bitF 12 m.injected, bitF 13 m.complete]
  | 0x020 => regOf [(0, 12, m.rtrSel)]
  | 0x028 => regOf [
      (0, 1, if m.boot then 0 else activeBank s r), bitF 1 (m.shadowOk.get false r), bitF 2 (lfenced s r),
      (16, 12, if m.boot then (Config.bootEntries r).toNat else (m.banks.get [] (2 * r + activeBank s r)).length)]
  | 0x030 => if routerMasked s r then 0 else regOf [(0, 16, c.maxSlot.toNat), (16, 32, c.stretch.toNat)]
  | 0x038 => if routerMasked s r then 0 else regOf [(0, 16, c.crc.toNat), (16, 16, c.discard.toNat)]
  | _ => 0

/-- MEM (06). -/
def readMem (s : State) (off : Nat) : Word :=
  if off = 0x040 || off = 0x048 then
    let p := (off - 0x040) / 8
    let x := s.cxl p
    regOf [
      (0, 16, reportedRate 1280 (rateNow s (activeRig s) 2 p)), bitF 16 x.linkUp, bitF 17 x.fenced, (18, 3, x.expanders.length),
      (21, 12, x.segments), bitF 33 x.changed]
  else if off = 0x050 then regOf [(0, 32, s.tiers.staleWrites.toNat), (32, 32, s.tiers.staleReads.toNat)]
  else if 0x060 ≤ off && off < 0x0A0 then
    let i := (off - 0x060) / 8
    match (s.cxl (i / 4)).expanders[i % 4]? with
    | none => 0
    | some e => regOf [(0, 12, e.1), (12, 12, e.2), bitF 24 true]
  else if 0x100 ≤ off && off < 0x300 then
    let c := (off - 0x100) / 8
    chanReg s 1 c 320 (s.tiers.gchan.get ChanRate.reset c)
  else 0

/-- RYU (07). -/
def readRyu (s : State) (off : Nat) : Word :=
  let x := s.ryu
  let p := s.port x.portSel
  match off with
  | 0x000 => regOf [(0, 16, x.node), (16, 16, x.domain), (32, 16, x.manager), bitF 48 x.assigned]
  | 0x008 => regOf [(0, 5, x.portSel)]
  | 0x010 => regOf [
      bitF 0 (p.up && p.trained), bitF 1 p.fenced, bitF 2 p.peerMismatch, bitF 3 p.schedMismatch, (4, 4, p.polarity.toNat), (8, 8, p.laneMap.toNat),
      (16, 16, p.peerNode), (32, 5, p.peerPort)]
  | 0x018 => regOf [(0, 16, p.uncorr.toNat), (16, 16, p.crc.toNat), (32, 16, p.replays.toNat), (48, 8, p.retrains.toNat)]
  | 0x020 => p.corrected
  | 0x028 => regOf [
      (0, 16, allTags s), (16, 16, x.devPeak),
      (32, 11, (x.tags.filter (fun t => match t.2.op with
        | some o => o.port == x.portSel
        | none => false)).length)]
  | 0x030 => regOf [(0, 16, x.staleGen.toNat), (16, 16, x.late.toNat), (32, 16, x.auth.toNat), (48, 16, x.misroute.toNat)]
  | 0x038 => regOf [(0, 13, x.cleats.length), (13, 16, x.queries.toNat), (29, 16, x.rulings.toNat), (45, 16, x.stale.toNat)]
  | _ => 0

/-- Word `i` of an error record (R407): words 2 to 5 of a record that names a confidential sail read 0 (R408). -/
def logWord (r : LogRec) (i : Nat) : Word :=
  if r.conf && 2 ≤ i && i ≤ 5 then 0
  else match i with
    | 0 => r.time
    | 1 => regOf [
        (0, 4, r.cls.toNat), (4, 4, r.step.toNat), (8, 4, r.okind.toNat), (12, 16, r.index.toNat), (28, 6, r.sail.getD 0),
        bitF 34 r.sail.isSome, bitF 35 r.conf, (36, 11, r.ctx.getD 0), bitF 47 r.ctx.isSome, (48, 8, r.cause.toNat)]
    | 2 => r.addr
    | 5 => regOf [(0, 16, r.cmdId.toNat), (16, 16, r.queue.toNat), (32, 16, r.status.toNat)]
    | _ => 0

/-- TTL (13). -/
def readTtl (s : State) (off : Nat) : Word :=
  let t := s.ttl
  let k := t.selKind.toNat
  let i := t.selIndex.toNat
  if 0x010 ≤ off && off < 0x050 then
    match Tbl.look t.log t.logSel.toNat with
    | none => 0
    | some r => logWord r ((off - 0x010) / 8)
  else match off with
    | 0x000 => regOf [(0, 32, t.written.toNat), (32, 16, t.lost.toNat)]
    | 0x008 => t.logSel.zeroExtend 64
    | 0x050 => regOf [(0, 4, k), (16, 13, i)]
    | 0x058 =>
      if i < (telltaleKind k).1 then
        regOf [
          bitF 0 (objectBusy s k i), bitF 1 (s.tell k i).paused, bitF 2 (s.tell k i).hung,
          (16, 32, min (2 ^ 32 - 1) (totalProgress s k i - (s.tell k i).marks)), (48, 16, (s.tell k i).hangs.toNat)]
      else 0
    | 0x060 => regOf [
        (0, 3, ((t.steps.filter (fun x => x.ended.isNone)).map (·.code)).foldl max 0), bitF 3 (!t.replays.isEmpty),
        (16, 16, (t.replays.map (fun r => r.suspects.length)).sum), (32, 11, (t.replays.findSome? (·.cur)).getD 0)]
    | 0x068 => t.fwBeat
    | 0x070 => regOf [(6, 40, t.sampleBase.toNat), bitF 46 t.samplePort, (47, 6, t.sampleLog2.toNat)]
    | 0x078 => t.sampleProd
    | 0x080 => t.sampleCons
    | 0x088 => t.sampleDrop.zeroExtend 64
    | _ => 0

/-- TRM (14): a confidential sail's demand and phases read 0 through a PF. -/
def readTrm (s : State) (off : Nat) : Word :=
  let x := s.pwr
  let sl := x.sailSel.toNat
  let t := x.trim sl
  let th := x.thermOf x.thermSel.toNat
  match off with
  | 0x000 => x.sailSel.zeroExtend 64
  | 0x008 => regOf [
      (0, 16, t.share.toNat), (16, 16, if s.confidential sl then 0 else t.demand.toNat), (32, 3, t.point.toNat), (35, 5, t.gate.toNat),
      (40, 5, t.ygate.toNat), (45, 7, if s.confidential sl then 0 else t.phases.length)]
  | 0x020 => x.thermSel.zeroExtend 64
  | 0x028 => regOf [(0, 16, (BitVec.ofInt 16 th.temp).toNat), (16, 16, (BitVec.ofInt 16 th.max).toNat), bitF 32 th.throttle]
  | _ => 0

/-- BST (12). -/
def readBst (s : State) (off : Nat) : Word :=
  let r := s.rst.testRec
  match off with
  | 0x000 => regOf [
      bitF 0 r.valid, bitF 1 r.form, bitF 2 r.goldenBad, bitF 3 r.overflow, (12, 9, r.entries.length), (32, 32, r.seq.toNat)]
  | 0x008 => r.time
  | 0x010 => s.rst.entrySel.zeroExtend 64
  | 0x018 => match r.entries[s.rst.entrySel.toNat]? with
    | none => 0
    | some e => regOf [(0, 8, e.kind), (16, 16, e.index), (32, 8, e.test), (40, 8, if e.lasting then 2 else 1)]
  | _ => 0

/-- The diagnostics region (R295). -/
def readDiag (s : State) (off : Nat) : Word :=
  if off < 0x10000 then readYrd s (off / 0x1000) (off % 0x1000)
  else match off / 0x1000 with
    | 0x10 => readMesh s (off % 0x1000)
    | 0x11 => readMem s (off % 0x1000)
    | 0x12 => readRyu s (off % 0x1000)
    | 0x13 => readTtl s (off % 0x1000)
    | 0x14 => readTrm s (off % 0x1000)
    | 0x15 => readBst s (off % 0x1000)
    | _ => 0

/-! ### The BARs (R290, R294, R296) -/

/-- BAR0 of a primary physical function (R294). -/
def readPf (s : State) (port off : Nat) : Word :=
  if off < 0x10000 then readHif s port off
  else if off < 0x20000 then readSec s port (off - 0x10000)
  else if off < 0x24000 then readRst s (off - 0x20000)
  else if off < 0x28000 then readClk s (off - 0x24000)
  else if off < 0x30000 then readPwr s (off - 0x28000)
  else if 0x100000 ≤ off && off < 0x110000 then readRig s port (off - 0x100000)
  else if 0x200000 ≤ off && off < 0x300000 then readSailReg s (.pf port) ((off - 0x200000) / 0x4000) ((off - 0x200000) % 0x4000)
  else if 0x300000 ≤ off && off < 0x500000 then readCtxReg s (.pf port) ((off - 0x300000) / 0x400) ((off - 0x300000) % 0x400)
  else if 0x1000000 ≤ off && off < 0x2000000 then readDiag s (off - 0x1000000)
  else 0

/-- BAR0 and BAR2 of a virtual function (R290, R296). -/
def readVf (s : State) (port k bar off : Nat) : Word :=
  match s.vfSail port k with
  | none => 0
  | some sl =>
    match s.desc sl with
    | none => 0
    | some d =>
      if bar = 0 then
        if off < 0x18 then readHif s port off
        else if 0x4000 ≤ off && off < 0x8000 then readSailReg s (.vf port k) sl (off - 0x4000)
        else if 0x8000 ≤ off && decide ((off - 0x8000) / 0x400 < min d.ctxCount 224) then
          readCtxReg s (.vf port k) (d.ctxFirst + (off - 0x8000) / 0x400) ((off - 0x8000) % 0x400)
        else 0
      else if bar = 2 && decide (off / 0x1000 < min d.qCount 256) then
        readQueueReg s (.vf port k) (d.qFirst + off / 0x1000) (off % 0x1000)
      else 0

/-- What an aligned 8-byte read returns (R288, R294, R296). -/
def readReg64 (s : State) (fn : HostFn) (bar off : Nat) : Word :=
  match fn with
  | .pf p =>
    if bar = 0 then readPf s p off
    else if bar = 2 && off < 0x2000000 then readQueueReg s (.pf p) (off / 0x1000) (off % 0x1000)
    else 0
  | .vf p k => readVf s p k bar off
  | .sec p => if bar = 0 then readHif s p off else 0

/-- What a read of a register returns (R293): 8 bytes, or a half of a register in 4; 0 for any other access. -/
def readReg (s : State) (fn : HostFn) (bar off width : Nat) : Word :=
  if width = 8 && off % 8 == 0 then readReg64 s fn bar off
  else if width = 4 && off % 4 == 0 then
    ((readReg64 s fn bar (off / 8 * 8)).extractLsb' (if off % 8 = 0 then 0 else 32) 32).zeroExtend 64
  else 0

end Sys2Proof.Machine
end

