-- ==== Sys2Proof/Safety.lean ====
section
/-! DEFINITION. What counts as a safe step and the invariants of the block's state, in the terms that
the claims use.
Choices of the model here: log entry 17 (DESIGN CHOICE). -/

namespace Sys2Proof.Machine

open Sys2Proof

/-- A step that stops neither with a fault nor with a refusal. -/
def Outcome.isNext (o : Host.Outcome State Fault Refusal) : Bool :=
  match o with
  | .next _ => true
  | _ => false

/-! ### Core programs -/

/-- Program `p` stands on core `c` and issues its next instruction there (R51, R87 to R89): the core's island runs (R435) and the
word is fetched without a fault; `t` is the state after the fetch. -/
structure Runs (s : State) (c : CoreRef) (p : Prog) (t : State) : Prop where
  cluster : c.cluster < 64
  core : c.core < 34
  resident : s.prog c.key = some p
  issues : (s.core c.key).issues p = true
  notOverdue : p.yieldCount < 32768
  clocked : coreStopped s c.key = false
  fetched : ∃ key, fetch s c.key p = (t, .ok key)

/-- The words that core `c` may execute at the PC of program `p` spell instruction `i` (R61 to R63, R97). -/
def Coded (s : State) (c : CoreRef) (p : Prog) (t : State) (i : Instr) : Prop :=
  ∃ key, fetch s c.key p = (t, .ok key) ∧ speltBy c i (wordsAt t c.key p.ctx p.pc.toNat key) = .this

/-- Instruction `i`, whose word stands at the PC, answers `o`. -/
def Gives (s : State) (c : CoreRef) (p : Prog) (t : State) (i : Instr) (o : Out) : Prop :=
  Coded s c p t i → exec i s = o

/-- The program of core `k` becomes `p` and the core counts a progress event (R414); all else is as in `t`, and the queue of
commands, the rig and the global time counter are as in `s`. -/
def coreAfter (s t : State) (k : Nat) (p : Prog) : State :=
  { t.setCore k { t.core k with prog := some p, progress := (t.core k).progress + 1 } with
    pending := s.pending, rig := s.rig, time := s.time }

/-- A program that goes on: it has left its yield point and no instruction waits (R87). -/
def Prog.goesOn (p : Prog) (pc : BitVec 56) (loops : List LoopFrame) : Prog :=
  { p with pc := pc, loops := loops, atYield := false, waiting := none }

/-- A program that has written `v` to s[D], unless D is s0, and goes on with the next instruction. -/
def Prog.wroteS (p : Prog) (d : BitVec 5) (v : Word) : Prog :=
  { p with s := if d = 0 then p.s else p.s.set d.toNat v d.isLt }.goesOn (stepLoops p.pc p.loops).1 (stepLoops p.pc p.loops).2

/-- A program that has written `b` to p[D], unless D is p0, and goes on with the next instruction. -/
def Prog.wroteP (p : Prog) (d : BitVec 3) (b : Bool) : Prog :=
  { p with p := if d = 0 then p.p else setBit8 p.p d.toNat b }.goesOn (stepLoops p.pc p.loops).1 (stepLoops p.pc p.loops).2

/-- A program that goes on with the next instruction, otherwise unchanged. -/
def Prog.wentOn (p : Prog) : Prog := p.goesOn (stepLoops p.pc p.loops).1 (stepLoops p.pc p.loops).2

/-- The core instructions s[D] ← f(A, B) with both forms, and their results (R65). -/
def scalarOps : List ((CoreRef → Pred → AluForm → Instr) × (Word → Word → Word)) := [
  (.add, fun a b => a + b), (.sub, fun a b => a - b), (.mul, fun a b => a * b),
  (.mulhu, fun a b => (a.zeroExtend 128 * b.zeroExtend 128).extractLsb' 64 64),
  (.divu, fun a b => if b = 0 then BitVec.allOnes 64 else BitVec.ofNat 64 (a.toNat / b.toNat)),
  (.remu, fun a b => if b = 0 then a else BitVec.ofNat 64 (a.toNat % b.toNat)),
  (.and, fun a b => a &&& b), (.or, fun a b => a ||| b), (.xor, fun a b => a ^^^ b),
  (.sll, fun a b => a <<< (b.extractLsb' 0 6).toNat), (.srl, fun a b => a >>> (b.extractLsb' 0 6).toNat),
  (.sra, fun a b => a.sshiftRight (b.extractLsb' 0 6).toNat),
  (.min, fun a b => if a.toInt ≤ b.toInt then a else b), (.max, fun a b => if a.toInt ≤ b.toInt then b else a),
  (.minu, fun a b => if a.toNat ≤ b.toNat then a else b), (.maxu, fun a b => if a.toNat ≤ b.toNat then b else a)]

/-- The operations that a class lists, by CLASS (R62, R65 to R79). -/
def listedOps : List (List Nat) := [
  List.range 0x19 ++ [0x20, 0x21], List.range 0x19 ++ [0x20, 0x21], List.range 0x08,
  List.range 0x07 ++ [0x08, 0x09, 0x0A, 0x0B], List.range 0x11 ++ [0x12, 0x13, 0x14, 0x15], List.range 0x06, List.range 0x04,
  List.range 0x04, List.range 0x04, List.range 0x02, List.range 0x07, List.range 0x05]

/-- The compares p[D] ← r(A, B) (R65). -/
def compareOps : List ((CoreRef → Pred → AluForm → Instr) × (Word → Word → Bool)) := [
  (.ceq, fun a b => decide (a = b)), (.cne, fun a b => decide (a ≠ b)),
  (.clt, fun a b => decide (a.toInt < b.toInt)), (.cltu, fun a b => decide (a.toNat < b.toNat)),
  (.cge, fun a b => decide (b.toInt ≤ a.toInt)), (.cgeu, fun a b => decide (b.toNat ≤ a.toNat))]

/-- The loads with their widths in bytes and what they make of the bytes (R68). -/
def loadOps : List ((CoreRef → Pred → SmemFields → Instr) × Nat × (Nat → Word)) := [
  (.ld8u, 1, fun x => BitVec.ofNat 64 x), (.ld16u, 2, fun x => BitVec.ofNat 64 x), (.ld32u, 4, fun x => BitVec.ofNat 64 x),
  (.ld64, 8, fun x => BitVec.ofNat 64 x), (.ld8s, 1, fun x => (BitVec.ofNat 8 x).signExtend 64),
  (.ld16s, 2, fun x => (BitVec.ofNat 16 x).signExtend 64), (.ld32s, 4, fun x => (BitVec.ofNat 32 x).signExtend 64)]

/-- The stores with their widths in bytes (R68). -/
def storeOps : List ((CoreRef → Pred → SmemFields → Instr) × Nat) := [(.st8, 1), (.st16, 2), (.st32, 4), (.st64, 8)]

/-- What a core fault with a cause does to the program of core `k` in state `t`, as an outcome from `s` (R92 to R96). -/
def faulted (s t : State) (k : Nat) (p : Prog) (cause : CoreCause) : Out :=
  .next { countIssue (coreFault t k p cause) k with pending := s.pending, rig := s.rig, time := s.time }

/-- ILLEGAL_INSTRUCTION, decided before the instruction is issued (R64, R465). -/
def ruledOut (s t : State) (k : Nat) (p : Prog) : Out :=
  .next { coreFault t k p .illegalInstruction with pending := s.pending, rig := s.rig, time := s.time }

/-- The operations of class VALU with the formats that R69 allows, and those in which SAT may be 1. -/
def valuOps : List ((CoreRef → Pred → ValuFields → Instr) × VOp × List (BitVec 4) × List (BitVec 4)) := [
  (.vadd, .add, [0x0, 0x1, 0x9, 0xE], [0x9, 0xE]), (.vsub, .sub, [0x0, 0x1, 0x9, 0xE], [0x9, 0xE]),
  (.vmul, .mul, [0x0, 0x1, 0x9, 0xE], [0x9, 0xE]), (.vfma, .fma, [0x0, 0x1], []), (.vmin, .min, [0x0, 0x1, 0x9, 0xE], []),
  (.vmax, .max, [0x0, 0x1, 0x9, 0xE], []), (.vdiv, .div, [0x0], []), (.vrcp, .rcp, [0x0], []), (.vrsqrt, .rsqrt, [0x0], []),
  (.vexp2, .exp2, [0x0], []), (.vlog2, .log2, [0x0], []), (.vand, .and, [0xE], []), (.vor, .or, [0xE], []),
  (.vxor, .xor, [0xE], []), (.vshl, .shl, [0xE], []), (.vshr, .shr, [0xE], []), (.vbcast, .bcast, [0x0, 0xE], []),
  (.vredsum, .redsum, [0x0, 0xE], [0xE]), (.vredmax, .redmax, [0x0, 0xE], []), (.vmov, .mov, [0x0, 0x1, 0x9, 0xE], []),
  (.vsel, .sel, [0xE], [])]

/-- Vector work placed at the end of its queue. -/
def Prog.queuedVec (p : Prog) (w : VecWork) : Prog := { p with vecQ := p.vecQ ++ [{ work := w, pc := p.pc }] }

/-- The lane functions of the INT32 operations without SAT (R45, R69). -/
def intLanes : List (VOp × (Lane → Lane → Lane → Lane)) := [
  (.add, fun a b _ => a + b), (.sub, fun a b _ => a - b), (.mul, fun a b _ => a * b),
  (.min, fun a b _ => if a.toInt ≤ b.toInt then a else b), (.max, fun a b _ => if a.toInt ≤ b.toInt then b else a),
  (.and, fun a b _ => a &&& b), (.or, fun a b _ => a ||| b), (.xor, fun a b _ => a ^^^ b),
  (.shl, fun a b _ => a <<< (b.extractLsb' 0 5).toNat), (.shr, fun a b _ => a.sshiftRight (b.extractLsb' 0 5).toNat),
  (.sel, fun a b c => if c.getLsbD 0 then a else b)]

/-- Program `p` stands on core `c`, has not stopped, and `w` is the oldest work of its vector queue, before `rest`. -/
structure VecReady (s : State) (c : CoreRef) (p : Prog) (w : VecWork) (rest : List (Queued VecWork)) : Prop where
  resident : s.prog c.key = some p
  live : p.stopped = false
  head : ∃ pc, p.vecQ = { work := w, pc := pc } :: rest

/-- The same for the matrix queue. -/
structure MatReady (s : State) (c : CoreRef) (p : Prog) (w : MatWork) (rest : List (Queued MatWork)) : Prop where
  resident : s.prog c.key = some p
  live : p.stopped = false
  head : ∃ pc, p.matQ = { work := w, pc := pc } :: rest

/-- From `s` to `u` the program of core `k` has become `p`, flags `fl` have been raised in context `x` (R49), and nothing else
has changed but the memory, the poison marks and the core's progress. -/
structure CoreChange (s u : State) (k : Nat) (p : Prog) (x : Nat) (fl : BitVec 5) : Prop where
  prog : u.prog k = some p
  flags : u.ctx x = { s.ctx x with arith := (s.ctx x).arith ||| fl }
  otherCtx : ∀ j, j ≠ x → u.ctx j = s.ctx j
  otherCore : ∀ j, j ≠ k → u.core j = s.core j
  sameSlot : (u.core k).preempt = (s.core k).preempt ∧ (u.core k).saving = (s.core k).saving
  rest : u = { s with cores := u.cores, ctxs := u.ctxs, mem := u.mem, tiers := { s.tiers with poison := u.tiers.poison } }

/-- The six operations of class VMEM (R71). -/
def vmemOps : List ((CoreRef → Pred → VmemFields → Instr) × VmOp) :=
  [(.vld, .vld), (.vst, .vst), (.vlds, .vlds), (.vsts, .vsts), (.vgath, .vgath), (.vscat, .vscat)]

/-- The scratchpad address of lane `k` of a VMEM operation (R71). -/
def vmemLane (op : VmOp) (base x : Word) (idx : BitVec 2048) (k : Nat) : Word :=
  match op with
  | .vld | .vst => base + BitVec.ofNat 64 (4 * k)
  | .vlds | .vsts => base + BitVec.ofNat 64 k * x
  | .vgath | .vscat => base + (idx.extractLsb' (32 * k) 32).signExtend 64

/-- What a VMEM operation accesses: address, bytes and alignment of each access (R71). -/
def vmemSpans (op : VmOp) (base x : Word) (idx : BitVec 2048) : List (Word × Nat × Nat) :=
  match op with
  | .vld | .vst => [(base, 256, 32)]
  | _ => (List.range 64).map (fun k => (vmemLane op base x idx k, 4, 4))

/-- Whether lane `k` of an operation, whose scratchpad stands at key `b`, covers the byte at key `a`. -/
def laneCovers (b : Nat) (lane : Nat → Word) (a k : Nat) : Prop := b + (lane k).toNat ≤ a ∧ a < b + (lane k).toNat + 4

/-- The rounding of element `i` of a conversion under RM; SR takes the word that the generator of lane `i` gives when it
steps (R40). -/
def rndOf (p : Prog) (rm : BitVec 2) (steps : Bool) (i : Nat) : Rnd :=
  if rm = 0 then .rne else if rm = 1 then .rtz else if steps then .sr (srWord (srNext (p.gen i))) else .rne

/-- Matrix work placed at the end of its queue. -/
def Prog.queuedMat (p : Prog) (w : MatWork) : Prog := { p with matQ := p.matQ ++ [{ work := w, pc := p.pc }] }

/-- Stream work placed at the end of its queue. -/
def Prog.queuedStrm (p : Prog) (w : StrmWork) : Prog := { p with strmQ := p.strmQ ++ [{ work := w, pc := p.pc }] }

/-- A stream instruction has entered the stream queue of core `k` as work `w`, and the queue has gone on (R51), as an outcome from `s`
after state `t`. -/
def streamed (s t : State) (k : Nat) (p : Prog) (w : StrmWork) : Out :=
  .next { countIssue (runStream (t.setProg k (some (p.queuedStrm w).wentOn)) k) k with
    pending := s.pending, rig := s.rig, time := s.time }

/-- Transfer work placed at the end of its queue. -/
def Prog.queuedXfer (p : Prog) (w : XferWork) : Prog := { p with xferQ := p.xferQ ++ [{ work := w, pc := p.pc }] }

/-- An instruction waits, as an outcome from `s` after state `t` (R52, R87). -/
def waited (s t : State) (k : Nat) (p : Prog) (why : WaitFor) (i : Instr) (y : Bool) : Out :=
  .next { waitOn t k p why i y with pending := s.pending, rig := s.rig, time := s.time }

/-- The core that a core instruction is issued to; none for a command that is no core instruction. -/
def onCore (i : Instr) : Option CoreRef :=
  match i with
  | .add c _ _ | .sub c _ _ | .mul c _ _ | .mulhu c _ _ | .divu c _ _ | .remu c _ _ | .and c _ _ | .or c _ _
  | .xor c _ _ | .sll c _ _ | .srl c _ _ | .sra c _ _ | .min c _ _ | .max c _ _ | .minu c _ _ | .maxu c _ _
  | .ceq c _ _ | .cne c _ _ | .clt c _ _ | .cltu c _ _ | .cge c _ _ | .cgeu c _ _ | .pand c _ _ | .por c _ _
  | .pnot c _ _ | .li c _ _ | .lih c _ _ | .nop c _ _ | .br c _ _ | .brr c _ _ | .call c _ _ | .ret c _ _
  | .loop c _ _ | .yield c _ _ | .halt c _ _ | .ld8u c _ _ | .ld16u c _ _ | .ld32u c _ _ | .ld64 c _ _ | .ld8s c _ _
  | .ld16s c _ _ | .ld32s c _ _ | .st8 c _ _ | .st16 c _ _ | .st32 c _ _ | .st64 c _ _ | .vadd c _ _ | .vsub c _ _
  | .vmul c _ _ | .vfma c _ _ | .vmin c _ _ | .vmax c _ _ | .vdiv c _ _ | .vrcp c _ _ | .vrsqrt c _ _ | .vexp2 c _ _
  | .vlog2 c _ _ | .vand c _ _ | .vor c _ _ | .vxor c _ _ | .vshl c _ _ | .vshr c _ _ | .vbcast c _ _
  | .vredsum c _ _ | .vredmax c _ _ | .vmov c _ _ | .vsel c _ _ | .vld c _ _ | .vst c _ _ | .vlds c _ _ | .vsts c _ _
  | .vgath c _ _ | .vscat c _ _ | .vcvt c _ _ | .vmxq c _ _ | .vseed c _ _ | .vseedr c _ _ | .mma c _ _
  | .mzero c _ _ | .mld c _ _ | .mst c _ _ | .send c _ _ | .recv c _ _ | .req c _ _ | .sstat c _ _ | .cbmov c _ _
  | .dmasub c _ _ | .fence c _ _ | .waite c _ _ | .sete c _ _ | .adde c _ _ | .semacq c _ _ | .semtry c _ _
  | .semrel c _ _ | .csrr c _ _ | .csrw c _ _ | .flagr c _ _ | .flagc c _ _ | .time c _ _ => some c
  | _ => none

/-- The program of core `k` has become `q` from `t` on, the core counts a progress event, every other core and all else stand
but the places of received frames, whose contents stay; queue, rig and time are as in `s`. -/
structure CoreOnly (s t u : State) (k : Nat) (q : Prog) : Prop where
  prog : u.prog k = some q
  slot : u.core k = { t.core k with prog := some q, progress := (t.core k).progress + 1 }
  other : ∀ j, j ≠ k → u.core j = t.core j
  frames : ∀ j, u.mesh.rx.get [] j = t.mesh.rx.get [] j
  rest : u = { t with
    cores := u.cores, mesh := { t.mesh with rx := u.mesh.rx }, pending := s.pending, rig := s.rig, time := s.time }

/-! ### Yards -/

/-- The frames that wait on a tag, at its interface and at its unit, in the order in which they leave (R151). -/
def waitingFrames (s : State) (key : Nat) : List Frame := s.mesh.iface.get [] key ++ s.mesh.pend.get [] key

/-- The requests of a stream at its endpoint once the one of tag `tag` of core `lc` has its return (R155). -/
def withReturn (l : List EpReq) (lc tag : Nat) (st : Status) (b : List Byte) : List EpReq :=
  l.map (fun e => if e.lc = lc ∧ e.tag = tag ∧ e.ret = none then { e with ret := some (st, b, []) } else e)

/-- The frames of the returns with which a list of requests begins: only DONE carries bytes (R114, R155). -/
def returnFrames (key : Nat) (l : List EpReq) : List Frame :=
  (l.takeWhile (fun e => e.ret.isSome)).flatMap (fun e => match e.ret with
    | none => []
    | some (st, b, marks) => messageFrames e.sail (key % 4096) (some (e.seq, st)) marks (if st = .done then b else []))

/-- From `s` to `u` the request that tag `tag` of core `lc` made has its return at the endpoint of tag `key`, and the returns of its
stream that have no earlier one before them go out as frames (R155). -/
def returned (s u : State) (lc tag key : Nat) (st : Status) (b : List Byte) : Prop :=
  let l := withReturn (s.mesh.eps.get [] key) lc tag st b
  u.mesh.eps.get [] key = l.dropWhile (fun e => e.ret.isSome) ∧ waitingFrames u key = waitingFrames s key ++ returnFrames key l

/-- Entry `id` of yard `y` holds request `r`, which tag `tag` of core `lc` made; it stands at the endpoint of tag `key`, without a
return yet. -/
structure FromCore (s : State) (y id : Nat) (r : YReq) (lc tag key : Nat) : Prop where
  entry : s.yreq y id = some r
  source : ∃ st, r.from_ = .core lc tag st
  endpoint : endpointOf s lc tag = some key

/-- From `s` to `u` the request of a core in entry `id` of a yard has got its return: the entry is kept until the return is written, and the
returns of its stream that have no earlier one before them go out as frames (R86, R117, R155). -/
def answered (s u : State) (y id : Nat) (r : YReq) (lc tag key : Nat) (st : Status) (b : List Byte) : Prop :=
  u.yreq y id = some { r with phase := .returned, out := b } ∧ returned s u lc tag key st b

/-! ### Commands of queues -/

/-- From `s` to `u` command `n` of queue `q` has completed with `st`, at the present time; DONE of a replayed command reads
DONE_REPLAYED (R313). -/
def completed (s u : State) (q n : Nat) (st : Status) : Prop :=
  ∃ k c, s.cmd q n = some k ∧ u.cmd q n = some c ∧ c.raw = k.raw ∧ c.endAt = s.time ∧
    c.phase = .completed (if k.replayed = true ∧ st = .done then .doneReplayed else st)

/-- From `s` to `u` a range command has passed its invalidation point (R192, steps 1 and 2): MSEQ has advanced, the table is `table`,
the removed `spans` stay the mapping of the uses in flight (R193), and their drain runs for command `n` of queue `q`, with the spans of
memory whose cached lines go at its end. -/
def invalidated (s u : State) (c q n : Nat) (table spans refs : List RangeE) (lines : List (Nat × Nat)) (sync : Bool) : Prop :=
  (u.ctx c).ranges = table ∧ (u.ctx c).mseq = (s.ctx c).mseq + 1 ∧ (∀ d, d ≠ c → u.ctx d = s.ctx d) ∧ u.mem = s.mem ∧
  (u.ctx c).past = (s.ctx c).past ++ spans.map (fun e => { mseq := (s.ctx c).mseq + 1, old := e }) ∧
  (∃ k, u.cmd q n = some k ∧ k.phase = .executing) ∧
  (u.ctx c).drain = some {
    q := q, n := n, at_ := s.time, mseq := (s.ctx c).mseq + 1, spans := spans, lines := lines, sync := sync, newRefs := refs }

/-! ### The mesh -/

/-- What the source that an entry names by `code` brings from a router's inputs: the frame at the input's head, if there is one. -/
def sourceKind (s : State) (r code : Nat) : TokKind :=
  match dirs.find? (fun d => dirNo d + 1 == code && (linkEnd r d).isSome) with
  | none => .null
  | some d => match (tokensIn s r d).head? with
    | none => .null
    | some t => match t.kind with
      | .frame f => .frame f
      | _ => .null

/-- What is left of an input's tokens after a slot: a SKIP is consumed over its slots (R146). -/
def afterSlot : List Token → List Token
  | [] => []
  | t :: l => match t.kind with
    | .skip k => if k ≤ 1 then l else { kind := .skip (k - 1), swap := false } :: l
    | _ => l

/-! ### The Ryurun fabric -/

/-- A message with destination `dst` is for this device (R217, R223). -/
def forDevice (s : State) (dst : Nat) : Prop := dst = 0xFFFF ∨ (s.ryu.assigned = true ∧ dst = s.ryu.node)

/-- Message `m` comes on port `port` for sail `sl`: the port passes frames, and the message is for this device on a lease of the
sail (R217). -/
structure Comes (s : State) (port : Nat) (m : RyuMsg) (sl : Nat) : Prop where
  up : portUp s port = true
  here : forDevice s m.dst
  lease : leaseSail s port m.lease = some sl

/-- Message `m` is taken: it comes, and its tag is right under key slot `k`, which holds a key (R218). -/
structure Taken (s : State) (port : Nat) (m : RyuMsg) (sl : Nat) (k : KeySlot) : Prop where
  comes : Comes s port m sl
  sealed_ : m.enc = true ∧ m.tagOk = true
  keyed : k.st ≠ .empty

/-- Cleat message `m`, which resolves to key slot `slot` by the sail of its lease, is taken: it is the device's own, or it comes, is
right under the slot, and has the present generation (R217, R218, R241). -/
def cleatTaken (s : State) (m : CleatMsg) (slot : Nat → KeySlot) : Prop :=
  (m.port = 32 ∧ m.src = s.ryu.node) ∨
  (m.port ≠ 32 ∧ portUp s m.port = true ∧ forDevice s m.dst ∧ m.enc = true ∧ m.tagOk = true ∧
    ∃ sl, leaseSail s m.port m.lease = some sl ∧ (slot sl).st ≠ .empty ∧ m.keyGen = (slot sl).gen)

/-- Message `h` of the fabric manager is taken: on a port that carries lease 15, for this device, and after FM_ASSIGN from the manager
that it named (R217, R223, R259). -/
def fmTaken (s : State) (h : FmHdr) : Prop :=
  manages s h.port = true ∧ forDevice s h.dst ∧ (s.ryu.assigned = false ∨ h.src = s.ryu.manager)

/-- The messages that wait to be acknowledged by the fabric manager, with those of `l` after them, each under the next ARG (R259). -/
def toManager (s : State) (l : List FmOut) : List FmSend :=
  s.ryu.fmOut ++ l.zipIdx.map (fun x => { arg := s.ryu.fmSeq + BitVec.ofNat 64 x.2, msg := x.1, sent := false })

/-- From `s` to `u` the reply `op` of sail `sl` to message `m` has been put in the outbox, on port `p` (R224, R230). -/
def replied (s u : State) (sl p op : Nat) (m : RyuMsg) (st : Status) (l : List Byte) (marks : List Bool) : Prop :=
  u.ryu.outbox = s.ryu.outbox ++ [{
    port := p, dst := m.src, lease := (leaseOn s p sl).getD 15, tc := 1, op := op, tag := m.tag, tepoch := m.tepoch,
    keyGen := m.rKeyGen, rKeyGen := 0, xlen := 0, arg := st.code.zeroExtend 64, win := 0, enc := true, poison := marks, payload := l }]

/-- Export `e` serves message `m` of window `m.win`: its sail is not being recovered and the key generation is the present one
(R229). -/
structure Exported (s : State) (m : RyuMsg) (e : Export) : Prop where
  window : Tbl.look s.ryu.exports m.win = some e
  ready : (s.sail e.sail).recovering = false
  fresh : m.keyGen = (s.slot e.keyslot).gen

/-! ### The rig -/

/-- What every step keeps of the RIG block (R272, R273, R277): no active rig, and no rig that a swap has judged, has a serial above
the highest serial; a LOAD runs only outside a swap; a swap waits for the background test in its first phase only. -/
structure RigOk (r : RigSt) : Prop where
  active : ∀ a, r.active = some a → a.serial ≤ r.highSerial
  loading : r.loading.isSome = true → r.shadowSt = .loading ∧ r.phase = .idle
  judged : r.phase ≠ .idle → r.waits = false → ∀ b, r.shadow = some b → b.serial ≤ r.highSerial
  waiting : r.waits = true → r.phase = .quiesce

/-! ### Resets -/

/-- After a reset of WARM or COLD scope from `s` nothing of the compute state is left in `u`, and the bytes of in-package DRAM are
free values (R385). -/
structure StartsAgain (s u : State) : Prop where
  noRig : u.rig = { RigSt.reset with highSerial := s.rig.highSerial }
  empty : u.cores = [] ∧ u.ctxs = [] ∧ u.queues = [] ∧ u.sems = [] ∧ u.dma = [] ∧ u.sails = [] ∧ u.yards = [] ∧ u.groups = []
  lost : ∀ a, a < dramEnd → readB u a = Config.lostByte (s.free + 1) a

end Sys2Proof.Machine
end

