-- ==== Sys2Proof/Certificates/Slice0/Obligations.lean ====
section
/-! DEFINITION. The statements for the provers: one proposition per obligation of OBLIGATIONS.json. -/

open Sys2Proof Sys2Proof.Machine

/-! ### Core programs -/

/-- R65: the results of the scalar operations with a register and with an immediate operand, s0 discarding its write. -/
def Sys2Proof.Claims.ScalarResults : Prop :=
  ∀ (s : State) (c : CoreRef) (g : Pred) (p : Prog) (t : State), Runs s c p t → p.allows g = true →
    (∀ x ∈ scalarOps, ∀ d a : BitVec 5,
      (∀ b, Gives s c p t (x.1 c g (.reg d a b 0)) (.next (coreAfter s t c.key (p.wroteS d (x.2 (p.sreg a) (p.sreg b)))))) ∧
      (∀ i, Gives s c p t (x.1 c g (.imm d a i)) (.next (coreAfter s t c.key (p.wroteS d (x.2 (p.sreg a) (i.signExtend 64))))))) ∧
    (∀ (d a : BitVec 5) (i : BitVec 40),
      Gives s c p t (.li c g (.imm d a i)) (.next (coreAfter s t c.key (p.wroteS d (i.signExtend 64)))) ∧
      Gives s c p t (.lih c g (.imm d a i)) (.next (coreAfter s t c.key (p.wroteS d (i.extractLsb' 0 24 ++ (p.sreg d).extractLsb' 0 40 : BitVec 64)))))

/-- R65: compares and predicate operations write p[D], which p0 discards. -/
def Sys2Proof.Claims.ScalarPredicates : Prop :=
  ∀ (s : State) (c : CoreRef) (g : Pred) (p : Prog) (t : State), Runs s c p t → p.allows g = true →
    (∀ x ∈ compareOps, ∀ (d : BitVec 3) (a : BitVec 5),
      (∀ b, Gives s c p t (x.1 c g (.reg (d.zeroExtend 5) a b 0)) (.next (coreAfter s t c.key (p.wroteP d (x.2 (p.sreg a) (p.sreg b)))))) ∧
      (∀ i, Gives s c p t (x.1 c g (.imm (d.zeroExtend 5) a i)) (.next (coreAfter s t c.key (p.wroteP d (x.2 (p.sreg a) (i.signExtend 64))))))) ∧
    (∀ d a b : BitVec 3,
      Gives s c p t (.pand c g (.reg (d.zeroExtend 5) (a.zeroExtend 5) (b.zeroExtend 5) 0)) (.next (coreAfter s t c.key (p.wroteP d (p.preg a && p.preg b)))) ∧
      Gives s c p t (.por c g (.reg (d.zeroExtend 5) (a.zeroExtend 5) (b.zeroExtend 5) 0)) (.next (coreAfter s t c.key (p.wroteP d (p.preg a || p.preg b)))) ∧
      Gives s c p t (.pnot c g (.reg (d.zeroExtend 5) (a.zeroExtend 5) 0 0)) (.next (coreAfter s t c.key (p.wroteP d (!p.preg a)))))

/-- R65: bits [4:3] of a field that names a predicate and the B field of PNOT must be 0; PAND, POR and PNOT exist only in SALU, LI and LIH
only in SIMM. A breach raises ILLEGAL_INSTRUCTION. -/
def Sys2Proof.Claims.ScalarBreaches : Prop :=
  ∀ (s : State) (c : CoreRef) (g : Pred) (p : Prog) (t : State), Runs s c p t →
    let illegal : Out := ruledOut s t c.key p
    (∀ x ∈ compareOps, ∀ (d a : BitVec 5), 8 ≤ d.toNat →
      (∀ b, Gives s c p t (x.1 c g (.reg d a b 0)) illegal) ∧ ∀ i, Gives s c p t (x.1 c g (.imm d a i)) illegal) ∧
    (∀ d a b : BitVec 5, 8 ≤ d.toNat ∨ 8 ≤ a.toNat ∨ 8 ≤ b.toNat → Gives s c p t (.pand c g (.reg d a b 0)) illegal ∧
      Gives s c p t (.por c g (.reg d a b 0)) illegal ∧ Gives s c p t (.pnot c g (.reg d a b 0)) illegal) ∧
    (∀ d a b : BitVec 5, b ≠ 0 → Gives s c p t (.pnot c g (.reg d a b 0)) illegal) ∧
    (∀ d a i, Gives s c p t (.pand c g (.imm d a i)) illegal ∧ Gives s c p t (.por c g (.imm d a i)) illegal ∧
      Gives s c p t (.pnot c g (.imm d a i)) illegal) ∧
    (∀ d a b r, Gives s c p t (.li c g (.reg d a b r)) illegal ∧ Gives s c p t (.lih c g (.reg d a b r)) illegal)

/-- The scalar operations, compares and predicate operations, and the forms that they do not have.
Completes: add, sub, mul, mulhu, divu, remu, and, or, xor, sll, srl, sra, min, max, minu, maxu, ceq, cne, clt, cltu, cge, cgeu, pand, por,
pnot, li, lih. -/
def Obligations.ScalarOperations : Prop :=
  Claims.ScalarResults ∧ Claims.ScalarPredicates ∧ Claims.ScalarBreaches

/-- R66, R67, R87: where control flow goes on; a branch stays inside the bodies of the active loops. -/
def Sys2Proof.Claims.ControlFlow : Prop :=
  ∀ (s : State) (c : CoreRef) (g : Pred) (p : Prog) (t : State) (f : CtrlFields), Runs s c p t → p.allows g = true →
    Gives s c p t (.nop c g f) (.next (coreAfter s t c.key p.wentOn)) ∧
    (let dest := p.pc + 8 * f.off.signExtend 56
     (∀ l ∈ p.loops, l.first.toNat ≤ dest.toNat ∧ dest.toNat ≤ l.last.toNat) →
      Gives s c p t (.br c g f) (.next (coreAfter s t c.key (p.goesOn dest p.loops))) ∧
      Gives s c p t (.call c g f) (.next (coreAfter s t c.key
        ({ p with s := if f.b = 0 then p.s else p.s.set f.b.toNat ((p.pc + 8).zeroExtend 64) f.b.isLt }.goesOn dest p.loops)))) ∧
    (let dest := (p.sreg f.a).extractLsb' 0 56
     (p.sreg f.a).toNat % 8 = 0 → (∀ l ∈ p.loops, l.first.toNat ≤ dest.toNat ∧ dest.toNat ≤ l.last.toNat) →
      Gives s c p t (.brr c g f) (.next (coreAfter s t c.key (p.goesOn dest p.loops))) ∧
      Gives s c p t (.ret c g f) (.next (coreAfter s t c.key (p.goesOn dest p.loops)))) ∧
    (1 ≤ f.off.toInt → p.loops.length < 4 →
      Gives s c p t (.loop c g f) (.next (coreAfter s t c.key (
        if p.sreg f.a = 0 then
          p.goesOn (stepLoops (p.pc + 8 * f.off.signExtend 56) p.loops).1 (stepLoops (p.pc + 8 * f.off.signExtend 56) p.loops).2
        else
          p.goesOn (p.pc + 8)
            ({ first := p.pc + 8, last := p.pc + 8 * f.off.signExtend 56, count := p.sreg f.a } :: p.loops))))) ∧
    (f.live.toNat ≤ 128 →
      Gives s c p t (.yield c g f) (.next (coreAfter s t c.key { p.wentOn with live := f.live, yieldCount := 0, atYield := true }))) ∧
    (p.idle = true → Gives s c p t (.halt c g f) (.next { countIssue (endCopy (noteHalt t p) c.key) c.key with pending := s.pending, rig := s.rig, time := s.time }))

/-- R66: after the last instruction of a body the loop goes round while passes remain, else the enclosing loops are asked in
turn; elsewhere the PC moves by 8. -/
def Sys2Proof.Claims.LoopStack : Prop :=
  ∀ (pc : BitVec 56) (l : LoopFrame) (rest : List LoopFrame),
    stepLoops pc [] = (pc + 8, []) ∧
    (l.last ≠ pc → stepLoops pc (l :: rest) = (pc + 8, l :: rest)) ∧
    (l.last = pc → 1 < l.count.toNat → stepLoops pc (l :: rest) = (l.first, { l with count := l.count - 1 } :: rest)) ∧
    (l.last = pc → l.count.toNat ≤ 1 → stepLoops pc (l :: rest) = stepLoops pc rest)

/-- R66: the breaches of class CTRL: an address that is not a multiple of 8, a body below one instruction, a fifth loop, a branch out of
a body, a LIVE above 128. -/
def Sys2Proof.Claims.ControlBreaches : Prop :=
  ∀ (s : State) (c : CoreRef) (g : Pred) (p : Prog) (t : State) (f : CtrlFields), Runs s c p t →
    let illegal : Out := ruledOut s t c.key p
    let leaves := fun (dest : BitVec 56) => ∃ l ∈ p.loops, dest.toNat < l.first.toNat ∨ l.last.toNat < dest.toNat
    let reg := (p.sreg f.a).extractLsb' 0 56
    (f.off.toInt < 1 ∨ 4 ≤ p.loops.length → Gives s c p t (.loop c g f) illegal) ∧
    (128 < f.live.toNat → Gives s c p t (.yield c g f) illegal) ∧
    (leaves (p.pc + 8 * f.off.signExtend 56) → Gives s c p t (.br c g f) illegal ∧ Gives s c p t (.call c g f) illegal) ∧
    (leaves reg → Gives s c p t (.brr c g f) illegal ∧ Gives s c p t (.ret c g f) illegal) ∧
    (¬ leaves reg → p.allows g = true → (p.sreg f.a).toNat % 8 ≠ 0 →
      Gives s c p t (.brr c g f) (faulted s t c.key p .misaligned) ∧ Gives s c p t (.ret c g f) (faulted s t c.key p .misaligned))

/-- Control flow, the loop stack, and the breaches.
Completes: nop, br, brr, call, ret, loop, yield, halt. -/
def Obligations.ControlAndLoops : Prop := Claims.ControlFlow ∧ Claims.LoopStack ∧ Claims.ControlBreaches

/-- R62 to R64: nonzero reserved bits and a predicate field above 7 raise ILLEGAL_INSTRUCTION whatever the predicate holds. -/
def Sys2Proof.Claims.ScalarIllegal : Prop :=
  ∀ (s : State) (c : CoreRef) (g : Pred) (p : Prog) (t : State), Runs s c p t →
    let illegal : Out := ruledOut s t c.key p
    (∀ x ∈ scalarOps, ∀ d a b r, r ≠ 0 → Gives s c p t (x.1 c g (.reg d a b r)) illegal) ∧
    (∀ x ∈ compareOps, ∀ d a b r, r ≠ 0 ∨ 8 ≤ d.toNat → Gives s c p t (x.1 c g (.reg d a b r)) illegal) ∧
    ∀ d a b r, r ≠ 0 ∨ 8 ≤ d.toNat ∨ 8 ≤ a.toNat ∨ 8 ≤ b.toNat → Gives s c p t (.pand c g (.reg d a b r)) illegal ∧
      Gives s c p t (.por c g (.reg d a b r)) illegal ∧ Gives s c p t (.pnot c g (.reg d a b r)) illegal

/-- From the state `t` that the fetch leaves, an instruction with predicate field open is judged legal or illegal whatever the field
holds; an illegal one faults, a legal one that is not allowed only goes on. -/
def Sys2Proof.Claims.MaskedForm (s t : State) (c : CoreRef) (p : Prog) (x : Pred → Instr) : Prop :=
  ∃ bad : Bool, ∀ g,
    (bad = true → Gives s c p t (x g) (ruledOut s t c.key p)) ∧
    (bad = false → p.allows g = false → Gives s c p t (x g) (.next
      { countIssue (t.setProg c.key (some p.advance)) c.key with pending := s.pending, rig := s.rig, time := s.time }))

/-- R64: an instruction that its predicate does not allow has no effect, unless it is illegal. -/
def Sys2Proof.Claims.MaskedForms : Prop :=
  ∀ (s : State) (c : CoreRef) (p : Prog) (t : State), Runs s c p t →
    (∀ f : AluForm, ∀ x ∈ [Instr.add, .sub, .mul, .mulhu, .divu, .remu, .and, .or, .xor, .sll, .srl, .sra, .min, .max, .minu, .maxu,
      .ceq, .cne, .clt, .cltu, .cge, .cgeu, .pand, .por, .pnot, .li, .lih], Claims.MaskedForm s t c p (fun g => x c g f)) ∧
    (∀ f : CtrlFields, ∀ x ∈ [Instr.nop, .br, .brr, .call, .ret, .loop, .yield, .halt], Claims.MaskedForm s t c p (fun g => x c g f)) ∧
    (∀ f : SmemFields, ∀ x ∈ [Instr.ld8u, .ld16u, .ld32u, .ld64, .ld8s, .ld16s, .ld32s, .st8, .st16, .st32, .st64],
      Claims.MaskedForm s t c p (fun g => x c g f)) ∧
    (∀ f : ValuFields, ∀ x ∈ [Instr.vadd, .vsub, .vmul, .vfma, .vmin, .vmax, .vdiv, .vrcp, .vrsqrt, .vexp2, .vlog2, .vand, .vor, .vxor,
      .vshl, .vshr, .vbcast, .vredsum, .vredmax, .vmov, .vsel], Claims.MaskedForm s t c p (fun g => x c g f)) ∧
    (∀ f : VmemFields, ∀ x ∈ [Instr.vld, .vst, .vlds, .vsts, .vgath, .vscat], Claims.MaskedForm s t c p (fun g => x c g f)) ∧
    (∀ f : VcvtFields, ∀ x ∈ [Instr.vcvt, .vmxq, .vseed, .vseedr], Claims.MaskedForm s t c p (fun g => x c g f)) ∧
    (∀ f : MatFields, ∀ x ∈ [Instr.mma, .mzero, .mld, .mst], Claims.MaskedForm s t c p (fun g => x c g f)) ∧
    (∀ f : StrmFields, ∀ x ∈ [Instr.send, .recv, .req, .sstat], Claims.MaskedForm s t c p (fun g => x c g f)) ∧
    (∀ f : XferFields, ∀ x ∈ [Instr.cbmov, .dmasub], Claims.MaskedForm s t c p (fun g => x c g f)) ∧
    (∀ f : SyncFields, ∀ x ∈ [Instr.fence, .waite, .sete, .adde, .semacq, .semtry, .semrel], Claims.MaskedForm s t c p (fun g => x c g f)) ∧
    ∀ f : SysFields, ∀ x ∈ [Instr.csrr, .csrw, .flagr, .flagc, .time], Claims.MaskedForm s t c p (fun g => x c g f)

/-- Instructions that are masked, and scalar instructions that are illegal. -/
def Obligations.PredicateOff : Prop := Claims.MaskedForms ∧ Claims.ScalarIllegal

/-- R61, R62, R92: a word of a reserved CLASS, or of an OP that its class does not list, spells no instruction; a core whose words at the
PC spell none raises ILLEGAL_INSTRUCTION whatever is issued to it, and one whose words spell another instruction does not issue this
one (the model's choice, log entry 11). -/
def Sys2Proof.Claims.Spelling : Prop :=
  (∀ (c : CoreRef) (w : CoreWord), decodeWord c w = none ↔
    (w.extractLsb' 54 6).toNat ∉ listedOps.getD (w.extractLsb' 60 4).toNat []) ∧
  ∀ (s : State) (c : CoreRef) (p : Prog) (t : State) (key : Nat) (i : Instr), Runs s c p t → onCore i = some c →
    fetch s c.key p = (t, .ok key) →
    (speltBy c i (wordsAt t c.key p.ctx p.pc.toNat key) = .illegal → exec i s = ruledOut s t c.key p) ∧
    (speltBy c i (wordsAt t c.key p.ctx p.pc.toNat key) = .other → exec i s = .next s)

/-- R92, R96: a core fault is recorded in CTX_CORE_FAULT with its cause, LCORE, status and address while VALID is 0; while
VALID is 1 only MORE is set. -/
def Sys2Proof.Claims.FaultRecord : Prop :=
  ∀ (s : State) (c : Nat) (cause : CoreCause) (lcore : Nat) (pc : BitVec 56),
    ((s.ctx c).cf.valid = false → (recordCoreFault s c cause lcore pc).ctx c =
      { s.ctx c with cf := { cause := cause.code, lcore := BitVec.ofNat 12 lcore, status := cause.status.code, valid := true, more := false, pc := pc } }) ∧
    ((s.ctx c).cf.valid = true → (recordCoreFault s c cause lcore pc).ctx c =
      { s.ctx c with cf := { (s.ctx c).cf with more := true } }) ∧
    (∀ d, d ≠ c → (recordCoreFault s c cause lcore pc).ctx d = s.ctx d) ∧
    (cause.code = match cause with
      | .illegalInstruction => 0x01 | .misaligned => 0x02 | .spadRange => 0x03 | .cbRange => 0x04 | .descriptor => 0x05
      | .streamUnbound => 0x06 | .yieldOverdue => 0x07 | .fetch _ => 0x08 | .poison => 0x09 | .semRange => 0x0A
      | .semHolds => 0x0B | .semRevoked => 0x0C) ∧
    (cause.status = match cause with
      | .cbRange => .faultPermission | .semRange => .faultPermission | .poison => .faultPoison | .semRevoked => .semRevoked
      | .fetch st => st | _ => .malformed)

/-- Words at the PC that spell no instruction, and how a core fault is recorded. -/
def Obligations.CoreFaultRecord : Prop := Claims.Spelling ∧ Claims.FaultRecord

/-- R68, R81: a load reads the scratchpad after the vector work before it and writes s[D]; a misaligned address, an address
beyond the scratchpad and a poisoned granule fault. -/
def Sys2Proof.Claims.ScalarLoads : Prop :=
  ∀ (s : State) (c : CoreRef) (g : Pred) (p : Prog) (t : State) (f : SmemFields), Runs s c p t → p.allows g = true → f.rsv = 0 →
    ∀ x ∈ loadOps,
      let a := p.sreg f.a + f.off.signExtend 64
      (a.toNat % x.2.1 ≠ 0 → Gives s c p t (x.1 c g f) (faulted s t c.key p .misaligned)) ∧
      (a.toNat % x.2.1 = 0 → 0x80000 < a.toNat + x.2.1 → Gives s c p t (x.1 c g f) (faulted s t c.key p .spadRange)) ∧
      (a.toNat % x.2.1 = 0 → a.toNat + x.2.1 ≤ 0x80000 →
        ∀ p2 b, (drainVec t c.key).prog c.key = some p2 → (drainVec t c.key).spadBase c.key = some b →
          (anyPoison (drainVec t c.key) (b + a.toNat) x.2.1 = true →
            Gives s c p t (x.1 c g f) (faulted s (drainVec t c.key) c.key p2 .poison)) ∧
          (anyPoison (drainVec t c.key) (b + a.toNat) x.2.1 = false →
            Gives s c p t (x.1 c g f) (.next (coreAfter s (drainVec t c.key) c.key
              (p2.wroteS f.d (x.2.2 (readNat (drainVec t c.key) (b + a.toNat) x.2.1)))))))

/-- R68, R81: a store writes the low bytes of s[D], least significant first, at the address that the load of the same width
would read, and every other byte stays. -/
def Sys2Proof.Claims.ScalarStores : Prop :=
  ∀ (s : State) (c : CoreRef) (g : Pred) (p : Prog) (t : State) (f : SmemFields), Runs s c p t → p.allows g = true → f.rsv = 0 →
    ∀ x ∈ storeOps,
      let a := p.sreg f.a + f.off.signExtend 64
      (a.toNat % x.2 ≠ 0 → Gives s c p t (x.1 c g f) (faulted s t c.key p .misaligned)) ∧
      (a.toNat % x.2 = 0 → 0x80000 < a.toNat + x.2 → Gives s c p t (x.1 c g f) (faulted s t c.key p .spadRange)) ∧
      (a.toNat % x.2 = 0 → a.toNat + x.2 ≤ 0x80000 →
        ∀ v p2 b, v = drainVec t c.key → v.prog c.key = some p2 → v.spadBase c.key = some b →
          Coded s c p t (x.1 c g f) → ∃ u, exec (x.1 c g f) s = .next u ∧
            (∀ i, i < x.2 → readB u (b + a.toNat + i) = (p2.sreg f.d).extractLsb' (8 * i) 8) ∧
            (∀ j, (j < b + a.toNat ∨ b + a.toNat + x.2 ≤ j) → readB u j = readB v j) ∧
            u = coreAfter s { v with mem := u.mem, tiers := { v.tiers with poison := u.tiers.poison } } c.key p2.wentOn)

/-- The scalar loads and stores.
Completes: ld8u, ld16u, ld32u, ld64, ld8s, ld16s, ld32s, st8, st16, st32, st64. -/
def Obligations.ScalarMemory : Prop := Claims.ScalarLoads ∧ Claims.ScalarStores

/-- R51, R52, R69, R72: a vector instruction of a legal format is placed in the vector queue and issue goes on; with 8 pieces of
work in it the core stalls. -/
def Sys2Proof.Claims.VectorIssue : Prop :=
  ∀ (s : State) (c : CoreRef) (g : Pred) (p : Prog) (t : State), Runs s c p t → p.allows g = true →
    let put := fun (i : Instr) (w : VecWork) =>
      (p.vecQ.length < 8 → Gives s c p t i (.next (coreAfter s t c.key (p.queuedVec w).wentOn))) ∧
      (8 ≤ p.vecQ.length → Gives s c p t i (waited s t c.key p .vectorQueue i false))
    (∀ x ∈ valuOps, ∀ f : ValuFields, f.rsv = 0 → f.fmt ∈ x.2.2.1 → f.rm.toNat < 2 → (f.sat = true → f.fmt ∈ x.2.2.2) →
      put (x.1 c g f) (.alu x.2.1 f (p.sreg f.va))) ∧
    (∀ f : VcvtFields, cvtLegal f = true → put (.vcvt c g f) (.cvt f)) ∧
    (∀ f : VcvtFields, f.rsv = 0 → f.rm ≠ 3 → f.sf = 0 → 5 ≤ f.df.toNat → f.df.toNat ≤ 8 → put (.vmxq c g f) (.mxq f)) ∧
    (∀ f : VcvtFields, f.rsv = 0 → f.rm ≠ 3 → put (.vseed c g f) (.seed f) ∧ put (.vseedr c g f) (.seedr f))

/-- R69, R70, R49: what the completion of class VALU work writes to v[VD], element by element, and the flags it raises. -/
def Sys2Proof.Claims.VectorArithmetic : Prop :=
  ∀ (s : State) (c : CoreRef) (p : Prog) (op : VOp) (f : ValuFields) (sa : Word) (rest : List (Queued VecWork)) (fm : Fmt),
    VecReady s c p (.alu op f sa) rest → Fmt.ofCode f.fmt = some fm →
    ∃ u r fl, exec (.post c .vector) s = .next u ∧ CoreChange s u c.key ({ p with vecQ := rest }.setV f.vd r) p.ctx fl ∧
      u.mem = s.mem ∧ u.tiers = s.tiers ∧
      (op = .bcast → fl = 0 ∧ ∀ k, k < 64 → laneOf r k = sa.extractLsb' 0 32) ∧
      (op = .mov → fl = 0 ∧ r = p.vreg f.va) ∧
      ((op = .redsum ∨ op = .redmax) → ∀ k, 1 ≤ k → k < 64 → laneOf r k = 0) ∧
      (op ∉ [VOp.bcast, .mov, .redsum, .redmax] → ∀ i, i < 2048 / fm.width →
        packedElem fm.width r.toNat i =
          (aluElem op fm (if f.rm = 1 then .rtz else .rne) f.sat (packedElem fm.width (p.vreg f.va).toNat i)
            (packedElem fm.width (p.vreg f.vb).toNat i) (packedElem fm.width (p.vreg f.vc).toNat i)).1 % 2 ^ fm.width)

/-- R45, R69: the INT32 operations without SAT wrap modulo 2^32, raise no flag, and shift by the low five bits. -/
def Sys2Proof.Claims.VectorIntegers : Prop :=
  ∀ (s : State) (c : CoreRef) (p : Prog) (f : ValuFields) (sa : Word) (rest : List (Queued VecWork)), f.fmt = 0xE → f.sat = false →
    (∀ x ∈ intLanes, VecReady s c p (.alu x.1 f sa) rest →
      ∃ u q, exec (.post c .vector) s = .next u ∧ CoreChange s u c.key q p.ctx 0 ∧
        ∀ k, k < 64 → laneOf (q.vreg f.vd) k = x.2 (laneOf (p.vreg f.va) k) (laneOf (p.vreg f.vb) k) (laneOf (p.vreg f.vc) k)) ∧
    (VecReady s c p (.alu .redsum f sa) rest →
      ∃ u q, exec (.post c .vector) s = .next u ∧ CoreChange s u c.key q p.ctx 0 ∧
        laneOf (q.vreg f.vd) 0 = ((List.range 64).map (laneOf (p.vreg f.va))).sum)

/-- The results of vector arithmetic.
Completes: post. -/
def Obligations.VectorResults : Prop := Claims.VectorArithmetic ∧ Claims.VectorIntegers

/-- R71, R81, R93: a vector memory access is judged at issue over all its lanes, after the vector work before it: alignment
before range before poison; an access without a fault is queued. -/
def Sys2Proof.Claims.VectorMemoryIssue : Prop :=
  ∀ (s : State) (c : CoreRef) (g : Pred) (p : Prog) (t : State) (f : VmemFields), Runs s c p t → p.allows g = true → f.rsv = 0 →
    ∀ x ∈ vmemOps,
      (8 ≤ p.vecQ.length → Gives s c p t (x.1 c g f) (waited s t c.key p .vectorQueue (x.1 c g f) false)) ∧
      (p.vecQ.length < 8 → ∀ v p2 b, v = drainVec t c.key → v.prog c.key = some p2 → v.spadBase c.key = some b →
        let base := p2.sreg f.a + f.off.signExtend 64
        let sp := vmemSpans x.2 base (p2.sreg f.x) (p2.vreg f.x)
        ((∃ a ∈ sp, a.1.toNat % a.2.2 ≠ 0) → Gives s c p t (x.1 c g f) (faulted s v c.key p2 .misaligned)) ∧
        ((∀ a ∈ sp, a.1.toNat % a.2.2 = 0) → (∃ a ∈ sp, 0x80000 < a.1.toNat + a.2.1) →
          Gives s c p t (x.1 c g f) (faulted s v c.key p2 .spadRange)) ∧
        ((∀ a ∈ sp, a.1.toNat % a.2.2 = 0) → (∀ a ∈ sp, a.1.toNat + a.2.1 ≤ 0x80000) →
          (x.2 = .vld ∨ x.2 = .vlds ∨ x.2 = .vgath) → (∃ a ∈ sp, anyPoison v (b + a.1.toNat) a.2.1 = true) →
          Gives s c p t (x.1 c g f) (faulted s v c.key p2 .poison)) ∧
        ((∀ a ∈ sp, a.1.toNat % a.2.2 = 0) → (∀ a ∈ sp, a.1.toNat + a.2.1 ≤ 0x80000) →
          (x.2 = .vst ∨ x.2 = .vsts ∨ x.2 = .vscat ∨ ∀ a ∈ sp, anyPoison v (b + a.1.toNat) a.2.1 = false) →
          Gives s c p t (x.1 c g f) (.next (coreAfter s v c.key (p2.queuedVec (.mem x.2 f base (p2.sreg f.x))).wentOn))))

/-- R71: when vector memory work completes, a load writes v[V] lane by lane and leaves memory as it is; a store writes the
lanes of v[V] in increasing lane order, so that the highest lane of a byte stands, and leaves every other byte.
Completes: post. -/
def Obligations.VectorMemoryEffect : Prop :=
  ∀ (s : State) (c : CoreRef) (p : Prog) (op : VmOp) (f : VmemFields) (base x : Word) (rest : List (Queued VecWork)) (b : Nat),
    VecReady s c p (.mem op f base x) rest → s.spadBase c.key = some b →
    (∀ a ∈ vmemSpans op base x (p.vreg f.x), a.1.toNat + a.2.1 ≤ 0x80000) →
    let lane := vmemLane op base x (p.vreg f.x)
    ∃ u q, exec (.post c .vector) s = .next u ∧ CoreChange s u c.key q p.ctx 0 ∧
      ((op = .vld ∨ op = .vlds ∨ op = .vgath) → u.mem = s.mem ∧ u.tiers = s.tiers ∧
        ∃ r, q = { p with vecQ := rest }.setV f.v r ∧
          ∀ k, k < 64 → laneOf r k = BitVec.ofNat 32 (readNat s (b + (lane k).toNat) 4)) ∧
      ((op = .vst ∨ op = .vsts ∨ op = .vscat) → q = { p with vecQ := rest } ∧
        (∀ a k, k < 64 → laneCovers b lane a k → (∀ j, k < j → j < 64 → ¬ laneCovers b lane a j) →
          readB u a = (laneOf (p.vreg f.v) k).extractLsb' (8 * (a - (b + (lane k).toNat))) 8) ∧
        (∀ a, (∀ k, k < 64 → ¬ laneCovers b lane a k) → readB u a = readB s a))

/-- R39, R40, R42 to R44, R72: conversions of 64 values, blocks of 32 for VMXQ, and the generators; under SR the generator of
each lane that rounds steps once.
Completes: post. -/
def Obligations.VectorConversions : Prop :=
  ∀ (s : State) (c : CoreRef) (p : Prog) (f : VcvtFields) (rest : List (Queued VecWork)),
    (∀ sf df, Fmt.ofCode f.sf = some sf → Fmt.ofCode f.df = some df → cvtListed sf df = true → f.rm ≠ 3 →
      VecReady s c p (.cvt f) rest →
      ∃ u q fl, exec (.post c .vector) s = .next u ∧ CoreChange s u c.key q p.ctx fl ∧ u.mem = s.mem ∧ u.tiers = s.tiers ∧
        q = { p with vecQ := rest, v := q.v, gens := q.gens } ∧ (∀ r, r ≠ f.vd → q.vreg r = p.vreg r) ∧
        (q.vreg f.vd).toNat < 2 ^ (64 * df.width) ∧
        ∀ i, i < 64 →
          packedElem df.width (q.vreg f.vd).toNat i = (convert sf df (rndOf p f.rm (cvtSteps sf df) i) f.ovf f.shift.toNat
            (decodeElem sf (packedElem sf.width (p.vreg f.va).toNat i))).1 % 2 ^ df.width ∧
          q.gen i = if f.rm = 2 ∧ cvtSteps sf df = true then srNext (p.gen i) else p.gen i) ∧
    (∀ df, Fmt.ofCode f.df = some df → df.isMx = true → f.rm ≠ 3 → VecReady s c p (.mxq f) rest →
      ∃ u q fl, exec (.post c .vector) s = .next u ∧ CoreChange s u c.key q p.ctx fl ∧ u.mem = s.mem ∧ u.tiers = s.tiers ∧
        q = { p with vecQ := rest, v := q.v, s := q.s, gens := q.gens } ∧ (∀ r, r ≠ f.vd → q.vreg r = p.vreg r) ∧
        (∀ r, r ≠ f.sd → q.sreg r = p.sreg r) ∧
        ∀ j, j < 2 →
          let vs := (List.range 32).map (fun i => decodeElem .fp32 (laneOf (p.vreg f.va) (32 * j + i)).toNat)
          (∀ i, i < 32 → q.gen (32 * j + i) =
            if f.rm = 2 ∧ (mxScale df vs).join.isSome = true then srNext (p.gen (32 * j + i)) else p.gen (32 * j + i)) ∧
          (mxScale df vs = none → (f.sd ≠ 0 → (q.sreg f.sd).extractLsb' (8 * j) 8 = 255) ∧
            ∀ i, i < 32 → packedElem df.width (q.vreg f.vd).toNat (32 * j + i) = 0) ∧
          (mxScale df vs = some none → f.sd ≠ 0 → (q.sreg f.sd).extractLsb' (8 * j) 8 = 0) ∧
          (∀ x, mxScale df vs = some (some x) →
            (f.sd ≠ 0 → (q.sreg f.sd).extractLsb' (8 * j) 8 = BitVec.ofInt 8 (x + 127)) ∧
            ∀ i, i < 32 → packedElem df.width (q.vreg f.vd).toNat (32 * j + i) =
              (mxElement df x (rndOf p f.rm true (32 * j + i))
                (decodeElem .fp32 (laneOf (p.vreg f.va) (32 * j + i)).toNat)).1 % 2 ^ df.width)) ∧
    (VecReady s c p (.seed f) rest →
      ∃ u q, exec (.post c .vector) s = .next u ∧ CoreChange s u c.key q p.ctx 0 ∧ u.mem = s.mem ∧ u.tiers = s.tiers ∧
        q = { p with vecQ := rest, gens := q.gens } ∧
        ∀ i, i < 64 → q.gen i =
          if laneOf (p.vreg f.va) i = 0 then BitVec.ofNat 32 (0x9E3779B9 + i + 64 * p.lcore) else laneOf (p.vreg f.va) i) ∧
    (VecReady s c p (.seedr f) rest →
      ∃ u r, exec (.post c .vector) s = .next u ∧ CoreChange s u c.key ({ p with vecQ := rest }.setV f.vd r) p.ctx 0 ∧
        u.mem = s.mem ∧ u.tiers = s.tiers ∧ ∀ i, i < 64 → laneOf r i = p.gen i)

/-- R52, R73, R74: a legal matrix instruction is placed in the matrix queue, which holds 2, with its scalar operands read at
issue. -/
def Sys2Proof.Claims.MatrixIssue : Prop :=
  ∀ (s : State) (c : CoreRef) (g : Pred) (p : Prog) (t : State) (f : MatFields), Runs s c p t → p.allows g = true → f.rsv = 0 →
    let put := fun (i : Instr) (w : MatWork) =>
      (p.matQ.length < 2 → Gives s c p t i (.next (coreAfter s t c.key (p.queuedMat w).wentOn))) ∧
      (2 ≤ p.matQ.length → Gives s c p t i (waited s t c.key p .matrixQueue i false))
    ((f.z = true ∨ ∀ fa fb tag, (matDesc (p.sreg f.da)).fmt = some fa → (matDesc (p.sreg f.db)).fmt = some fb →
        pairTag fa fb = some tag → effTag p f.acc = tag) →
      put (.mma c g f) (.mma f (p.sreg f.da) (p.sreg f.db) (p.sreg f.ks))) ∧
    (f.fmt = 0x0 ∨ f.fmt = 0xE → put (.mzero c g f) (.mzero f) ∧ put (.mld c g f) (.mld f (p.sreg f.da))) ∧
    (f.rm ≠ 3 → mstLegal (effTag p f.acc) f.fmt = true → badSpace (p.sreg f.da) = false →
      (mstIsMx f = true → badSpace (p.sreg f.db) = false ∧ (p.sreg f.db).toNat % 32 = 0) →
      put (.mst c g f) (.mst f (p.sreg f.da) (p.sreg f.db)))

/-- R33 to R37, R73 to R77: what completed matrix work leaves in its accumulator or stores, and the post of its event. -/
def Sys2Proof.Claims.MatrixEffect : Prop :=
  ∀ (s : State) (c : CoreRef) (p : Prog) (f : MatFields) (rest : List (Queued MatWork)) (b : Nat), s.spadBase c.key = some b →
    (∀ da db kw fa fb tag, MatReady s c p (.mma f da db kw) rest →
      (matDesc da).fmt = some fa → (matDesc db).fmt = some fb → pairTag fa fb = some tag →
      descBad (matDesc da) fa kw.toNat = false → descBad (matDesc db) fb kw.toNat = false → kLegal fa fb kw.toNat = true →
      (∀ x ∈ descSpans (matDesc da) fa kw.toNat ++ descSpans (matDesc db) fb kw.toNat, anyPoison s (b + x.1) x.2 = false) →
      ∃ u a fl, exec (.post c .matrix) s = .next u ∧
        CoreChange s u c.key (({ p with matQ := rest }.setAcc f.acc a).post f.post f.evt) p.ctx fl ∧
        u.mem = s.mem ∧ u.tiers = s.tiers ∧ a.tag = tag ∧
        let x := readOperand s b (matDesc da) fa kw.toNat
        let y := readOperand s b (matDesc db) fb kw.toNat
        let a0 := fun i => if f.z then 0 else (p.accum f.acc).elem i
        ∀ m n, m < 32 → n < 32 →
          a.elem (32 * m + n) = (mmaElem tag x y kw.toNat m n (a0 (32 * m + n))).1 ∧
          (tag = .int32 → kw.toNat ≤ 32 → a.elem (32 * m + n) = BitVec.ofInt 32 (max (-2147483648) (min 2147483647
            ((a0 (32 * m + n)).toInt + ((List.range kw.toNat).map (fun k => (x.elem m k).toInt * (y.elem n k).toInt)).sum))))) ∧
    (MatReady s c p (.mzero f) rest → ∀ tag, tagOf f.fmt = some tag →
      ∃ u, exec (.post c .matrix) s = .next u ∧ u.mem = s.mem ∧ u.tiers = s.tiers ∧
        CoreChange s u c.key (({ p with matQ := rest }.setAcc f.acc { tag := tag, el := [] }).post f.post f.evt) p.ctx 0) ∧
    (∀ a : Word, MatReady s c p (.mld f a) rest → ∀ tag, tagOf f.fmt = some tag →
      a.toNat + 4096 ≤ 0x80000 → anyPoison s (b + a.toNat) 4096 = false →
      ∃ u acc, exec (.post c .matrix) s = .next u ∧ u.mem = s.mem ∧ u.tiers = s.tiers ∧ acc.tag = tag ∧
        CoreChange s u c.key (({ p with matQ := rest }.setAcc f.acc acc).post f.post f.evt) p.ctx 0 ∧
        ∀ i, i < 1024 → acc.elem i = BitVec.ofNat 32 (readNat s (b + a.toNat + 4 * i) 4)) ∧
    (∀ da db dst key, MatReady s c p (.mst f da db) rest → Fmt.ofCode f.fmt = some dst → dst.isMx = false →
      fullRange s p da (128 * dst.width) = none → fullKey s c.key p da = some key →
      ∃ (u : State) (q : Prog) (fl : BitVec 5), exec (.post c .matrix) s = .next u ∧ CoreChange s u c.key (q.post f.post f.evt) p.ctx fl ∧
        q = { p with matQ := rest, gens := q.gens } ∧
        (∀ j, (j < key ∨ key + 128 * dst.width ≤ j) → readB u j = readB s j) ∧
        ∀ i, i < 1024 →
          (dst = (p.accum f.acc).tag.fmt → readNat u (key + 4 * i) 4 = ((p.accum f.acc).elem i).toNat) ∧
          (dst ≠ (p.accum f.acc).tag.fmt → (f.rm = 0 ∨ f.rm = 1) →
            packedElem dst.width (readNat u key (128 * dst.width)) i =
              (convert (p.accum f.acc).tag.fmt dst (rndOf p f.rm true i) f.ovf 0
                (decodeElem (p.accum f.acc).tag.fmt ((p.accum f.acc).elem i).toNat)).1 % 2 ^ dst.width))

/-- R74, R43: an MST to an MX format stores element codes at s[DA] and one scale byte for each row at s[DB]. -/
def Sys2Proof.Claims.MatrixStoreScaled : Prop :=
  ∀ (s : State) (c : CoreRef) (p : Prog) (f : MatFields) (rest : List (Queued MatWork)) (da db : Word) (dst : Fmt) (key sk : Nat),
    MatReady s c p (.mst f da db) rest → (∃ b, s.spadBase c.key = some b) → Fmt.ofCode f.fmt = some dst → dst.isMx = true →
    fullRange s p da (128 * dst.width) = none → fullRange s p db 32 = none →
    fullKey s c.key p da = some key → fullKey s c.key p db = some sk → (sk + 32 ≤ key ∨ key + 128 * dst.width ≤ sk) →
    (f.rm = 0 ∨ f.rm = 1) →
    ∃ u fl, exec (.post c .matrix) s = .next u ∧ CoreChange s u c.key ({ p with matQ := rest }.post f.post f.evt) p.ctx fl ∧
      (∀ j, (j < key ∨ key + 128 * dst.width ≤ j) → (j < sk ∨ sk + 32 ≤ j) → readB u j = readB s j) ∧
      ∀ m, m < 32 →
        let vs := (List.range 32).map (fun n => decodeElem .fp32 ((p.accum f.acc).elem (32 * m + n)).toNat)
        (mxScale dst vs = none → readB u (sk + m) = 255) ∧
        (mxScale dst vs = some none → readB u (sk + m) = 0) ∧
        (∀ x, mxScale dst vs = some (some x) → readB u (sk + m) = BitVec.ofInt 8 (x + 127) ∧
          ∀ n, n < 32 → packedElem dst.width (readNat u key (128 * dst.width)) (32 * m + n) =
            (mxElement dst x (rndOf p f.rm true n)
              (decodeElem .fp32 ((p.accum f.acc).elem (32 * m + n)).toNat)).1 % 2 ^ dst.width)

/-- The results of the matrix instructions.
Completes: post. -/
def Obligations.MatrixResults : Prop := Claims.MatrixEffect ∧ Claims.MatrixStoreScaled

/-- R52, R79, R84, R85: SEND and RECV judge the stream, then alignment and length, then the range; a full stream queue makes
them wait, else they enter the queue, which goes on in its order (R51). -/
def Sys2Proof.Claims.StreamIssue : Prop :=
  ∀ (s : State) (c : CoreRef) (g : Pred) (p : Prog) (t : State) (f : StrmFields), Runs s c p t → p.allows g = true → f.rsv = 0 →
    badSpace (p.sreg f.a) = false →
    let a := p.sreg f.a
    let n := (p.sreg f.b).toNat
    ∀ x ∈ [(Instr.send c g f, sendDef t c.key f.st, StrmWork.send f a n 0), (Instr.recv c g f, recvDef t c.key f.st, StrmWork.recv f a n)],
      (x.2.1 = none → Gives s c p t x.1 (faulted s t c.key p .streamUnbound)) ∧
      (x.2.1 ≠ none → (a.toNat % 32 ≠ 0 ∨ n % 32 ≠ 0 ∨ n < 32 ∨ 0x400000 < n) → Gives s c p t x.1 (faulted s t c.key p .misaligned)) ∧
      (x.2.1 ≠ none → a.toNat % 32 = 0 → n % 32 = 0 → 32 ≤ n → n ≤ 0x400000 →
        (∀ e, fullRange t p a n = some e → Gives s c p t x.1 (faulted s t c.key p e)) ∧
        (fullRange t p a n = none → 16 ≤ p.strmQ.length → Gives s c p t x.1 (waited s t c.key p .streamQueue x.1 true)) ∧
        (fullRange t p a n = none → p.strmQ.length < 16 → Gives s c p t x.1 (streamed s t c.key p x.2.2)))

/-- R51, R79, R85, R94: what the stream unit does with the head of its queue: a SEND stays until its last byte has left, a RECV is
posted, an SSTAT reads and clears the error of its stream, a REQ hands the frames of its record to the interface under its tag. -/
def Sys2Proof.Claims.StreamHead : Prop :=
  ∀ (s : State) (k : Nat) (p : Prog) (f : StrmFields) (pc : BitVec 56) (rest : List (Queued StrmWork)), s.prog k = some p →
    (p.strmQ = [] → runHead s k = s) ∧
    (∀ a n done, p.strmQ = { work := .send f a n done, pc := pc } :: rest → runHead s k = s) ∧
    (∀ a n r, p.strmQ = { work := .recv f a n, pc := pc } :: rest → s.coreRouter k = some r →
      s.mesh.rx.get [] (tagKey r f.st.toNat) = [] →
      (runHead s k).prog k = some { p with strmQ := rest, recvs := p.recvs ++ [{ f := f, a := a, len := n, filled := 0 }] } ∧
      (runHead s k).mem = s.mem ∧ ∀ j, j ≠ k → (runHead s k).core j = s.core j) ∧
    (∀ v : Word, p.strmQ = { work := .sstat f, pc := pc } :: rest →
      (v = 0 ∧ (∀ x ∈ p.errs, x.st ≠ f.st)) ∨ (∃ x pre post, p.errs = pre ++ x :: post ∧ x.st = f.st ∧ (∀ y ∈ pre, y.st ≠ f.st) ∧
        v = x.status.code.zeroExtend 64) →
      runHead s k = s.setProg k (some
        (({ p with strmQ := rest, errs := p.errs.filter (fun x => x.st != f.st) }.setS f.a v).post f.post f.evt))) ∧
    (∀ tag a len b d r, p.strmQ = { work := .req f tag a len, pc := pc } :: rest → s.spadBase k = some b →
      s.coreRouter k = some r → reqDef s k f.st = some d →
      (anyPoison s (b + a.toNat) len = true → runHead s k = coreFaultAt s k pc .poison) ∧
      (anyPoison s (b + a.toNat) len = false → ∀ q ∈ p.reqs, q.tag = tag → (∀ x ∈ p.reqs, x.tag = tag → x = q) →
        let u := runHead s k
        u.prog k = some { p with strmQ := rest, reqs := p.reqs.map (fun x => if x.tag = tag then { x with at_ := .mesh } else x) } ∧
        u.mesh.iface.get [] (tagKey r f.st.toNat) ++ u.mesh.pend.get [] (tagKey r f.st.toNat) =
          s.mesh.iface.get [] (tagKey r f.st.toNat) ++ s.mesh.pend.get [] (tagKey r f.st.toNat) ++
            messageFrames d.sail f.st.toNat (some (q.seq, .done)) [] (readBytes s (b + a.toNat) len) ∧
        u.mem = s.mem ∧ ∀ j, j ≠ k → u.core j = s.core j))

/-- Issue of the instructions that the queues of a core take.
Completes: vadd, vsub, vmul, vfma, vmin, vmax, vdiv, vrcp, vrsqrt, vexp2, vlog2, vand, vor, vxor, vshl, vshr, vbcast, vredsum, vredmax,
vmov, vsel, vld, vst, vlds, vsts, vgath, vscat, vcvt, vmxq, vseed, vseedr, mma, mzero, mld, mst, send, recv. -/
def Obligations.QueuedIssue : Prop :=
  Claims.VectorIssue ∧ Claims.VectorMemoryIssue ∧ Claims.MatrixIssue ∧ Claims.StreamIssue ∧ Claims.StreamHead

/-- R51, R80, R85: the SEND at the head of the queue completes once its last byte has left the core, and the queue goes on; the oldest
receive of a stream completes once its buffer is full; each posts its event. A frame that waits for a buffer fills the buffer posted
for it.
Completes: post. -/
def Obligations.StreamEffect : Prop :=
  ∀ (s : State) (c : CoreRef) (p : Prog) (st : BitVec 4) (r : Nat), s.prog c.key = some p → s.coreRouter c.key = some r →
    let key := tagKey r st.toNat
    (∀ f a n done rest pc, p.strmQ = { work := .send f a n done, pc := pc } :: rest → f.st = st →
      (done = n → s.mesh.iface.get [] key = [] → s.mesh.pend.get [] key = [] → exec (.post c (.send st)) s =
        .next { runStream (coreAfter s s c.key ({ p with strmQ := rest }.post f.post f.evt)) c.key with
          pending := s.pending, rig := s.rig, time := s.time }) ∧
      (done ≠ n ∨ s.mesh.iface.get [] key ≠ [] ∨ s.mesh.pend.get [] key ≠ [] → exec (.post c (.send st)) s = .next s)) ∧
    (∀ f a n pre rest, p.recvs = pre ++ { f := f, a := a, len := n, filled := n } :: rest → f.st = st →
      (∀ w ∈ pre, w.f.st ≠ st) → s.mesh.rx.get [] key = [] → wanted p st ≤ s.mesh.grant.get 0 key →
      ∃ u, exec (.post c (.recv st)) s = .next u ∧ CoreOnly s s u c.key ({ p with recvs := pre ++ rest }.post f.post f.evt)) ∧
    (∀ f a n fr mk, p.recvs = [{ f := f, a := a, len := n, filled := 0 }] → f.st = st → 64 < n →
      n ≤ 64 + s.mesh.grant.get 0 key → s.mesh.rx.get [] key = [fr] → fr.half = false → fr.payload.length = 64 → fr.poison = false →
      fullKey s c.key p a = some mk →
      ∃ u, exec (.post c (.recv st)) s = .next u ∧
        u.prog c.key = some { p with recvs := [{ f := f, a := a, len := n, filled := 64 }] } ∧
        u.mesh.rx.get [] key = [] ∧
        (∀ i, i < 64 → some (readB u (mk + i)) = fr.payload[i]?) ∧
        (∀ j, (j < mk ∨ mk + 64 ≤ j) → readB u j = readB s j))

/-- R84, R86, R115, R465: REQ judges stream, alignment, range and poison over the record's whole extent, waits for the stream queue, for
a tag and for quota, and leaves an outstanding request, numbered in the order of issue, in the stream queue. -/
def Sys2Proof.Claims.RequestQueued : Prop :=
  ∀ (s : State) (c : CoreRef) (g : Pred) (p : Prog) (t : State) (f : StrmFields), Runs s c p t → p.allows g = true → f.rsv = 0 →
    badSpace (p.sreg f.b) = false → ∀ b, t.spadBase c.key = some b →
    let k := c.key
    let a := p.sreg f.a
    let len := recordLen (reqHdr (readBytes t (b + a.toNat) 32))
    let gives := Gives s c p t (.req c g f)
    let held := ((coreReqs t k).filter (fun r => r.st == f.st)).length
    (reqDef t k f.st = none → gives (faulted s t k p .streamUnbound)) ∧
    ∀ d, reqDef t k f.st = some d →
      ((a.toNat % 32 ≠ 0 ∨ (p.sreg f.b).toNat % 32 ≠ 0) → gives (faulted s t k p .misaligned)) ∧
      (a.toNat % 32 = 0 → (p.sreg f.b).toNat % 32 = 0 →
        (0x80000 < a.toNat + 32 → gives (faulted s t k p .spadRange)) ∧
        (a.toNat + 32 ≤ 0x80000 → 0x80000 < a.toNat + len → gives (faulted s t k p .spadRange)) ∧
        (a.toNat + 32 ≤ 0x80000 → a.toNat + len ≤ 0x80000 → fullRange t p (p.sreg f.b) 1 = none →
          (anyPoison t (b + a.toNat) len = true → gives (faulted s t k p .poison)) ∧
          (anyPoison t (b + a.toNat) len = false →
            (16 ≤ p.strmQ.length → gives (waited s t k p .streamQueue (.req c g f) true)) ∧
            (p.strmQ.length < 16 →
              (freeReqTag t k = none → gives (waited s t k p (.tag f.st) (.req c g f) true)) ∧
              ∀ tag, freeReqTag t k = some tag →
                (d.quota ≤ held → gives (waited s t k p (.tag f.st) (.req c g f) true)) ∧
                (held < d.quota →
                  let q : ReqOut := {
                    tag := tag, seq := (t.core k).nextReq, st := f.st, dst := (p.sreg f.b).extractLsb' 0 32, evt := f.evt,
                    post := f.post, ret := none, marks := [], at_ := .queue }
                  gives (streamed s (t.setCore k { t.core k with nextReq := (t.core k).nextReq + 1 }) k
                    { p with reqs := p.reqs ++ [q] } (.req f tag a len)))))))

/-- R84, R117, R135: the endpoint of a request stream in a yard places the request in an entry of the yard that its router belongs to,
where it waits for an engine. -/
def Sys2Proof.Claims.RequestTaken : Prop :=
  ∀ (s : State) (r y : Nat) (e : EpReq) (p : Prog) (record : List Byte), y < 16 → 2304 + 6 * y ≤ r → r < 2310 + 6 * y →
    (∀ x ∈ (s.yard y).reqs, x.id ≠ (s.yard y).nextReq) → lookupEngines s y e.sail ≠ [] →
    (reqHdr record).yop ∈ [0x01, 0x02, 0x03, 0x10, 0x11, 0x12, 0x13, 0x20, 0x21] →
    let u := serveRequest s r e p record
    (u.yard y).reqs = (s.yard y).reqs ++ [{
      id := (s.yard y).nextReq, sail := e.sail, ctx := p.ctx, q := p.q, n := p.n, from_ := .core e.lc e.tag 0, record := record,
      phase := .waiting, desc := [], rows := [], comb := 0, acc := [], out := [], keyGen := 0, spans := [] }] ∧
    (u.yard y).nextReq = (s.yard y).nextReq + 1 ∧ u.mem = s.mem

/-- Requests of a core: their issue and their arrival in a yard.
Completes: req. -/
def Obligations.RequestIssue : Prop := Claims.RequestQueued ∧ Claims.RequestTaken

/-- R79, R86, R94: a return that is ready is written at its destination and posts its event; any other status than DONE is
recorded as the stream's first error; SSTAT enters the stream queue, where it reads the error of a request stream and clears it.
Completes: sstat, post. -/
def Obligations.RequestReturn : Prop :=
  (∀ (s : State) (c : CoreRef) (p : Prog) (st : BitVec 4) (r : ReqOut) (pre rest : List ReqOut) (e : Status) (l : List Byte),
    s.prog c.key = some p → p.stopped = false → p.reqs = pre ++ r :: rest → r.st = st → (∀ x ∈ pre, x.st ≠ st) →
    r.ret = some (e, l) → (∀ sl, s.clusterSail (c.key / 34) = some sl →
      ∀ v ∈ (s.sail sl).saved, v.lc = c.key → ∀ x ∈ v.prog.reqs, x.st ≠ st) →
    ∃ u, exec (.post c (.req st)) s = .next u ∧ (∀ j, j ≠ c.key → u.core j = s.core j) ∧
      (∀ y id, r.at_ = .yard y id → (u.yard y).reqs = (s.yard y).reqs.filter (fun x => x.id != id)) ∧
      (e = .done → ∀ key, fullRange s p (r.dst.zeroExtend 64) l.length = none → fullKey s c.key p (r.dst.zeroExtend 64) = some key →
        u.prog c.key = some ({ p with reqs := pre ++ rest }.post r.post r.evt) ∧
        (∀ i, i < l.length → some (readB u (key + i)) = l[i]?) ∧
        (∀ j, (j < key ∨ key + l.length ≤ j) → readB u j = readB s j)) ∧
      (e ≠ .done → (∀ x ∈ p.errs, x.st ≠ st) → u.mem = s.mem ∧ u.prog c.key = some
        (({ p with reqs := pre ++ rest, errs := p.errs ++ [{ st := st, status := e }] } : Prog).post r.post r.evt))) ∧
  (∀ (s : State) (c : CoreRef) (g : Pred) (p : Prog) (t : State) (f : StrmFields), Runs s c p t → p.allows g = true → f.rsv = 0 →
    (reqDef t c.key f.st = none → Gives s c p t (.sstat c g f) (faulted s t c.key p .streamUnbound)) ∧
    (reqDef t c.key f.st ≠ none → 16 ≤ p.strmQ.length →
      Gives s c p t (.sstat c g f) (waited s t c.key p .streamQueue (.sstat c g f) true)) ∧
    (reqDef t c.key f.st ≠ none → p.strmQ.length < 16 → Gives s c p t (.sstat c g f) (streamed s t c.key p (.sstat f))))

/-- R58, R79, R80, R318, R465: a legal CBMOV or DMASUB is queued, its faults are judged at issue; on completion a CBMOV has
copied its bytes and a DMASUB stands in its engine.
Completes: cbmov, dmasub, post. -/
def Obligations.Transfers : Prop :=
  ∀ (s : State) (c : CoreRef) (f : XferFields),
    (∀ (g : Pred) (p : Prog) (t : State), Runs s c p t → p.allows g = true → f.rsv = 0 →
      let d := p.sreg f.d
      let a := p.sreg f.a
      let n := (p.sreg f.l).toNat
      (badSpace a = false → badSpace d = false →
        ((d.toNat % 32 ≠ 0 ∨ a.toNat % 32 ≠ 0 ∨ n % 32 ≠ 0 ∨ n < 32 ∨ 65536 < n) → Gives s c p t (.cbmov c g f) (faulted s t c.key p .misaligned)) ∧
        (d.toNat % 32 = 0 → a.toNat % 32 = 0 → n % 32 = 0 → 32 ≤ n → n ≤ 65536 →
          (∀ e, fullRange t p a n = some e → Gives s c p t (.cbmov c g f) (faulted s t c.key p e)) ∧
          (fullRange t p a n = none → ∀ e, fullRange t p d n = some e → Gives s c p t (.cbmov c g f) (faulted s t c.key p e)) ∧
          (fullRange t p a n = none → fullRange t p d n = none →
            (4 ≤ p.xferQ.length → Gives s c p t (.cbmov c g f) (waited s t c.key p .transferQueue (.cbmov c g f) true)) ∧
            (p.xferQ.length < 4 → Gives s c p t (.cbmov c g f) (.next (coreAfter s t c.key (p.queuedXfer (.cbmov f d a (p.sreg f.l))).wentOn)))))) ∧
      (a.toNat % 32 ≠ 0 → Gives s c p t (.dmasub c g f) (faulted s t c.key p .misaligned)) ∧
      (a.toNat % 32 = 0 → 0x80000 < a.toNat + 64 → Gives s c p t (.dmasub c g f) (faulted s t c.key p .spadRange)) ∧
      (a.toNat % 32 = 0 → a.toNat + 64 ≤ 0x80000 →
        let held := (t.engine (4 * (c.key / 34) + f.eng.toNat)).descs.length
        (256 ≤ held → Gives s c p t (.dmasub c g f) (waited s t c.key p (.engine f.eng) (.dmasub c g f) true)) ∧
        (held < 256 → 4 ≤ p.xferQ.length → Gives s c p t (.dmasub c g f) (waited s t c.key p .transferQueue (.dmasub c g f) true)) ∧
        (held < 256 → p.xferQ.length < 4 → Gives s c p t (.dmasub c g f) (.next (coreAfter s t c.key (p.queuedXfer (.dmasub f a)).wentOn))))) ∧
    (∀ (p : Prog) (d a l : Word) (pc : BitVec 56) (rest : List (Queued XferWork)) (src dst : Nat), s.prog c.key = some p →
      p.xferQ = { work := .cbmov f d a l, pc := pc } :: rest → fullKey s c.key p a = some src → fullKey s c.key p d = some dst →
      anyPoison s src l.toNat = false →
      ∃ u, exec (.post c .transfer) s = .next u ∧ u.prog c.key = some ({ p with xferQ := rest }.post f.post f.evt) ∧
        (∀ i, i < l.toNat → readB u (dst + i) = readB s (src + i)) ∧
        (∀ j, (j < dst ∨ dst + l.toNat ≤ j) → readB u j = readB s j) ∧ ∀ j, j ≠ c.key → u.core j = s.core j) ∧
    (∀ (p : Prog) (a : Word) (pc : BitVec 56) (rest : List (Queued XferWork)) (b e : Nat), s.prog c.key = some p →
      p.xferQ = { work := .dmasub f a, pc := pc } :: rest → s.spadBase c.key = some b → anyPoison s (b + a.toNat) 64 = false →
      e = 4 * (c.key / 34) + f.eng.toNat → (s.engine e).descs.length < 256 →
      ∃ u, exec (.post c .transfer) s = .next u ∧ u.prog c.key = some ({ p with xferQ := rest }.post f.post f.evt) ∧
        (u.engine e).descs = (s.engine e).descs ++ [{
          id := (s.engine e).next, raw := BitVec.ofNat 512 (readNat s (b + a.toNat) 64), from_ := .core c.key p.q p.n, ctx := p.ctx,
          stamp := (useOfCmd s p.q p.n).stamp, epoch := (useOfCmd s p.q p.n).epoch, phase := .accepted, units := 0, keyGen := 0, asked := 0, got := [],
          wasked := 0, wgot := 0, bad := none }] ∧
        u.mem = s.mem ∧ (∀ j, j ≠ e → u.engine j = s.engine j) ∧ ∀ j, j ≠ c.key → u.core j = s.core j)

/-- R79, R80, R87: a FENCE goes on once the queues of the classes in its mask are empty, a WAITE once its counter has reached its
target modulo 2^32; SETE and ADDE write a counter.
Completes: fence, waite, sete, adde. -/
def Obligations.FencesAndEvents : Prop :=
  ∀ (s : State) (c : CoreRef) (g : Pred) (p : Prog) (t : State) (f : SyncFields), Runs s c p t → p.allows g = true → f.rsv = 0 →
    let met := (f.mask.getLsbD 0 = true → p.matQ = []) ∧ (f.mask.getLsbD 1 = true → p.vecQ = []) ∧
      (f.mask.getLsbD 2 = true → p.strmQ = [] ∧ p.recvs = [] ∧ p.reqs = []) ∧ (f.mask.getLsbD 3 = true → p.xferQ = [])
    let x := (p.sreg f.a).extractLsb' 0 32 + f.imm
    (met → Gives s c p t (.fence c g f) (.next (coreAfter s t c.key p.wentOn))) ∧
    (¬ met → Gives s c p t (.fence c g f) (waited s t c.key p (.fence f.mask) (.fence c g f) (f.mask.getLsbD 2 || f.mask.getLsbD 3))) ∧
    ((p.event f.evt - x).toNat < 2 ^ 31 → Gives s c p t (.waite c g f) (.next (coreAfter s t c.key p.wentOn))) ∧
    (2 ^ 31 ≤ (p.event f.evt - x).toNat → Gives s c p t (.waite c g f) (waited s t c.key p (.event f.evt x) (.waite c g f) true)) ∧
    Gives s c p t (.sete c g f) (.next (coreAfter s t c.key (p.setE f.evt x).wentOn)) ∧
    Gives s c p t (.adde c g f) (.next (coreAfter s t c.key (p.setE f.evt (p.event f.evt + x)).wentOn))

/-- R79, R82, R83, R317: acquiring, trying and releasing a device semaphore of the context's sail. -/
def Sys2Proof.Claims.Semaphores : Prop :=
  ∀ (s : State) (c : CoreRef) (g : Pred) (p : Prog) (t : State) (f : SyncFields), Runs s c p t → p.allows g = true → f.rsv = 0 →
    let n := (p.sreg f.a).toNat % 2 ^ 14
    let u := f.imm.toNat
    let d : BitVec 3 := f.evt.extractLsb' 0 3
    let taken := (t.setSem n { t.sem n with value := (t.sem n).value - u }).updCtx p.ctx (fun x => x.setHold n (x.hold n + u))
    let given := (t.updCtx p.ctx (fun x => x.setHold n (x.hold n - u))).setSem n
      { t.sem n with value := min (t.sem n).max ((t.sem n).value + u),
                     ovf := min 0xFFFF ((t.sem n).ovf + ((t.sem n).value + u - min (t.sem n).max ((t.sem n).value + u))) }
    let free := (t.sem n).waiters = [] ∧ u ≤ (t.sem n).value
    let ninth := n ∉ semSet t p.ctx ∧ 8 ≤ (semSet t p.ctx).length
    let go := fun (x : State) (q : Prog) => (.next (coreAfter s (noReplay x p.q p.n) c.key q) : Out)
    (t.ctxSail p.ctx = none ∨ t.semSail n ≠ t.ctxSail p.ctx →
      ∀ i ∈ [Instr.semacq c g f, .semtry c g f, .semrel c g f], Gives s c p t i (faulted s t c.key p .semRange)) ∧
    (t.ctxSail p.ctx ≠ none → t.semSail n = t.ctxSail p.ctx →
      ((t.ctx p.ctx).semRev = true → ∀ i ∈ [Instr.semacq c g f, .semtry c g f, .semrel c g f],
        Gives s c p t i (faulted s (t.updCtx p.ctx (fun x => { x with semRev := false })) c.key p .semRevoked)) ∧
      ((t.ctx p.ctx).semRev = false →
        (u = 0 → Gives s c p t (.semacq c g f) (go t p.wentOn) ∧ Gives s c p t (.semtry c g f) (go t (p.wroteP d true)) ∧
          Gives s c p t (.semrel c g f) (go t p.wentOn)) ∧
        (u ≠ 0 → ¬ ninth → free → Gives s c p t (.semacq c g f) (go taken p.wentOn) ∧ Gives s c p t (.semtry c g f) (go taken (p.wroteP d true))) ∧
        (u ≠ 0 → ninth → ∀ i ∈ [Instr.semacq c g f, .semtry c g f], Gives s c p t i
          (.next { countIssue (noReplay (coreFault t c.key p .semHolds) p.q p.n) c.key with
            pending := s.pending, rig := s.rig, time := s.time })) ∧
        (u ≠ 0 → ¬ ninth → ¬ free → Gives s c p t (.semtry c g f) (go t (p.wroteP d false)) ∧
          Gives s c p t (.semacq c g f) (.next { noReplay (waitOn (t.setSem n { t.sem n with
              waiters := (t.sem n).waiters ++ [{ ctx := p.ctx, lc := c.key, units := u }] }) c.key p (.sem n u) (.semacq c g f) true) p.q p.n with
            pending := s.pending, rig := s.rig, time := s.time })) ∧
        (u ≠ 0 → (t.sem n).waiters = [] → Gives s c p t (.semrel c g f) (go given p.wentOn))))

/-- R317: a release adds to VALUE up to MAX, counts the excess in OVF, and grants waiting acquires in order while VALUE covers
them. -/
def Sys2Proof.Claims.SemaphoreGrants : Prop :=
  ∀ (s : State) (i u : Nat),
    let m := s.sem i
    let v := min m.max (m.value + u)
    let r := (semRelease s i u).sem i
    ∃ granted, m.waiters = granted ++ r.waiters ∧ r.value + (granted.map (·.units)).sum = v ∧
      (∀ w rest, r.waiters = w :: rest → r.value < w.units) ∧
      r.ovf = min 0xFFFF (m.ovf + (m.value + u - v)) ∧ r.max = m.max ∧ r.hold = m.hold ∧
      (∀ j, j ≠ i → (semRelease s i u).sem j = s.sem j) ∧
      ∀ c, (∀ w ∈ granted, w.ctx ≠ c) → (semRelease s i u).ctx c = s.ctx c

/-- The semaphores of a sail.
Completes: semacq, semtry, semrel. -/
def Obligations.SemaphoreRules : Prop := Claims.Semaphores ∧ Claims.SemaphoreGrants

/-- R59, R79: the core state registers and what writes them; a register that does not exist, or that is read-only, is illegal.
Completes: csrr, csrw, flagr, flagc, time. -/
def Obligations.CoreStateRegisters : Prop :=
  ∀ (s : State) (c : CoreRef) (g : Pred) (p : Prog) (t : State) (f : SysFields), Runs s c p t → p.allows g = true → f.rsv = 0 →
    (∀ v : Word, (f.csr = 0 ∧ v = p.cycle ∨ f.csr = 1 ∧ v = BitVec.ofNat 64 p.lcore ∨ f.csr = 2 ∧ v = BitVec.ofNat 64 p.ncore ∨
        f.csr = 3 ∧ v = p.live.zeroExtend 64 ∨ f.csr = 4 ∧ v = BitVec.ofNat 64 (32768 - p.yieldCount) ∨
        f.csr = 5 ∧ v = BitVec.ofNat 64 (coreReqs t c.key).length ∨ f.csr = 6 ∧ v = BitVec.ofNat 64 (t.ctx p.ctx).holds.length ∨
        ∃ e : BitVec 4, f.csr = 0x10 + e.zeroExtend 12 ∧ v = (p.event e).zeroExtend 64) →
      Gives s c p t (.csrr c g f) (.next (coreAfter s t c.key (p.wroteS f.d v)))) ∧
    (f.csr = 3 → (p.sreg f.a).toNat % 256 ≤ 128 →
      Gives s c p t (.csrw c g f) (.next (coreAfter s t c.key { p with live := (p.sreg f.a).extractLsb' 0 8 }.wentOn))) ∧
    (∀ e : BitVec 4, f.csr = 0x10 + e.zeroExtend 12 →
      Gives s c p t (.csrw c g f) (.next (coreAfter s t c.key (p.setE e ((p.sreg f.a).extractLsb' 0 32)).wentOn))) ∧
    (((6 < f.csr.toNat ∧ f.csr.toNat < 0x10) ∨ 0x1F < f.csr.toNat) → Gives s c p t (.csrr c g f) (ruledOut s t c.key p)) ∧
    (f.csr ≠ 3 → (f.csr.toNat < 0x10 ∨ 0x1F < f.csr.toNat) → Gives s c p t (.csrw c g f) (ruledOut s t c.key p)) ∧
    Gives s c p t (.flagr c g f) (.next (coreAfter s t c.key (p.wroteS f.d ((t.ctx p.ctx).arith.zeroExtend 64)))) ∧
    Gives s c p t (.flagc c g f) (.next (coreAfter s
      (t.updCtx p.ctx (fun x => { x with arith := x.arith &&& ~~~ ((p.sreg f.a).extractLsb' 0 5) })) c.key p.wentOn)) ∧
    Gives s c p t (.time c g f) (.next (coreAfter s t c.key (p.wroteS f.d t.time)))

/-- R87, R317: a waiting instruction is executed again as if it were issued now; an acquire that has been granted goes on, one
that has not stays; with a pre-emption request pending at a yield point nothing resumes (R89). -/
def Sys2Proof.Claims.WaitingInstructions : Prop :=
  ∀ (s : State) (c : CoreRef) (p : Prog) (w : Waiting), s.prog c.key = some p → p.waiting = some w → (s.core c.key).saving = false →
    ((∀ t0, (s.core c.key).preempt = some t0 → w.why.isYield = false ∨ isDeferred s p.ctx t0 = true) →
      (w.why = .granted → exec (.waitingInstruction c) s = .next (s.setProg c.key (some p.wentOn))) ∧
      (∀ n u, w.why = .sem n u → exec (.waitingInstruction c) s = .next s) ∧
      (w.why ≠ .granted → (∀ n u, w.why ≠ .sem n u) → onCore w.i = some c →
        ∃ u, exec (.waitingInstruction c) s = .next u ∧ exec w.i (s.setProg c.key (some { p with waiting := none })) = .next u)) ∧
    ((s.core c.key).preempt ≠ none → w.why.isYield = true → holdLimit s p.ctx = none →
      exec (.waitingInstruction c) s = .next s)

/-- R87 to R89, R337: a program that has gone 32,768 cycles without a yield point faults; an instruction that yields, one that waits and a SEND
that waits for credit form such a point; a pre-emption request takes effect there, unless the context holds a semaphore whose hold limit has not passed; then its holds are revoked. -/
def Sys2Proof.Claims.YieldPoints : Prop :=
  ∀ (s : State) (c : CoreRef) (p : Prog), s.prog c.key = some p → p.stopped = false → (s.core c.key).saving = false →
    let there := p.atYield = true ∨ (∃ w, p.waiting = some w ∧ w.why.isYield = true) ∨ waitsCredit s c.key p = true
    (¬ there → 32768 ≤ p.yieldCount → exec (.yieldOverdue c) s =
      .next { coreFault s c.key p .yieldOverdue with pending := s.pending, rig := s.rig, time := s.time }) ∧
    (there ∨ p.yieldCount < 32768 → exec (.yieldOverdue c) s = .next s) ∧
    (there → ∀ t0, (s.core c.key).preempt = some t0 →
      (∀ m, holdLimit s p.ctx = some m → (s.time - t0).toNat < m → exec (.preemptAtYieldPoint c) s = .next
        ((s.updCtx p.ctx (fun x => { x with deferredAt := some t0 })).setProg c.key (some { p with atYield := false }))) ∧
      ((∀ m, holdLimit s p.ctx = some m → m ≤ (s.time - t0).toNat) → p.matQ = [] → p.vecQ = [] →
        ∃ u q, exec (.preemptAtYieldPoint c) s = .next u ∧ u.core c.key = { s.core c.key with prog := some q, saving := true } ∧
          ((∃ w, p.waiting = some w ∧ w.why = .granted) → q = p.wentOn) ∧
          ((∀ w, p.waiting = some w → w.why ≠ .granted) → q = { p with waiting := none, atYield := false }))) ∧
    (∀ x t0, requestOf s x = some t0 → (s.ctx x).holds ≠ [] → (∀ m, holdLimit s x = some m → m ≤ (s.time - t0).toNat) →
      (∀ i, ∀ w ∈ (s.sem i).waiters, w.ctx ≠ x) →
      ∃ u, exec (.holdLimitExpiry x) s = .next u ∧ (u.ctx x).holds = [] ∧ (u.ctx x).semRev = true ∧ u.mem = s.mem)

/-- Instructions that wait, and yield points.
Completes: waitingInstruction, yieldOverdue, preemptAtYieldPoint, holdLimitExpiry. -/
def Obligations.WaitsAndYields : Prop := Claims.WaitingInstructions ∧ Claims.YieldPoints

/-- R56, R89, R333, R336: the end of a save leaves the program in the lowest free slot of the save area, its scratchpad below
LIVE copied there, its core free, its core time charged; then the sail's scheduler looks, as it does at the end of a quantum.
Completes: contextSaveComplete, quantumExpiry. -/
def Obligations.ContextSave : Prop :=
  ∀ (s : State) (c : CoreRef) (sl : Nat), s.clusterSail c.cluster = some sl →
    exec (.quantumExpiry c) s = .next { schedule s sl with pending := s.pending, rig := s.rig, time := s.time } ∧
    ∀ (p : Prog) (i b : Nat), s.prog c.key = some p → (s.core c.key).saving = true → s.spadBase c.key = some b →
      (∀ v ∈ (s.sail sl).saved, v.slot ≠ i) → (∀ j, j < i → ∃ v ∈ (s.sail sl).saved, v.slot = j) →
      p.live.toNat ≤ 128 → saveSlot s sl i + 589824 ≤ 2 ^ 48 →
      ∃ w, exec (.contextSaveComplete c) s = .next { schedule w sl with pending := s.pending, rig := s.rig, time := s.time } ∧
        w.core c.key = { s.core c.key with prog := none, preempt := none, saving := false } ∧
        (w.sail sl).saved = (s.sail sl).saved ++ [{ lc := c.key, slot := i, readyAt := s.time, prog := p }] ∧
        (w.ctx p.ctx).coreTime = (s.ctx p.ctx).coreTime + (s.time - (s.core c.key).placed) ∧
        (∀ o, o < 4096 * p.live.toNat → readB w (saveSlot s sl i + 65536 + o) = readB s (b + o)) ∧
        ∀ j, (j < saveSlot s sl i ∨ saveSlot s sl i + 589824 ≤ j) → readB w j = readB s j

/-- R60, R331, R332: ready RUNs are looked at in order of pass and then of context; a RUN whose cores are free starts copy j
with its registers at their initial values, everything else at 0. -/
def Obligations.ProgramStart : Prop :=
  ∀ (s : State) (sl : Nat),
    (readyRuns s sl).Pairwise (fun a b => a.pass < b.pass ∨ (a.pass = b.pass ∧ a.ctx ≤ b.ctx)) ∧
    ∀ (r : ReadyRun) (c : CmdRec), r.restore = false → s.cmd r.q r.n = some c → r.cores.Nodup →
      (∀ k ∈ r.cores, coreFree s sl k = true ∧ reservedCore s k r.ctx = false) →
      ∀ j k, r.cores[j]? = some k → ∃ p, (placeRun s sl r).core k =
          { s.core k with prog := some p, preempt := none, saving := false, placed := s.time, since := (s.core k).progress } ∧
        p.pc = c.raw.extractLsb' 64 56 ∧ p.ctx = r.ctx ∧ p.lcore = j ∧ p.ncore = r.cores.length ∧ p.live = 128 ∧
        (∀ i : BitVec 5, p.sreg i = if i = 1 then BitVec.ofNat 64 j else if i = 2 then BitVec.ofNat 64 r.cores.length
          else if i = 3 then BitVec.ofNat 64 r.ctx else if 24 ≤ i.toNat then c.raw.extractLsb' (64 * (i.toNat - 24)) 64 else 0) ∧
        (∀ i : BitVec 3, p.preg i = decide (i = 0)) ∧ (∀ i, p.vreg i = 0) ∧ (∀ i, p.event i = 0) ∧
        (∀ i, p.accum i = { tag := .fp32, el := [] }) ∧ p.loops = [] ∧ p.cycle = 0 ∧ p.yieldCount = 0 ∧
        ∀ i, i < 64 → p.gen i = BitVec.ofNat 32 (0x9E3779B9 + i + 64 * j)

/-! ### Yards -/

/-- R100, R110, R112, R114, R116: the lowest free engine of the sail takes the oldest waiting request; on its engine a legal lookup
lists its rows, its sum at −0, and counts its padding IDs. -/
def Sys2Proof.Claims.LookupStart : Prop :=
  (∀ (s : State) (y sl e : Nat) (r : YReq) (rest : List Nat), ((s.yard y).reqs.map (·.id)).Nodup →
    oldestWaiting s y sl (fun _ => true) = some r →
    (freeEngines s y sl).filter (fun e => !reservedFrom s 3 (32 * y + e) r.ctx) = e :: rest →
    ∃ u, exec (.engineTakesRequest y sl) s = .next u ∧ u.yreq y r.id = some { r with phase := .engine e } ∧
      (engineOf (u.yard y) e).cur = some r.id ∧ (∀ d, d ≠ e → engineOf (u.yard y) d = engineOf (s.yard y) d) ∧
      (∀ i, i ≠ r.id → u.yreq y i = s.yreq y i) ∧ u.mem = s.mem ∧ u.cores = s.cores) ∧
  (∀ (s : State) (y e id : Nat) (r : YReq) (l : List Byte) (names : List (Option Nat)) (row : Nat),
    let h := reqHdr r.record
    let u := reqUse s r.ctx r.q r.n
    let t := tableOf l
    let d := useDesc s y e r.sail u h.table
    let rows := names.map (rowReq t s.time)
    (engineOf (s.yard y) e).cur = some id → s.yreq y id = some r → r.desc = [] → headerOk r.record = true →
    d.2 = .ok l → descOk l = true → (h.yop = 0x01 ∨ returnLen h t ≤ 65536) → (tableRemote d.1 u t = .ok none) →
    lookupRows h t r.record = some names → names.head? = some (some row) →
    judgeSpans d.1 u (rows.flatMap (judgedSpans t)) = (d.1, none) →
    let started := fun (v : State) => v.yreq y id = some { r with
        desc := l, rows := rows, comb := 0, out := [], acc := List.replicate t.d (0x80000000 : Lane), keyGen := s.memGen r.sail,
        spans := rows.flatMap (fun x => (readSpans t x).map (fun p => (p.1, p.2.1))) } ∧
      ((v.yard y).cnt.get YardCounters.zero r.sail).pads = ((s.yard y).cnt.get YardCounters.zero r.sail).pads +
        BitVec.ofNat 64 (names.filter (fun n => n.isNone)).length
    (h.yop = 0x01 → ∃ v, exec (.pool y e) s = .next v ∧ started v) ∧
    (h.yop = 0x02 → ∃ v, exec (.gather y e) s = .next v ∧ started v) ∧
    (h.yop = 0x03 → ∃ v, exec (.decode y e) s = .next v ∧ started v))

/-- R99, R117, R126: the home yard reads a row for another yard, unless a committed group locks it; a row that arrives is
combined once every row before it in bag order is, and the last one completes the request and frees its engine. -/
def Sys2Proof.Claims.RowArrival : Prop :=
  (∀ (s : State) (y e k home key : Nat) (r : YReq) (x : RowReq) (en : RangeE),
    let t := tableOf r.desc
    let u := reqUse s r.ctx r.q r.n
    let m := serveSpans s u (readSpans t x)
    let q := readSpan m.1 x.asked m.2.1 home r.sail t.waymask r.keyGen (cut x.va t.rowBytes)
    openRow s y e k = some (r, x) → x.data = [] → x.row ≠ none → t.cb4 = false → m.2.2 = false →
    homeOf m.1 m.2.1 x.va t = some home → home ≠ y → locate m.1 m.2.1 x.va .read = .loc key en →
    (rowLocked m.1 home key = false → ∃ v, exec (.fetchPortRead y e k) s = .next v ∧
      v.yreq y r.id = some { r with rows := r.rows.set k { x with data := q.2.1, poison := q.2.2 } }) ∧
    (rowLocked m.1 home key = true → exec (.fetchPortRead y e k) s =
      .next { heldRow m.1 y r k x with pending := s.pending, rig := s.rig, time := s.time })) ∧
  (∀ (s : State) (y e k : Nat) (r : YReq) (x : RowReq), openRow s y e k = some (r, x) → x.data ≠ [] → x.poison = false →
    (∀ z ∈ r.rows, z.arrived = true → z.poison = false) →
    let h := reqHdr r.record
    let t := tableOf r.desc
    let r1 := { r with rows := r.rows.set k { x with arrived := true } }
    let c := (combineAll h t r.rows.length r1 0).1
    ∃ v, exec (.rowFetchComplete y e k) s = .next v ∧ v.mem = s.mem ∧
      (c.comb < r.rows.length → v.yreq y r.id = some c ∧ (engineOf (v.yard y) e).cur = some r.id) ∧
      (∀ lc tag key, c.comb = r.rows.length → FromCore s y r.id r lc tag key →
        answered s v y r.id c lc tag key .done (lookupReturn h t c).1 ∧ (engineOf (v.yard y) e).cur = none))

/-- Lookup engines take requests, and their rows arrive.
Completes: pool, gather, decode, engineTakesRequest, rowFetchComplete, fetchPortRead. -/
def Obligations.LookupRows : Prop := Claims.LookupStart ∧ Claims.RowArrival

/-- R42, R47, R116: the sum of a bag is made in bag order from −0, each addition rounded once in FP32. -/
def Sys2Proof.Claims.Pooling : Prop :=
  ∀ (h : ReqHdr) (t : Table) (r : YReq), h.yop = 0x01 → h.pool = 0 → (∀ x ∈ r.rows, x.arrived = true ∧ x.poison = false ∧ x.row ≠ none) →
    r.comb = 0 → r.acc = List.replicate t.d (0x80000000 : Lane) → (∀ x ∈ r.rows, (rowValues t x.data).1.length = t.d) →
    let c := (combineAll h t r.rows.length r 0).1
    c.comb = r.rows.length ∧ c.acc.length = t.d ∧ ∀ i, i < t.d →
      c.acc.getD i 0 = r.rows.foldl (fun a x => BitVec.ofNat 32 (toFloat .fp32 .rne .inf
        (vAdd (decodeElem .fp32 a.toNat) (decodeElem .fp32 ((rowValues t x.data).1.getD i 0).toNat)).1).1) (0x80000000 : Lane)

/-- R102, R103, R105: a granule is read from the sail's line that holds it, which becomes recently used, else from memory, which
fills the lowest way of the sail that the table allows and that is not recently used; a poisoned granule is not kept, and a read with a
stale key generation brings poison (R184). -/
def Sys2Proof.Claims.TableCache : Prop :=
  ∀ (s : State) (since : Word) (y sl mask base : Nat) (gen : BitVec 16),
    let p := lpaOf s base
    let ways := sailWays s y sl
    let g := readGranule s since y sl mask base gen
    let bad := anyPoison s base 64 || staleAt s sl gen base
    let n := fun (t : State) => (t.yard y).cnt.get YardCounters.zero sl
    (∀ k x, anyPoison s base 64 = false → lineOf (s.yard y) ways p = some (k, x) →
      g.2 = (x.data, false) ∧ (g.1.yard y).cache.get Line.empty k = { x with used := true } ∧
      (n g.1).hits = (n s).hits + 1 ∧ (n g.1).misses = (n s).misses ∧ g.1.mem = s.mem) ∧
    (anyPoison s base 64 = true ∨ lineOf (s.yard y) ways p = none →
      g.2 = (readBytes s base 64, bad) ∧ (n g.1).misses = (n s).misses + 1 ∧ (n g.1).hits = (n s).hits ∧ g.1.mem = s.mem ∧
      (anyPoison s base 64 = true → ∀ c ∈ (g.1.yard y).cache, 64 * c.2.tag ≠ p / 64 * 64) ∧
      (anyPoison s base 64 = false → bad = true → (g.1.yard y).cache = (s.yard y).cache) ∧
      ∀ w, bad = false → (shareWays s y sl 0 (ways.filter (fun w => mask.testBit w))).find?
          (fun w => !lineUsed (s.yard y) p w) = some w →
        (g.1.yard y).cache.get Line.empty (lineKey w (cacheSet p)) = { tag := p / 64, used := true, sail := sl, data := readBytes s base 64 } ∧
        ∀ k, k ≠ lineKey w (cacheSet p) → (g.1.yard y).cache.get Line.empty k = (s.yard y).cache.get Line.empty k)

/-- What lookups pool, and the table cache. -/
def Obligations.PoolsAndTables : Prop := Claims.Pooling ∧ Claims.TableCache

/-- R114, R134, R137, R140: TBLSYNC drops the table's descriptor from the sail's engines and answers 32 bytes of 0; YSEED sets a
generator; a peak counter read restarts at what is in flight; a window of background activity begins once, each activity stops at its budget
and carries over what is left. How much work comes up is a free value (log entry 65).
Completes: tblsync, yseed, backgroundWindow, yrdSailPeakRead. -/
def Obligations.YardServices : Prop :=
  ∀ (s : State) (y : Nat),
    (∀ id r lc tag key, waitingOp s y id 0x20 = some r → headerOk r.record = true → FromCore s y id r lc tag key →
      ∃ u, exec (.tblsync y id) s = .next u ∧ answered s u y id r lc tag key .done (List.replicate 32 0) ∧ u.mem = s.mem ∧
        ∀ e, e < 32 → s.ownerAt (offLookup + 32 * y + e) = some r.sail →
          ∀ d ∈ (engineOf (u.yard y) e).descs, d.ctx = r.ctx → d.index ≠ (reqHdr r.record).table) ∧
    (∀ id r lc tag key e, waitingOp s y id 0x21 = some r → headerOk r.record = true → FromCore s y id r lc tag key → r.sail < 64 →
      (updEngines s y r.sail)[recField r.record 1 2 0]? = some e →
      ∃ u, exec (.yseed y id) s = .next u ∧ answered s u y id r lc tag key .done (List.replicate 32 0) ∧ u.mem = s.mem ∧
        updGen u y e r.sail = if recField r.record 3 31 0 = 0 then BitVec.ofNat 32 (0x9E3779B9 + 64 + e)
          else BitVec.ofNat 32 (recField r.record 3 31 0)) ∧
    (∀ fn sl, y < 16 → s.reaches fn sl = true →
      ∃ u, exec (.yrdSailPeakRead fn y sl) s = .next u ∧ (u.yard y).cnt.get YardCounters.zero sl =
          { (s.yard y).cnt.get YardCounters.zero sl with peak := BitVec.ofNat 64 (inFlight s y sl) } ∧
        u = { s with yards := u.yards } ∧ ∀ z, z ≠ y → u.yard z = s.yard z) ∧
    (∀ b : BudgetUnit, s.tiers.budget.get 0 (budgetKey b) < s.time.toNat / 10000 →
      ∃ u, exec (.backgroundWindow b) s = .next u ∧ u.mem = s.mem ∧ u.cores = s.cores ∧
        u.tiers.budget = s.tiers.budget.set 0 (budgetKey b) (s.time.toNat / 10000) ∧
        ∀ i a, (activities s b)[i]? = some a →
          let key := 16 * budgetKey b + a.1
          let ns := ((s.unitRig (budgetUnit b)).map (fun g => g.budgetOf a.1 a.2.1 a.2.2)).getD a.2.2
          (u.tiers.work.get BgWork.none key).left =
            (s.tiers.work.get BgWork.none key).left + Config.backgroundDemand (s.free + i) - ns) ∧
    (∀ b : BudgetUnit, s.time.toNat / 10000 ≤ s.tiers.budget.get 0 (budgetKey b) → exec (.backgroundWindow b) s = .next s)

/-! ### Commit groups -/

/-- R114, R121 to R125: CG_BEGIN opens a group or waits for the quota, an UPDATE becomes an action, an action takes the row's
lock and logs the new row, and its log record makes it durable.
Completes: cgBegin, update, cgBeginQuotaGrant, cgAction, intentLogDurable, lockReleasedResume. -/
def Obligations.GroupsGrow : Prop :=
  (∀ (s : State) (y id : Nat) (r : YReq) (lc tag key : Nat), FromCore s y id r lc tag key → cgQuota s r.sail ≠ 0 →
    let opened := fun (u : State) (h : Nat) => u.mem = s.mem ∧ (∀ j, j ≠ h → u.group j = s.group j) ∧
        answered s u y id r lc tag key .done (leBytes 32 (h + 65536 * (s.group h).gen.toNat)) ∧
        u.group h = { Group.empty with
          gen := (s.group h).gen, st := .open_, ctx := r.ctx, sail := r.sail, q := r.q, n := r.n, coord := y, begun := s.time,
          stamp := (reqUse s r.ctx r.q r.n).stamp, epoch := (reqUse s r.ctx r.q r.n).epoch }
    (waitingOp s y id 0x10 = some r → headerOk r.record = true →
      (∀ h, openGroups s r.sail < cgQuota s r.sail → freeHandle s = some h → ∃ u, exec (.cgBegin y id) s = .next u ∧ opened u h) ∧
      (cgQuota s r.sail ≤ openGroups s r.sail → ∃ u, exec (.cgBegin y id) s = .next u ∧
        u.yreq y id = some { r with phase := .quota } ∧ u.groups = s.groups ∧ u.mem = s.mem)) ∧
    (∀ h, (s.yard y).reqs.find? (fun x => x.sail == r.sail && x.phase == .quota) = some r → openGroups s r.sail < cgQuota s r.sail →
      freeHandle s = some h → ∃ u, exec (.cgBeginQuotaGrant y r.sail) s = .next u ∧ opened u h)) ∧
  (∀ (s j : State) (y id k rl stl home : Nat) (r : YReq) (l : List Byte), waitingOp s y id 0x11 = some r →
    groupRefusal s y r.ctx r.record = none → (s.group (handleOf r.record)).st = .open_ →
    (s.group (handleOf r.record)).actions.length < 64 → judgeUpdate s r = (j, .go l k rl stl home) →
    let g := s.group (handleOf r.record)
    ∃ u, exec (.update y id) s = .next u ∧
      u.yreq y id = some { r with
        phase := .action (handleOf r.record) g.actions.length, desc := l,
        spans := ((tableOf l).rowVa k, (tableOf l).rowBytes) ::
          (if stl = 0 then [] else [((tableOf l).stateVa k, stateBytes (reqHdr r.record).pool (tableOf l))]) } ∧
      u.group (handleOf r.record) = { g with actions := g.actions ++ [{
        idx := g.actions.length, req := id, row := k, rowVa := (tableOf l).rowVa k, rowLpa := rl, stateVa := (tableOf l).stateVa k,
        stateLpa := stl, home := home, newRow := [], newState := [], logBytes := 0, keyGen := s.memGen r.sail, st := .forwarded }] }) ∧
  (∀ (s : State) (h : Nat) (a : Action) (r : YReq),
    let g := s.group h
    let t := tableOf r.desc
    let sn := stateBytes (reqHdr r.record).pool t
    let row := actionRead s a.home g.sail t.waymask g a.keyGen a.rowLpa t.rowBytes
    let stt := if sn = 0 then (row.1, [], false) else actionRead row.1 a.home g.sail t.waymask g a.keyGen a.stateLpa sn
    let x := updateRow r.record t (updGen s a.home (actionEngine s a.home g.sail a.row) g.sail) row.2.1 stt.2.1
    g.actions.find? (fun b => b.idx == a.idx) = some a → s.yreq g.coord a.req = some r → lockHolder s a.home a.rowLpa = none →
    row.2.2 = false → stt.2.2 = false → 64 + pad64 (t.rowBytes + sn) ≤ actionRoom s g.sail a.home →
    let logged := fun (u : State) => lockHolder u a.home a.rowLpa = some h ∧
      u.group h = { g with actions := g.actions.map (fun b => if b.idx = a.idx then { b with
        newRow := x.2.1, newState := x.2.2.1, logBytes := 64 + pad64 (t.rowBytes + sn), st := .logged } else b) }
    (a.st = .forwarded → updatingEngines s a.home g.sail ≠ [] →
      (4, 8 * a.home + actionEngine s a.home g.sail a.row) ∉ s.rst.quiesced →
      ∃ u, exec (.cgAction h a.idx) s = .next u ∧ logged u) ∧
    (a.st = .waitLock → ∀ rest, (s.yard a.home).waits = (h, a.idx) :: rest → (∀ w ∈ rest, w.1 ≠ h) →
      ∃ u, exec (.lockReleasedResume a.home a.rowLpa) s = .next u ∧ logged u)) ∧
  (∀ (s : State) (h i lc tag key : Nat) (a : Action) (r : YReq), (s.group h).actions.find? (fun b => b.idx == i) = some a →
    a.st = .logged → FromCore s (s.group h).coord a.req r lc tag key →
    ∃ u, exec (.intentLogDurable h i) s = .next u ∧ answered s u (s.group h).coord a.req r lc tag key .done (leBytes 32 i) ∧
      u.group h = { s.group h with actions := (s.group h).actions.map (fun b => if b.idx = i then { b with st := .durable } else b) } ∧
      u.mem = s.mem)

/-- R122 to R124, R129: how groups end: commit, abort, the commit point, the apply, the retire, the hold timer.
Completes: cgCommit, cgAbort, commitPoint, cgApply, groupRetire, holdTimerExpiry. -/
def Obligations.GroupsEnd : Prop :=
  (∀ (s : State) (y id lc tag key : Nat) (r : YReq), FromCore s y id r lc tag key → headerOk r.record = true →
    groupRefusal s y r.ctx r.record = none →
    let h := handleOf r.record
    let g := s.group h
    (waitingOp s y id 0x12 = some r → g.st = .open_ → ∃ u, exec (.cgCommit y id) s = .next u ∧
      u.group h = { g with ended := true, commitReq := some id } ∧ u.yreq y id = some { r with phase := .commit h } ∧ u.mem = s.mem) ∧
    (waitingOp s y id 0x12 = some r → g.st = .doomed → ∃ u, exec (.cgCommit y id) s = .next u ∧ (u.group h).st = .aborted ∧
      answered s u y id r lc tag key .txnConflict []) ∧
    (waitingOp s y id 0x13 = some r → ∃ u, exec (.cgAbort y id) s = .next u ∧
      (g.commitReq = none → u.group h =
        { g with ended := true, cause := some (g.cause.getD .explicit), st := .aborted, commitReq := none } ∧
        answered s u y id r lc tag key .done (List.replicate 32 0)))) ∧
  (∀ (s : State) (h id lc tag key : Nat) (r : YReq),
    let g := s.group h
    g.commitReq = some id → FromCore s g.coord id r lc tag key → (∀ a ∈ g.actions, a.st.settled = true) →
    (g.st = .open_ → (reqHdr r.record).applied = false → ∃ u, exec (.commitPoint h) s = .next u ∧
      u.group h = { g with st := .committed, commitTime := s.time, commitReq := none } ∧
      answered s u g.coord id r lc tag key .done (leBytes 8 s.time.toNat ++ leBytes 24 g.actions.length)) ∧
    (g.st = .doomed → ∃ u, exec (.commitPoint h) s = .next u ∧ u.group h = { g with st := .aborted, commitReq := none } ∧
      answered s u g.coord id r lc tag key .txnConflict [])) ∧
  (∀ (s : State) (h : Nat) (a : Action), (s.group h).st = .committed → (s.group h).commitReq = none →
    (s.group h).actions = [a] → a.st = .durable → a.newState = [] → a.keyGen = s.memGen (s.group h).sail →
    (∀ en, mappingFor (s.ctx (s.group h).ctx) (groupUse (s.group h)) a.rowVa = .ok en →
      en.dlog = false ∧ en.mig = false) → lockHolder s a.home a.rowLpa = some h →
    ∃ u, exec (.cgApply h a.home) s = .next u ∧ u.group h = { s.group h with actions := [{ a with st := .applied }] } ∧
      lockHolder u a.home a.rowLpa = none ∧ (∀ i, i < a.newRow.length → some (readB u (a.rowLpa + i)) = a.newRow[i]?) ∧
      ∀ j, (j < a.rowLpa ∨ a.rowLpa + a.newRow.length ≤ j) → readB u j = readB s j) ∧
  (∀ (s : State) (h : Nat),
    let g := s.group h
    ((g.st = .committed ∨ g.st = .aborted) → (∀ a ∈ g.actions, a.st = .applied ∨ a.st = .padding ∨ a.st = .failed) →
      g.commitReq = none → ∃ u, exec (.groupRetire h) s = .next u ∧ u.group h = { Group.empty with gen := g.gen + 1 }) ∧
    (g.begun.toNat + 1000 * cgHold s g.sail * (g.expiries + 1) ≤ s.time.toNat → g.ended = false →
      (g.st = .open_ → ∃ u, exec (.holdTimerExpiry h) s = .next u ∧ u = { s with groups := u.groups } ∧
        u.group h = { g with expiries := g.expiries + 1, st := .doomed, cause := some (g.cause.getD .expired) }) ∧
      (g.st = .doomed → g.commitReq = none → ∃ u, exec (.holdTimerExpiry h) s = .next u ∧
        u.group h = { g with expiries := g.expiries + 1, byTimer := true, st := .aborted })))

/-! ### Ranges and the memory tiers -/

/-- R187 to R196, R313, R328: the range commands pass their invalidation point, the drain ends them, a harvest answers its words,
shared objects come and go; an entry of a bad form is MALFORMED before one without ownership is FAULT_PERMISSION.
Completes: rangeMap, rangeUnmap, rangeModify, rangeSync, rangeDrainEnd, dirtyHarvest, sharedCreate, sharedRelease. -/
def Obligations.RangeCommands : Prop :=
  ∀ (s : State) (q n : Nat) (k : CmdRec) (sl : Nat) (l : List Byte),
    let c := s.queueCtx q
    let old := (s.ctx c).ranges
    let e := rangeOf l
    let at_ := bytesOf k.raw 8 15
    s.ctxSail c = some sl →
    ((s.ctx c).drain = none → busRead s q at_ 64 = some l →
      (startedAs s q n 0x10 = some k →
        (rangeRsvOk l = true → entryOk s old e = true → entryOwned s sl e = true →
          ∃ u, exec (.rangeMap q n) s = .next u ∧ invalidated s u c q n (insertRange e old) [] [e] [] false) ∧
        ((rangeRsvOk l = false ∨ entryOk s old e = false) → ∃ u, exec (.rangeMap q n) s = .next u ∧ completed s u q n .malformed ∧
          (u.ctx c).ranges = old) ∧
        (rangeRsvOk l = true → entryOk s old e = true → entryOwned s sl e = false →
          ∃ u, exec (.rangeMap q n) s = .next u ∧ completed s u q n .faultPermission ∧ (u.ctx c).ranges = old)) ∧
      (startedAs s q n 0x12 = some k → ∀ o, old.find? (fun x => x.vstart == e.vstart) = some o →
        (holdsMaps old o = false ∨ keepsMaps o e = true) → rangeRsvOk l = true →
        entryOk s (old.filter (fun x => x != o)) e = true → entryOwned s sl e = true →
        ∃ u, exec (.rangeModify q n) s = .next u ∧
          invalidated s u c q n (insertRange e (old.filter (fun x => x != o))) [o] [e] (coveredLines (pruneTombs s c) c [o]) false)) ∧
    ((s.ctx c).drain = none →
      (startedAs s q n 0x11 = some k → ∀ o, old.find? (fun x => x.vstart == at_) = some o →
        (holdsMaps old o = false → ∃ u, exec (.rangeUnmap q n) s = .next u ∧
          invalidated s u c q n (old.filter (fun x => x != o)) [o] [] (coveredLines (pruneTombs s c) c [o]) false) ∧
        (holdsMaps old o = true → ∃ u, exec (.rangeUnmap q n) s = .next u ∧ completed s u q n .malformed)) ∧
      (startedAs s q n 0x13 = some k → ∃ u, exec (.rangeSync q n) s = .next u ∧ invalidated s u c q n old [] [] [] true)) ∧
    (∀ d, (s.ctx c).drain = some d → d.q = q → d.n = n → s.cmd q n = some k → k.phase = .executing →
      (oldEpochEmpty s c d = true → ∃ u, exec (.rangeDrainEnd c) s = .next u ∧ completed s u q n .done ∧ (u.ctx c).drain = none ∧
        (u.ctx c).ranges = old ∧ u.mem = s.mem) ∧
      (oldEpochEmpty s c d = false → exec (.rangeDrainEnd c) s = .next s)) ∧
    (startedAs s q n 0x18 = some k → ∀ o u2, old.find? (fun x => x.vstart == at_ && x.dlog) = some o →
      let s0 := startXlat s q n
      let cnt := bytesOf k.raw 24 27
      let dst := bytesOf k.raw 32 39
      bytesOf k.raw 16 23 + cnt ≤ (o.pages + 63) / 64 → dst % 8 = 0 → k.aux = 0 → k.firstErr = none → k.haltErr = none →
      serve s0 (useOfCmd s0 q n) dst (8 * cnt) .write = (s0, u2, false) →
      (∀ x ∈ cut dst (8 * cnt), ∃ key en, locate s0 u2 x.1 .write = .loc key en ∧ en.mig = false ∧ en.dlog = false) →
      ∃ u, exec (.dirtyHarvest q n) s = .next u ∧ completed s u q n .done ∧
        (∀ x, u.cmd q n = some x → x.aux = BitVec.ofNat 32 cnt) ∧
        (∀ key tk en, cnt = 1 → mapAt s0 u2 (o.dmap + 8 * bytesOf k.raw 16 23) = .key key → locate s0 u2 dst .write = .loc tk en →
          (tk + 8 ≤ key ∨ key + 8 ≤ tk) → readNat u tk 8 = readNat s key 8 ∧ readNat u key 8 = 0 ∧
            ∀ j, (j < key ∨ key + 8 ≤ j) → (j < tk ∨ tk + 8 ≤ j) → readB u j = readB s j)) ∧
    (startedAs s q n 0x30 = some k →
      let x := s.sail sl
      let pages := bytesOf k.raw 16 23
      at_ % 4096 = 0 → pages ≠ 0 → x.shared.length < 16 → s.isOwnNode (at_ / 2 ^ 48 % 2 ^ 16) = true →
      spanMapped s (at_ % 2 ^ 48) (4096 * pages) = true → spanOwned s sl (at_ % 2 ^ 48) (4096 * pages) = true →
      (∀ d ∈ sailCtxs s sl, ∀ y ∈ (s.ctx d).ranges, y.w = false) →
      ∃ u, exec (.sharedCreate q n) s = .next u ∧ completed s u q n .done ∧
        (u.sail sl).shared = x.shared ++ [(freeShared x, { base := at_ % 2 ^ 48, pages := pages, hostRef := true, refs := 0 })] ∧
        ∀ y, u.cmd q n = some y → y.aux = BitVec.ofNat 32 (freeShared x)) ∧
    (startedAs s q n 0x31 = some k → ∀ h o, (s.sail sl).shared.find? (fun p => p.1 == bytesOf k.raw 8 9 && p.2.hostRef) = some (h, o) →
      ∃ u, exec (.sharedRelease q n) s = .next u ∧ completed s u q n .done ∧
        (o.refs = 0 → ∀ y ∈ (u.sail sl).shared, y.1 ≠ bytesOf k.raw 8 9) ∧
        (o.refs ≠ 0 → (u.sail sl).shared = (s.sail sl).shared.map (fun y =>
          if y.1 = bytesOf k.raw 8 9 then (bytesOf k.raw 8 9, { o with hostRef := false }) else y)))

/-- R199 to R204: a migration from local memory ends with its page copied and resident; a GDDR7 access whose timer of 10 µs (log entry 26)
expires comes back poisoned; prefetch, advice and order slots.
Completes: migrationComplete, accessTimerExpiry, prodRead, memPrefetch, memAdvise, orderSet, orderClear. -/
def Obligations.MemoryTiers : Prop :=
  (∀ (s : State) (c vstart page k pool : Nat) (m : Migration),
    (s.ctx c).migs.find? (fun m => m.isFor vstart page) = some m → m.keyGen = s.memGen ((s.ctxSail c).getD 64) →
    m.begun = true → m.evict = false → m.failed = none → m.wb ≤ m.asked → m.wb ≤ m.got →
    poolKey s (migUse s c m) m.poolPage = some pool → pageAt s m.range page = .key k → (k + 65536 ≤ pool ∨ pool + 65536 ≤ k) →
    (∀ pk, mapAt s (migUse s c m) (m.range.pmap + 8 * page) = .key pk → pk + 8 ≤ pool ∨ pool + 65536 ≤ pk) →
    ∃ u, exec (.migrationComplete c vstart page) s = .next u ∧
      (u.ctx c).migs = (s.ctx c).migs.filter (fun m => !m.isFor vstart page) ∧
      (u.ctx c).migrations = min ((s.ctx c).migrations + 1) 0xFFFFFFFF ∧
      (∀ i, i < 65536 → readB u (pool + i) = readB s (k + i)) ∧
      (∀ pk, mapAt s (migUse s c m) (m.range.pmap + 8 * page) = .key pk →
        readNat u pk 8 = 1 + (if m.pin then 4 else 0) + 256 * m.poolPage)) ∧
  (∀ (s : State) (y e k key ch lc tag ek : Nat) (r : YReq) (x : RowReq) (en : RangeE), openRow s y e k = some (r, x) →
    locate s (reqUse s r.ctx r.q r.n) x.va .read = .loc key en → regionOf key = some (.gddr ch) → FromCore s y r.id r lc tag ek →
    10000 ≤ (s.time - x.asked).toNat →
    ∃ u, exec (.accessTimerExpiry (.row y e k)) s = .next u ∧ u.ttl.written = s.ttl.written + 1 ∧
      answered s u y r.id { r with rows := r.rows.set k { x with arrived := true, poison := true } } lc tag ek .faultPoison []) ∧
  (∀ (s : State) (q n : Nat) (k : CmdRec) (e : RangeE) (l : List Nat),
    let c := s.queueCtx q
    let s0 := startXlat s q n
    let ent := fun p => pageEntry s0 (useNow s0 c) e p
    adviceSpan s0 (useOfCmd s0 q n) k = .ok (e, l) →
    (startedAs s q n 0x14 = some k →
      ((∀ p ∈ l, ent p % 2 = 1) → ∃ u, exec (.memPrefetch q n) s = .next u ∧ completed s u q n .done ∧ u.mem = s.mem) ∧
      (∀ p r pp, l = [p] → ent p % 2 = 0 → e.direct = false → pageBusy (s0.ctx c) e.vstart p = false → sailMigs s0 c < 16 →
        sweep s0 (useNow s0 c) (2 * (s0.ctx c).poolPages) (s0.ctx c).hand = (r, some pp) → (r.ctx c).migs = (s.ctx c).migs → r.queues = s0.queues →
        ∃ u, exec (.memPrefetch q n) s = .next u ∧
          (u.ctx c).migs = (s.ctx c).migs ++ [Migration.fresh r (useNow s0 c) e p pp false false] ∧
          (bytesOf k.raw 24 24 % 2 = 1 → completed s u q n .done) ∧ (bytesOf k.raw 24 24 % 2 = 0 → u.queues = s0.queues))) ∧
    (startedAs s q n 0x15 = some k →
      (bytesOf k.raw 24 24 = 0 → (∀ p ∈ l, ent p % 2 = 1) → ∃ u, exec (.memAdvise q n) s = .next u ∧ completed s u q n .done ∧ u.mem = s.mem) ∧
      (bytesOf k.raw 24 24 = 3 → ∀ p, l = [p] → ∃ u, exec (.memAdvise q n) s = .next u ∧ completed s u q n .done ∧
        ∀ pk, mapAt s0 (useNow s0 c) (e.pmap + 8 * p) = .key pk →
          readNat u pk 8 = (if ent p / 4 % 2 = 1 then ent p - 4 else ent p) ∧
          ∀ j, (j < pk ∨ pk + 8 ≤ j) → readB u j = readB s j) ∧
      (bytesOf k.raw 24 24 = 5 → (s.ctx c).drain = none → ∃ u, exec (.memAdvise q n) s = .next u ∧
        invalidated s u c q n ((s.ctx c).ranges.map (fun x => if x.vstart = e.vstart then { x with direct := false } else x)) [] []
          (((s.ctx c).poolRange.map (fun o => (o.lpa, o.bytes))).toList) false)) ∧
    (startedAs s q n 0x15 = some k → 5 < bytesOf k.raw 24 24 →
      ∃ u, exec (.memAdvise q n) s = .next u ∧ completed s u q n .malformed)) ∧
  (∀ (s : State) (q n sl : Nat) (k : CmdRec), s.ctxSail (s.queueCtx q) = some sl →
    let y := bytesOf k.raw 16 16
    let i := bytesOf k.raw 17 17
    y < 16 → i < min 32 (orderQuota s y sl) →
    (startedAs s q n 0x16 = some k → ∀ l, busRead s q (bytesOf k.raw 8 15) 64 = some l →
      (orderOk l = true → ∃ u, exec (.orderSet q n) s = .next u ∧ completed s u q n .done ∧
        (u.yard y).orders.get OrderSlot.empty (32 * sl + i) = orderOf l sl (s.queueCtx q)) ∧
      (orderOk l = false → ∃ u, exec (.orderSet q n) s = .next u ∧ completed s u q n .malformed ∧ u.yards = s.yards)) ∧
    (startedAs s q n 0x17 = some k → ∃ u, exec (.orderClear q n) s = .next u ∧ completed s u q n .done ∧
      (u.yard y).orders.get OrderSlot.empty (32 * sl + i) = OrderSlot.empty)) ∧
  (∀ (s : State) (y key : Nat) (pl dl : List Byte),
    let o := (s.yard y).orders.get OrderSlot.empty key
    let u := useNow s o.ctx
    let first := max o.consumed o.fetched
    let last := min (o.consumed + o.lead) (leNat pl)
    let ids := ((List.range (last - first)).map (fun i => first + i)).filterMap (orderId s u o)
    o.lead ≠ 0 → 2000 ≤ (s.time - o.lastRead).toNat → vread s u o.prod 8 = .ok pl → readDesc s u o.table = .ok dl →
    descOk dl = true → (tableRemote s u (tableOf dl) = .ok none) →
    let r := prefetchIds s u o.sail (tableOf dl) o.raw o.idw32 ids
    ∃ t, exec (.prodRead y key) s = .next t ∧ (t.yard y).orders.get OrderSlot.empty key = { o with
        lastRead := s.time, fetched := max first last, dropped := o.dropped + r.2 + (last - first - ids.length) } ∧
      (∀ z, (t.yard z).cache = (r.1.yard z).cache) ∧ t.cores = s.cores)

/-! ### The mesh -/

/-- R145 to R148, R152, R153, R161, R170: a router completes a slot when every input holds a token and every output has room: each input
gives its head, a SKIP over its slots; each output takes what its entry names, or one SKIP for the run of slots that name nothing; a
delivered frame is kept only when its sail is the entry's, and its unit has it two slots later.
Completes: meshSlot, meshRtrClr. -/
def Obligations.MeshSlots : Prop :=
  (∀ (s : State) (r : Nat), s.mesh.running = true → r < routers → canMove s r = true → s.pwr.stopped.contains (.router r) = false →
    (∀ e, presentEntry s r = some e → 5 ∉ e.out.toList ∧ e.out.toList.getD 4 0 = 0) → s.mesh.swapNext = false →
    s.mesh.eject.get [] r = [] → (r < 2400 ∨ 2432 ≤ r) →
    (∀ d ∈ dirs, (linkEnd r d).isSome = true → ∀ t ∈ (tokensIn s r d).head?,
      t.swap = false ∧ t.kind ≠ .bad ∧ ∀ f, t.kind = .frame f → f.crc = f.sum) →
    ∃ u, exec (.meshSlot r) s = .next u ∧ u.mesh.slot.get 0 r = s.mesh.slot.get 0 r + 1 ∧ u.mem = s.mem ∧ u.cores = s.cores ∧
      ∀ d ∈ dirs, ∀ f fd n, linkEnd r d = some (f, fd, n) →
        let code := ((presentEntry s r).map (fun e => e.out.toList.getD (dirNo d) 0)).getD 0
        let left := entryLeft (presentTable s r) (position s r)
        tokensIn u r d = afterSlot (tokensIn s r d) ∧
        (skipLeft s r d = 0 → (code ≠ 0 ∨ left < 2) →
          tokensIn u f fd = tokensIn s f fd ++ [{ kind := sourceKind s r code, swap := false }]) ∧
        (skipLeft s r d = 0 → code = 0 → 2 ≤ left → skipLeft u r d = min 64 left - 1 ∧
          tokensIn u f fd = tokensIn s f fd ++ [{ kind := .skip (min 64 left), swap := false }]) ∧
        (0 < skipLeft s r d → code = 0 → skipLeft u r d = skipLeft s r d - 1 ∧ tokensIn u f fd = tokensIn s f fd)) ∧
  (∀ (s : State) (r : Nat), s.mesh.running = false ∨ canMove s r = false → exec (.meshSlot r) s = .next s) ∧
  (∀ (s : State) (r : Nat) (e : SlotEntry) (f : Frame),
    let u := deliver s r e f
    (f.sail.toNat = e.outSail → (lfenced s r = false ∨ 0x11 < e.outTag) → u.mesh.cnt = s.mesh.cnt ∧
      u.mesh.eject.get [] r = s.mesh.eject.get [] r ++ [{ due := s.mesh.slot.get 0 r + 2, tag := e.outTag, f := f }]) ∧
    ((f.sail.toNat ≠ e.outSail ∨ (lfenced s r = true ∧ e.outTag ≤ 0x11)) → u.mesh.eject = s.mesh.eject ∧
      (u.mesh.cnt.get RtrCounters.zero r).discard = satInc (s.mesh.cnt.get RtrCounters.zero r).discard)) ∧
  (∀ (s : State) (r : Nat) (x : Ejected), coreAt s r = none → requestTo s r x.tag = none → lfenced s r = false →
    handOver s r x = { s with mesh := { s.mesh with rx := s.mesh.rx.upd [] (tagKey r x.tag) (fun l => l ++ [x.f]) } }) ∧
  (∀ (s : State) (fn : HostFn) (v : Word),
    ((∃ p, fn = .pf p) → v.getLsbD 0 = true → ∃ u, exec (.meshRtrClr fn v) s = .next u ∧
      u = { s with mesh := { s.mesh with cnt := u.mesh.cnt } } ∧
      u.mesh.cnt.get RtrCounters.zero (min s.mesh.rtrSel 2464) = RtrCounters.zero ∧
      ∀ j, j ≠ min s.mesh.rtrSel 2464 → u.mesh.cnt.get RtrCounters.zero j = s.mesh.cnt.get RtrCounters.zero j) ∧
    (((∀ p, fn ≠ .pf p) ∨ v.getLsbD 0 = false) → exec (.meshRtrClr fn v) s = .next s))

/-! ### The Ryurun fabric -/

/-- R210, R211, R213, R216, R220 to R222: training, identity, loss, LINK blocks, resending, block slots and lost codewords of a port; a
fenced port stays fenced.
Completes: portTraining, linkLoss, ident, link, ackTimerExpiry, ryuClr, blockSlot, uncorrectableCodeword. -/
def Obligations.RyurunLinks : Prop :=
  ∀ (s : State) (p : Nat),
    let x := s.port p
    (x.fenced = true → (∀ t, exec (.portTraining p t) s = .next s) ∧ (∀ b, exec (.linkLoss p b) s = .next s) ∧
      (∀ node peer digest, exec (.ident p node peer digest) s = .next s) ∧ (∀ rx, exec (.blockSlot p rx) s = .next s)) ∧
    (x.fenced = false → ∀ t : TrainResult,
      (t.ok = true → exec (.portTraining p t) s = .next (s.setPort p { x with
        trained := true, up := false, polarity := t.polarity, laneMap := t.laneMap, txSlot := 0, rxSlot := 0, cur := [], part := [],
        nakDue := false, identDue := true, credit := [], spent := [], owed := freshOwed s p,
        rxSeq := (x.part.head?.map (fun f => f.seq)).getD x.rxSeq })) ∧
      (t.ok = false → exec (.portTraining p t) s = .next (s.setPort p { x with trained := false, up := false }))) ∧
    (x.fenced = false → x.trained = true → ∀ node peer digest d, s.linkDef p = some d →
      let bad := (d.peerNode ≠ 0xFFFF ∧ d.peerNode ≠ node) ∨ (d.peerPort ≠ 0xFF ∧ d.peerPort ≠ peer)
      ∃ u, exec (.ident p node peer digest) s = .next u ∧ u.mem = s.mem ∧
        u.port p = { x with
          peerNode := node, peerPort := peer, peerDigest := digest, peerMismatch := decide bad,
          schedMismatch := decide (digest ≠ linkDigest s p), up := decide (¬ bad ∧ digest = linkDigest s p) } ∧
        (¬ bad → digest = linkDigest s p → u.ttl = s.ttl) ∧ (bad ∨ digest ≠ linkDigest s p → u.ttl.written = s.ttl.written + 1)) ∧
    (x.fenced = false → recurs s.time x.lastLoss = false → ∃ u, exec (.linkLoss p true) s = .next u ∧
      (u.port p).trained = true ∧ (u.port p).identDue = true ∧ (u.port p).txSlot = 0 ∧ (u.port p).rxSlot = 0 ∧
      (u.port p).lastLoss = some s.time ∧ (u.port p).retrains = satInc x.retrains ∧ (u.port p).owed = freshOwed s p ∧
      (u.port p).unacked = [] ∧ (u.port p).sendQ.map (fun f => f.seq) = (x.unacked ++ x.sendQ).map (fun f => f.seq) ∧
      (∀ f ∈ (u.port p).sendQ, f.resends ≤ 1) ∧ u.ttl.written = s.ttl.written + 1 ∧ u.mem = s.mem) ∧
    (x.fenced = false → (∀ y ∈ s.ryu.tags, y.2.op = none) → ∃ u, exec (.linkLoss p false) s = .next u ∧
      (u.port p).fenced = true ∧ (u.port p).up = false ∧ (u.port p).trained = false ∧ fenced u 5 p = true ∧ u.mem = s.mem ∧
      u.ryu.fmOut = toManager s [.recovery true 0 [] false [p]]) ∧
    (x.trained = true → ∀ b : LinkBlock,
      let keep := fun (f : TxFrame) => !upTo b.ackSeq f.seq
      (b.crcOk = false → exec (.link p b) s = .next (s.setPort p { x with crc := satInc x.crc })) ∧
      (b.crcOk = true → b.nak = false → b.ackV = true → ∃ u, exec (.link p b) s = .next u ∧ u.mem = s.mem ∧
        (u.port p).unacked = x.unacked.filter keep ∧ (u.port p).rxSlot = (if b.pmark then 1 else x.rxSlot) ∧
        ∀ y, b.credits = [y] → y.valid = true → (u.port p).credit.get 0 (8 * y.lease.toNat + y.cls.toNat) =
          x.credit.get 0 (8 * y.lease.toNat + y.cls.toNat) + y.blocks.toNat) ∧
      (b.crcOk = true → b.nak = true → b.ackV = true → (∀ f ∈ x.unacked, f.resends < 4) → ∃ u, exec (.link p b) s = .next u ∧
        u.mem = s.mem ∧ (u.port p).unacked = [] ∧ (u.port p).sendQ = (x.unacked.filter keep).map (fun f => { f with
          resends := f.resends + 1 }) ++ x.sendQ.filter (fun f => f.resends == 0 || keep f))) ∧
    (x.trained = true → ∀ f rest, x.unacked = f :: rest → 1000 ≤ (s.time - f.sentAt).toNat →
      let again := x.unacked.map (fun g => { g with resends := g.resends + 1 })
      ((∀ g ∈ x.unacked, g.resends < 4) → ∃ u, exec (.ackTimerExpiry p) s = .next u ∧ u.mem = s.mem ∧ u.cores = s.cores ∧
        u.port p = { x with replays := satInc x.replays, cur := [], unacked := [], sendQ := again ++ x.sendQ }) ∧
      ((∃ g ∈ x.unacked, 4 ≤ g.resends) → exec (.ackTimerExpiry p) s = .next (s.setPort p { x with
        trained := false, cur := [], unacked := [], sendQ := again ++ x.sendQ }))) ∧
    (x.trained = true → x.fenced = false →
      (x.txSlot % 32 ≠ 0 → ∀ lease c b rest, slotLease s p x.txSlot = some lease →
        (15 ≤ lease ∨ (portUp s p = true ∧ s.ryu.assigned = true)) → x.cur.find? (fun y => y.lease == lease) = some c →
        c.left = b :: rest → ∃ u, exec (.blockSlot p none) s = .next u ∧ (u.port p).lastTx = 0 :: b ∧
          (u.port p).txSlot = (x.txSlot + 1) % 256 ∧ (u.port p).rxSlot = (x.rxSlot + 1) % 256 ∧ u.mem = s.mem) ∧
      (x.txSlot % 32 ≠ 0 → slotLease s p x.txSlot = none → ∃ u, exec (.blockSlot p none) s = .next u ∧
        (u.port p).lastTx = 1 :: (if x.identDue = true ∨ x.up = false then identBlock s p else controlBlock [3]) ∧
        (u.port p).txSlot = (x.txSlot + 1) % 256 ∧ u.mem = s.mem) ∧
      (x.txSlot = 0 → ∃ u, exec (.blockSlot p none) s = .next u ∧ (u.port p).lastTx = 1 :: linkBlockOf x 0 ∧
        (u.port p).txSlot = 1 ∧ (u.port p).owed = x.owed.drop 8 ∧ u.mem = s.mem)) ∧
    (x.trained = true → ∃ u v, exec (.uncorrectableCodeword p true) s = .next u ∧ exec (.uncorrectableCodeword p false) s = .next v ∧
      (u.port p).uncorr = satInc x.uncorr ∧ (u.port p).rxSlot = (x.rxSlot + 20) % 256 ∧ (u.port p).crc = x.crc ∧
      (v.port p).crc = satInc x.crc ∧ (v.port p).uncorr = x.uncorr ∧ (u.port p).nakDue = true ∧ (v.port p).nakDue = true) ∧
    (∀ v i, v.getLsbD 0 = true → s.ryu.portSel = p → ∃ u, exec (.ryuClr (.pf i) v) s = .next u ∧
      u.port p = { x with uncorr := 0, crc := 0, replays := 0, retrains := 0, corrected := 0 } ∧ u = { s with ryu := u.ryu } ∧
      u.ryu = { s.ryu with
        ports := u.ryu.ports, devPeak := 0, staleGen := 0, late := 0, auth := 0, misroute := 0, queries := 0, rulings := 0, stale := 0 })

/-- R217, R218: a message on no lease of a sail, or for another node, is dropped and counted, and so is one without a right tag. -/
def Sys2Proof.Claims.RemoteFrames : Prop :=
  ∀ (s : State) (port : Nat) (m : RyuMsg), portUp s port = true →
    ∀ x ∈ [Instr.rd port m, .wr port m, .lkup port m, .hint port m, .impOpen port m, .impClose port m, .resp port m, .impAck port m],
      (¬ forDevice s m.dst ∨ leaseSail s port m.lease = none →
        exec x s = .next { s with ryu := { s.ryu with misroute := satInc s.ryu.misroute } }) ∧
      (∀ sl, Comes s port m sl → m.enc = false ∨ m.tagOk = false →
        exec x s = .next { s with ryu := { s.ryu with auth := satInc s.ryu.auth } })

/-- R226, R227, R229, R231, R232, R241, R251, R261: what the owner of an export does with requests, in the order of its checks; every
request but a hint is answered. -/
def Sys2Proof.Claims.RemoteRequests : Prop :=
  ∀ (s : State) (port sl rp : Nat) (m : RyuMsg), Taken s port m sl (winSlot s m.win sl) → replyPort s sl m.src = some rp →
    let all := [Instr.rd port m, .wr port m, .lkup port m, .impClose port m]
    (Tbl.look s.ryu.exports m.win = none →
      ((∀ k, Tbl.look s.ryu.gone m.win = some k → m.keyGen = (s.slot k).gen) →
        ∀ x ∈ all, ∃ u, exec x s = .next u ∧ replied s u sl rp 0x20 m .faultPermission [] [] ∧ u.mem = s.mem) ∧
      (∀ k, Tbl.look s.ryu.gone m.win = some k → m.keyGen ≠ (s.slot k).gen → ∀ x ∈ all, ∃ u, exec x s = .next u ∧
        replied s u sl rp 0x20 m .abortKeyRevoked [] [] ∧ u.ryu.staleGen = satInc s.ryu.staleGen ∧ u.mem = s.mem) ∧
      ∃ u, exec (.impOpen port m) s = .next u ∧ replied s u sl rp 0x61 m .faultPermission [] [] ∧ u.mem = s.mem) ∧
    (∀ e, Tbl.look s.ryu.exports m.win = some e → (s.sail e.sail).recovering = true →
      (∀ x ∈ all, ∃ u, exec x s = .next u ∧ replied s u sl rp 0x20 m .remoteUnreachable [] [] ∧ u.mem = s.mem) ∧
      ∃ u, exec (.impOpen port m) s = .next u ∧ replied s u sl rp 0x61 m .remoteUnreachable [] [] ∧ u.mem = s.mem) ∧
    (∀ e, Tbl.look s.ryu.exports m.win = some e → (s.sail e.sail).recovering = false → m.keyGen ≠ (s.slot e.keyslot).gen →
      ∀ x ∈ all, ∃ u, exec x s = .next u ∧ replied s u sl rp 0x20 m .abortKeyRevoked [] [] ∧
        u.ryu.staleGen = satInc s.ryu.staleGen ∧ (x ≠ .wr port m → u.mem = s.mem)) ∧
    (∀ e, Exported s m e → e.read = true →
      (∀ st, windowCheck e m = some st → ∃ u, exec (.rd port m) s = .next u ∧ replied s u sl rp 0x20 m st [] [] ∧ u.mem = s.mem) ∧
      (windowCheck e m = none → ∃ u, exec (.rd port m) s = .next u ∧ u.mem = s.mem ∧
        let r := windowRead s (e.base + m.arg.toNat) (32 * (m.xlen.toNat + 1))
        replied s u sl rp 0x20 m .done r.1 r.2)) ∧
    (∀ e, Exported s m e → e.write = true → windowCheck e m = none →
      (s.heldSpan (e.base + m.arg.toNat) m.accessLen = true → ∃ u, exec (.wr port m) s = .next u ∧
        replied s u sl rp 0x20 m .faultPermission [] [] ∧ u.mem = s.mem) ∧
      (s.heldSpan (e.base + m.arg.toNat) m.accessLen = false → m.payload.length = 32 * (m.xlen.toNat + 1) →
        e.base + 4096 * e.pages ≤ dramEnd → (∀ c ∈ sailCtxs s e.sail, ∀ y ∈ (s.ctx c).ranges, y.dlog = false) →
        ∃ u, exec (.wr port m) s = .next u ∧ replied s u sl rp 0x20 m .done [] [] ∧
          (∀ i, i < m.payload.length → some (readB u (e.base + m.arg.toNat + i)) = m.payload[i]?) ∧
          ∀ j, (j < e.base + m.arg.toNat ∨ e.base + m.arg.toNat + m.payload.length ≤ j) → readB u j = readB s j)) ∧
    (∀ e id, Exported s m e → e.lkup = true → 32 ≤ m.payload.length → m.payload.length = recordLen (reqHdr m.payload) →
      (reqHdr m.payload).yop ∈ [0x01, 0x02, 0x03] →
      (lkupWaits s port m e = true → ∃ u, exec (.lkup port m) s = .next u ∧ u.mem = s.mem ∧ u.yards = s.yards ∧
        (u.port port).waiting = (s.port port).waiting ++ [{ msg := m, owe := none }] ∧ u.ryu.outbox = s.ryu.outbox) ∧
      (lkupWaits s port m e = false → id = (s.yard e.yard).nextReq → (∀ r ∈ (s.yard e.yard).reqs, r.id ≠ id) →
        lookupEngines s e.yard e.sail ≠ [] → (reqHdr (withTable m.payload e.table)).yop ∈ [0x01, 0x02, 0x03] →
        ∃ u, exec (.lkup port m) s = .next u ∧ u.mem = s.mem ∧ u.ryu = s.ryu ∧ (u.yard e.yard).reqs = (s.yard e.yard).reqs ++ [{
          id := id, sail := e.sail, ctx := e.ctx, q := 0x100000000, n := 0, from_ := .remote port m.src m.tag m.tepoch m.win m.rKeyGen,
          record := withTable m.payload e.table, phase := .waiting, desc := [], rows := [], comb := 0, acc := [], out := [], keyGen := 0,
          spans := [] }])) ∧
    (∀ e l, Exported s m e → e.lkup = true → m.arg.toNat ≤ 512 → readDesc s (useNow s e.ctx) e.table = .ok l → descOk l = true →
      ∃ u, exec (.hint port m) s = .next u ∧ u.ryu = s.ryu ∧
        ∀ z, (u.yard z).cache = ((prefetchIds s (useNow s e.ctx) e.sail (tableOf l) false false
          ((List.range m.arg.toNat).map (fun i => leNat ((m.payload.drop (8 * i)).take 8)))).1.yard z).cache) ∧
    (∀ e, Tbl.look s.ryu.exports m.win = some e → (s.sail e.sail).recovering = false → e.closing = false →
      (m.src ∈ e.allow ∨ ∀ a ∈ e.allow, a = 0xFFFF) → ∃ u, exec (.impOpen port m) s = .next u ∧
        Tbl.look u.ryu.exports m.win = some { e with refs := e.refs + 1 } ∧
        replied s u sl rp 0x61 m .done (leBytes 8 e.base ++ leBytes 8 (e.pages + 2 ^ 36 * e.perms) ++
          leBytes 16 (s.slot e.keyslot).gen.toNat) []) ∧
    (∀ e, Exported s m e → ∃ u, exec (.impClose port m) s = .next u ∧ replied s u sl rp 0x20 m .done [] [] ∧
      (e.closing = true → e.refs ≤ 1 → Tbl.look u.ryu.exports m.win = none ∧ Tbl.look u.ryu.gone m.win = some e.keyslot) ∧
      (e.closing = false ∨ 1 < e.refs → Tbl.look u.ryu.exports m.win = some { e with refs := e.refs - 1 }))

/-- R234 to R241: a response ends the operation under its tag and TEPOCH advances; one without an operation, or of another epoch,
is dropped and counted; a timer that expires ends the operation with REMOTE_TIMEOUT, and stands while a frame of it is replayed;
IMP_ACK completes IMPORT_OPEN. -/
def Sys2Proof.Claims.RemoteAnswers : Prop :=
  (∀ (s : State) (port sl : Nat) (m : RyuMsg), Taken s port m sl (tagSlot s m.tag sl) →
    let t := s.ryu.tags.get TagSt.free m.tag
    (t.op = none ∨ t.epoch ≠ m.tepoch → ∀ x ∈ [Instr.resp port m, .impAck port m],
      exec x s = .next { s with ryu := { s.ryu with late := satInc s.ryu.late } }) ∧
    (∀ o lc tag key, t.op = some o → t.epoch = m.tepoch → o.kind = .lkup → o.from_ = .core lc tag → endpointOf s lc tag = some key →
      m.poison = [] →
      (m.keyGen = (s.linkSlot o.sail).gen → m.arg.toNat % 65536 = 0 → m.payload.length = o.expect →
        ∃ u, exec (.resp port m) s = .next u ∧ returned s u lc tag key .done m.payload ∧
          u.ryu.tags.get TagSt.free m.tag = { epoch := t.epoch + 1, op := none } ∧ u.mem = s.mem) ∧
      (m.keyGen ≠ (s.linkSlot o.sail).gen → ∃ u, exec (.resp port m) s = .next u ∧ returned s u lc tag key .abortKeyRevoked [] ∧
        u.ryu.tags.get TagSt.free m.tag = { epoch := t.epoch + 1, op := none } ∧ u.ryu.staleGen = satInc s.ryu.staleGen)) ∧
    (∀ o q n i k, t.op = some o → t.epoch = m.tepoch → o.kind = .impOpen → o.from_ = .importCmd q n → s.cmd q n = some k →
      k.isCompleted = false → m.keyGen = (s.linkSlot o.sail).gen → m.arg.toNat % 65536 = 0 → Tbl.look s.ryu.imports o.imp = some i →
      ∃ u, exec (.impAck port m) s = .next u ∧ completed s u q n .done ∧
        (∀ x, u.cmd q n = some x → x.aux = BitVec.ofNat 32 o.imp) ∧ Tbl.look u.ryu.imports o.imp = some (importOf i o.node m.payload))) ∧
  (∀ (s : State) (tag : Nat) (o : RemOp), (s.ryu.tags.get TagSt.free tag).op = some o →
    (∀ t lc t2 key, o.started = some t → o.paused = none → o.from_ = .core lc t2 → endpointOf s lc t2 = some key →
      1000 * o.timeout ≤ (s.time - t).toNat → ∃ u, exec (.remoteTimeout tag) s = .next u ∧
        returned s u lc t2 key .remoteTimeout [] ∧ u.mem = s.mem ∧
        u.ryu.tags.get TagSt.free tag = { epoch := (s.ryu.tags.get TagSt.free tag).epoch + 1, op := none }) ∧
    (o.started = none ∨ o.paused.isSome = true ∨ (∃ t, o.started = some t ∧ (s.time - t).toNat < 1000 * o.timeout) →
      exec (.remoteTimeout tag) s = .next s))

/-- Operations on other nodes: the frames that are taken, requests and their answers.
Completes: rd, wr, lkup, hint, resp, impOpen, impAck, impClose, remoteTimeout. -/
def Obligations.RemoteOperations : Prop := Claims.RemoteFrames ∧ Claims.RemoteRequests ∧ Claims.RemoteAnswers

/-- R225 to R227, R313: exports and imports are opened and closed by commands.
Completes: exportCreate, exportDestroy, importOpen, importClose. -/
def Obligations.ExportsAndImports : Prop :=
  ∀ (s : State) (q n sl : Nat) (k : CmdRec) (d : SailDesc), s.ctxSail (s.queueCtx q) = some sl → s.desc sl = some d →
    (startedAs s q n 0x20 = some k → ∀ l w, busRead s q (bytesOf k.raw 8 15) 64 = some l →
      let e := exportOf l (s.queueCtx q)
      exportOk l = true → (s.ryu.exports.filter (fun p => p.2.sail == sl)).length < d.exports →
      spanMapped s e.base (4096 * e.pages) = true →
      (e.sail ≠ sl → e.lkup = false → ∃ u, exec (.exportCreate q n) s = .next u ∧ completed s u q n .faultPermission ∧ u.ryu = s.ryu) ∧
      (e.sail = sl → e.keyslot = d.linkKey → spanOwned s sl e.base (4096 * e.pages) = true →
        (e.write = true → sharedHit s sl e.base (4096 * e.pages) = false) → (e.lkup = true → s.ctxSail e.ctx = some sl) →
        (e.lkup = true → ((s.ryu.exports.filter (fun p => p.2.lkup && p.2.yard == e.yard)).map (fun p => p.2.quota)).sum + e.quota ≤
          remoteShare s e.yard) →
        freeIndex s.ryu.exports 1024 = some w → ∃ u, exec (.exportCreate q n) s = .next u ∧ completed s u q n .done ∧
          Tbl.look u.ryu.exports w = some e ∧ ∀ x, u.cmd q n = some x → x.aux = BitVec.ofNat 32 w)) ∧
    (startedAs s q n 0x21 = some k → ∀ e, Tbl.look s.ryu.exports (bytesOf k.raw 8 9) = some e → e.sail = sl →
      ∃ u, exec (.exportDestroy q n) s = .next u ∧ completed s u q n .done ∧
        (e.closing = false → Tbl.look u.ryu.exports (bytesOf k.raw 8 9) =
          if e.refs ≤ 1 then none else some { e with refs := e.refs - 1, closing := true })) ∧
    (startedAs s q n 0x22 = some k → ∀ h s1 tag,
      let node := bytesOf k.raw 8 9
      let win := bytesOf k.raw 10 11
      let t := if bytesOf k.raw 12 15 = 0 then 500 else bytesOf k.raw 12 15
      let hops := (s.ryu.routes.get { mask := 0, hops := 0 } node).hops
      50 ≤ t → t ≤ 100000 → 8 * hops + 20 ≤ t → (s.ryu.imports.filter (fun p => p.2.sail == sl)).length < d.imports →
      freeIndex s.ryu.imports 4096 = some h →
      issueOp s .impOpen sl (s.queueCtx q) node win h t 0 0 0 0 0 [] [] (.importCmd q n) = .sent s1 tag →
      ∃ u, exec (.importOpen q n) s = .next u ∧ u.ryu.outbox = s1.ryu.outbox ∧ u.ryu.tags = s1.ryu.tags ∧
        (∃ i, Tbl.look u.ryu.imports h = some i ∧ i.node = node ∧ i.win = win ∧ i.timeout = t ∧ i.sail = sl ∧ i.ready = false) ∧
        ∃ x, u.cmd q n = some x ∧ x.phase = .executing) ∧
    (startedAs s q n 0x23 = some k → ∀ i, Tbl.look s.ryu.imports (bytesOf k.raw 8 11) = some i → i.sail = sl →
      (i.ready = false → ∃ u, exec (.importClose q n) s = .next u ∧ completed s u q n .malformed) ∧
      (i.ready = true → ∀ s2 tag, issueOp (closeImport s (bytesOf k.raw 8 11)) .impClose sl (s.queueCtx q) i.node i.win
          (bytesOf k.raw 8 11) i.timeout 0 0 0 i.ogen 0 [] [] (.importCmd q n) = .sent s2 tag →
        (∀ y ∈ s.ryu.tags, y.2.op = none) →
        ∃ u, exec (.importClose q n) s = .next u ∧ u.ryu = s2.ryu ∧
          Tbl.look u.ryu.imports (bytesOf k.raw 8 11) = some { i with closing := true } ∧ ∃ x, u.cmd q n = some x ∧ x.phase = .executing))


/-- R242 to R246: a stream is opened and closed by commands; a frame that fits lands as one record behind which PROD is published;
lost frames join one pending loss; CONS counts only where it lies between the old count and P.
Completes: ing, consRead, ingOpen, ingClose. -/
def Obligations.IngestStreams : Prop :=
  (∀ (s : State) (q n sl : Nat) (k : CmdRec), s.ctxSail (s.queueCtx q) = some sl →
    (startedAs s q n 0x24 = some k → ∀ l, busRead s q (bytesOf k.raw 8 15) 64 = some l →
      let i := recField l 0 15 0
      let full := ((s.desc sl).map (·.ingest)).getD 0 ≤ (s.ryu.ingest.filter (fun p => p.2.sail == sl)).length
      (ingestOk l = true → Tbl.look s.ryu.ingest i = none → ¬ full → ∃ u, exec (.ingOpen q n) s = .next u ∧
        completed s u q n .done ∧ (∀ x, u.cmd q n = some x → x.aux = BitVec.ofNat 32 i) ∧
        ∃ x, Tbl.look u.ryu.ingest i = some x ∧ x.sail = sl ∧ x.ctx = s.queueCtx q ∧ x.prod = 0 ∧ x.cons = 0 ∧ x.lossCause = 0 ∧
          x.log2 = recField l 0 21 16 ∧ x.buf = recField l 1 55 0 ∧ x.prodVa = recField l 2 55 0 ∧ x.consVa = recField l 3 55 0 ∧
          x.seq = BitVec.ofNat 32 (recField l 4 31 0)) ∧
      (ingestOk l = false ∨ (Tbl.look s.ryu.ingest i).isSome = true ∨ full → ∃ u, exec (.ingOpen q n) s = .next u ∧
        completed s u q n .malformed ∧ u.ryu = s.ryu)) ∧
    (startedAs s q n 0x25 = some k → ∀ i, Tbl.look s.ryu.ingest (bytesOf k.raw 8 9) = some i →
      (i.sail = sl → ∃ u, exec (.ingClose q n) s = .next u ∧ completed s u q n .done ∧
        Tbl.look u.ryu.ingest (bytesOf k.raw 8 9) = none ∧ ∀ j, j ≠ bytesOf k.raw 8 9 → Tbl.look u.ryu.ingest j = Tbl.look s.ryu.ingest j) ∧
      (i.sail ≠ sl → ∃ u, exec (.ingClose q n) s = .next u ∧ completed s u q n .faultPermission ∧ u.ryu = s.ryu))) ∧
  (∀ (s : State) (port sl : Nat) (m : RyuMsg) (i : Ingest), Comes s port m sl → Tbl.look s.ryu.ingest m.win = some i → i.plain = false →
    m.enc = false ∨ m.tagOk = false → exec (.ing port m) s = .next { s with ryu := { s.ryu with auth := satInc s.ryu.auth } }) ∧
  (∀ (s : State) (port sl : Nat) (m : RyuMsg), Taken s port m sl (ingSlot s m.win sl) →
    (Tbl.look s.ryu.ingest m.win = none →
      exec (.ing port m) s = .next { s with ryu := { s.ryu with misroute := satInc s.ryu.misroute } }) ∧
    (∀ i, Tbl.look s.ryu.ingest m.win = some i → (i.source = 0xFFFF ∨ m.src = i.source) → i.sail = sl → m.payload ≠ [] →
      m.payload.length ≤ 512 → m.keyGen = (s.linkSlot sl).gen →
      let seq : BitVec 32 := m.arg.setWidth 32
      let body := m.payload ++ List.replicate (pad32 m.payload.length - m.payload.length) 0
      let p := i.prod.toNat
      let size := 2 ^ i.log2
      (2 ^ 31 ≤ (seq - i.seq).toNat → exec (.ing port m) s = .next { s with ryu := { s.ryu with late := satInc s.ryu.late } }) ∧
      ((s.time - i.consAt).toNat < 1000 → i.lossCause = 0 →
        (seq = i.seq → p + 32 + body.length ≤ i.cons.toNat + size → 32 + body.length ≤ size - p % size →
          ingWritable s { i with seq := seq + 1 } (32 + body.length) = true → ∃ u, exec (.ing port m) s = .next u ∧
            let x := vwrite s (useNow s i.ctx) (i.buf + p % size)
              (ingHeader 1 (body.length / 32) seq.toNat (m.arg.toNat / 2 ^ 32) 0 s.time 0)
            let y := vwrite x (useNow s i.ctx) (i.buf + p % size + 32) body (m.poison.contains true)
            let np := BitVec.ofNat 64 (p + 32 + body.length)
            u.mem = (vwrite y (useNow y i.ctx) i.prodVa (leBytes 8 np.toNat)).mem ∧
            Tbl.look u.ryu.ingest m.win = some { i with seq := seq + 1, prod := np }) ∧
        (seq = i.seq → i.cons.toNat + size < p + 32 + body.length → ∃ u, exec (.ing port m) s = .next u ∧ u.mem = s.mem ∧
          Tbl.look u.ryu.ingest m.win = some { i with
            seq := seq + 1, lostFrames := satAdd i.lostFrames 1, lostEvents := satAdd i.lostEvents (m.arg.toNat / 2 ^ 32),
            lossSeq := seq, lossTime := s.time, lossCause := 1 }) ∧
        (seq ≠ i.seq → (seq - i.seq).toNat < 2 ^ 31 → i.cons.toNat + size < p + 32 + body.length →
          ∃ u, exec (.ing port m) s = .next u ∧ u.mem = s.mem ∧
          Tbl.look u.ryu.ingest m.win = some { i with
            seq := seq + 1, lostFrames := satAdd (satAdd i.lostFrames (seq - i.seq).toNat) 1,
            lostEvents := satAdd (satAdd i.lostEvents 0) (m.arg.toNat / 2 ^ 32), lossSeq := i.seq, lossTime := s.time, lossCause := 3 })))) ∧
  (∀ (s : State) (w : Nat) (i : Ingest) (l : List Byte), Tbl.look s.ryu.ingest w = some i → 1000 ≤ (s.time - i.consAt).toNat →
    vread s (useNow s i.ctx) i.consVa 8 = .ok l →
    (i.cons.toNat ≤ leNat l → leNat l ≤ i.prod.toNat → exec (.consRead w) s =
      .next (setIngest s w (some { i with consAt := s.time, cons := BitVec.ofNat 64 (leNat l) }))) ∧
    (leNat l < i.cons.toNat ∨ i.prod.toNat < leNat l → exec (.consRead w) s = .next (setIngest
      { s with ryu := { s.ryu with misroute := satInc s.ryu.misroute } } w (some { i with consAt := s.time }))))

/-! ### Cleats -/

/-- R249 to R252, R256: phase 1 of a dispatch, its mirror and its commit, message by message; the phase program runs in between. -/
def Sys2Proof.Claims.CleatPhases : Prop :=
  (∀ (s : State) (m : CleatMsg), cleatTaken s m (cleatSlot s m.id false) →
    (∀ e, s.cleat m.id false = none → windowOf s m.win = some e → cleatRoom s e.sail = true →
      (∃ u, exec (.ph1Start m) s = .next u ∧ u.cleat m.id false = some { recordFrom s m e .open_ with
          entry := knownEntry s m.id, job := some s.ryu.jobs } ∧ u.ryu.outbox = s.ryu.outbox ∧ u.ryu.jobs = s.ryu.jobs + 1 ∧
        ∃ k, u.cmd (jobQueue s.ryu.jobs) 0 = some k ∧ k.raw = BitVec.ofNat 512 (0x01 +
          2 ^ 64 * ((knownEntry s m.id).getD (Config.phaseEntry m.id)).toNat + 2 ^ 128 +
          2 ^ 336 * (34 * (s.sailClusters e.sail).length))) ∧
      ∃ u x, exec (.mirrorPut m) s = .next u ∧ u.cleat m.id false = some x ∧ x.st = .mirror ∧ x.epoch = m.epoch ∧ x.sail = e.sail ∧
        u.ryu.outbox = (sendCleat s x m.src 0x32 0 m.epoch).ryu.outbox) ∧
    (∀ r, s.cleat m.id false = some r → r.st = .open_ → m.epoch = r.epoch →
      exec (.ph1Start m) s = .next s ∧
      (r.asked = cleatPieces r.len + 1 → ∃ u x, exec (.mirrorAck m) s = .next u ∧ u.cleat m.id false = some x ∧ x.st = .committing ∧
        x.mirrorOk = true ∧ x.timer = some s.time ∧ u.ryu.outbox = (sendCleat s r (anchorOf m.id) 0x33 0 r.epoch).ryu.outbox)) ∧
    (∀ r, s.cleat m.id false = some r → r.st = .committing → m.epoch = r.epoch →
      (s.cleat m.id true = none → ∃ u x, exec (.commitAck m) s = .next u ∧ u.cleat m.id false = some x ∧ x.st = .held ∧
        x.committed = true ∧ x.timer = none ∧ u.ryu.fmOut = toManager s [.place m.id .phase2]) ∧
      (∀ t, s.cleat m.id true = some t → t.next ≠ 0xFFFF → t.next ≠ s.ryu.node → ∃ u x, exec (.commitAck m) s = .next u ∧
        u.cleat m.id false = some x ∧ x.st = .offered ∧ x.epoch = r.epoch + 1 ∧ x.peer = t.next ∧ x.timer = some s.time ∧
        u.ryu.outbox = (sendCleat s x t.next 0x35 0 x.epoch).ryu.outbox) ∧
      (∀ t e, s.cleat m.id true = some t → t.next = s.ryu.node → t.next ≠ 0xFFFF → Tbl.look s.ryu.exports r.win = some e →
        ∃ u x, exec (.commitAck m) s = .next u ∧ u.cleat m.id false = some x ∧ x.st = .held ∧ x.committed = true ∧
          x.epoch = r.epoch ∧ x.job = some s.ryu.jobs ∧ u.ryu.outbox = s.ryu.outbox))) ∧
  (∀ (s : State) (m : CleatMsg), cleatTaken s m (cleatSlot s m.id true) →
    (∀ r, s.cleat m.id true = some r → r.epoch.toNat ≤ m.epoch.toNat → ∃ u x, exec (.commit m) s = .next u ∧
      u.cleat m.id true = some x ∧ x.committed = true ∧ x.owner = m.src ∧ x.epoch = m.epoch ∧ x.len = m.stateLen ∧
      u.ryu.outbox = (sendCleat s x m.src 0x34 0 m.epoch).ryu.outbox ∧ u.cleat m.id false = s.cleat m.id false) ∧
    (∀ r, s.cleat m.id true = some r → m.epoch.toNat < r.epoch.toNat → ∃ u, exec (.commit m) s = .next u ∧
      u.ryu.cleats = s.ryu.cleats ∧ u.ryu.stale = satInc s.ryu.stale)) ∧
  (∀ (s : State) (r : Cleat) (j : Nat) (k : CmdRec), launched s (jobQueue j) 0 = some (.done, k) → r.anchor = false → r.st = .open_ →
    r.mirrored = false → ∃ x, (jobEnd s r j).cleat r.id false = some x ∧ x.st = .committing ∧ x.job = none ∧ x.timer = some s.time ∧
      (jobEnd s r j).ryu.outbox = (sendCleat s r (anchorOf r.id) 0x33 0 r.epoch).ryu.outbox) ∧
  (∀ (s : State) (r : Cleat), s.cleat r.id false = some r → r.st = .open_ → r.mirrorLost = false → r.job = none →
    (r.asked = cleatPieces r.len → r.asked ≤ r.got + 1 →
      (mirrorPiece s r.id .done).cleat r.id false = some { r with got := r.got + 1, asked := r.asked + 1 } ∧
      (mirrorPiece s r.id .done).ryu.outbox = (sendCleat s r r.mirrorNode 0x31 0 r.epoch).ryu.outbox) ∧
    ∀ st, st ≠ .done → ∃ x, (mirrorPiece s r.id st).cleat r.id false = some x ∧ x.st = .committing ∧ x.mirrorLost = true ∧
      (mirrorPiece s r.id st).ryu.outbox = (sendCleat s r (anchorOf r.id) 0x33 0 r.epoch).ryu.outbox)

/-- R252, R254: OFFER at the receiver: it declines without a window, without room or at a refused epoch; else it copies the state, and
accepts when the last piece has come. -/
def Sys2Proof.Claims.CleatOffers : Prop :=
  (∀ (s : State) (m : CleatMsg), cleatTaken s m (winSlot s m.win) → s.cleat m.id false = none →
    (windowOf s m.win = none ∨ (m.id, m.epoch) ∈ s.ryu.refusals → ∃ u, exec (.offer m) s = .next u ∧
      u.ryu.cleats = s.ryu.cleats ∧ u.ryu.outbox = (sendCleat s { Cleat.blank m.id m.epoch .refused (cleatSail s m none) s.time with
        addr := m.stateAddr, len := m.stateLen } m.src 0x37 1 m.epoch).ryu.outbox) ∧
    (∀ e, (m.id, m.epoch) ∉ s.ryu.refusals → windowOf s m.win = some e → cleatRoom s e.sail = true →
      (m.stateLen = 0 → ∃ u x, exec (.offer m) s = .next u ∧ u.cleat m.id false = some x ∧ x.st = .accepted ∧ x.epoch = m.epoch ∧
        x.peer = m.src ∧ x.timer = some s.time ∧ u.mem = s.mem) ∧
      (m.stateLen.toNat ≤ 4096 * e.pages → ∃ u, exec (.offer m) s = .next u ∧ u.mem = s.mem ∧
        u.ryu = (cleatPump s { recordFrom s m e .copying with src := m.stateAddr }).ryu))) ∧
  (∀ (s : State) (r : Cleat) (i : Nat) (k : Nat) (l : List Byte), s.cleat r.id false = some r → r.anchor = false → r.st = .copying →
    l.length = pieceLen r.len i → memKey s (r.addr.toNat % 2 ^ 48 + 4096 * i) = some k →
    (r.asked = cleatPieces r.len → r.asked ≤ r.got + 1 → ∃ x, (cleatPiece s r.id i .done l []).cleat r.id false = some x ∧
      x.st = .accepted ∧ x.epoch = r.epoch ∧ x.timer = some s.time ∧ (cleatPiece s r.id i .done l []).mem = (store s k l).mem) ∧
    ∀ st, st ≠ .done → (cleatPiece s r.id i st [] []).cleat r.id false = none ∧ (cleatPiece s r.id i st [] []).mem = s.mem ∧
      (cleatPiece s r.id i st [] []).ryu.outbox = (sendCleat s r r.peer 0x37 1 r.epoch).ryu.outbox)

/-- R249, R252, R256: how a held state changes hands, and how records end; a message of a lower epoch is answered STALE and
counted. -/
def Sys2Proof.Claims.CleatHandoffs : Prop :=
  ∀ (s : State) (m : CleatMsg),
    (cleatTaken s m (cleatSlot s m.id false) →
      (∀ r, s.cleat m.id false = some r → r.epoch = m.epoch →
        (r.st = .offered → r.peer = m.src → r.acked = false → s.cleat m.id true = none → ∃ u, exec (.accept m) s = .next u ∧
          u.cleat m.id false = some { r with acked := true, owner := m.src, timer := none, at_ := s.time } ∧
          u.ryu.outbox = (sendCleat s r m.src 0x37 0 m.epoch).ryu.outbox) ∧
        (r.st = .accepted → ∃ u x, exec (.ack m) s = .next u ∧ u.cleat m.id false = some x ∧ x.st = .held ∧ x.timer = none ∧
          x.epoch = r.epoch ∧ ∀ e, Tbl.look s.ryu.exports r.win = some e → x.job = some s.ryu.jobs) ∧
        (r.st = .offered → r.acked = false → ∃ u x, exec (.decline m) s = .next u ∧ u.cleat m.id false = some x ∧ x.st = .held ∧
          x.timer = none ∧ x.epoch = r.epoch)) ∧
      (∀ r, s.cleat m.id false = some r → r.epoch.toNat < m.epoch.toNat → ∃ u, exec (.stale m) s = .next u ∧
        u.cleat m.id false = none ∧ u.cleat m.id true = s.cleat m.id true) ∧
      (∀ r, s.cleat m.id false = some r → m.epoch.toNat < r.epoch.toNat → exec (.stale m) s = .next s ∧
        ∀ x ∈ [Instr.ph1Start m, .mirrorPut m, .mirrorAck m, .commitAck m, .ack m, .decline m],
          ∃ u, exec x s = .next u ∧ u.ryu.cleats = s.ryu.cleats ∧ u.ryu.stale = satInc s.ryu.stale ∧
            u.ryu.outbox = (sendCleat s { r with sail := cleatSail s m (some r) } m.src 0x38 0 r.epoch).ryu.outbox) ∧
      (∀ r, s.cleat m.id true = none → s.cleat m.id false = some r → r.epoch.toNat ≤ m.epoch.toNat → m.src = anchorOf m.id →
        ∃ u, exec (.retire m) s = .next u ∧ u.cleat m.id false = none ∧ u.ryu.outbox = s.ryu.outbox)) ∧
    (cleatTaken s m (winSlot s m.win) → ∀ r, s.cleat m.id false = some r → m.epoch.toNat < r.epoch.toNat →
      ∃ u, exec (.offer m) s = .next u ∧ u.ryu.cleats = s.ryu.cleats ∧ u.ryu.stale = satInc s.ryu.stale) ∧
    (cleatTaken s m (cleatSlot s m.id true) →
      (∀ t, s.cleat m.id true = some t → s.cleat m.id false = none → t.epoch.toNat ≤ m.epoch.toNat →
        ∃ u, exec (.accept m) s = .next u ∧
          u.cleat m.id true = some { t with epoch := m.epoch, owner := m.src, at_ := s.time } ∧ u.ryu.outbox = s.ryu.outbox) ∧
      (∀ t k, s.cleat m.id true = some t → m.src = s.ryu.node → s.cmd t.q t.n = some k → k.isCompleted = false →
        ∃ u, exec (.retire m) s = .next u ∧ u.cleat m.id true = none ∧
          completed s u t.q t.n (if t.replayed then .doneReplayed else .done))) ∧
    (m.port ≠ 32 → portUp s m.port = true → forDevice s m.dst → ∀ sl, leaseSail s m.port m.lease = some sl →
      m.enc = false ∨ m.tagOk = false → ∀ x ∈ [Instr.ph1Start m, .mirrorPut m, .mirrorAck m, .commit m, .commitAck m, .offer m,
        .accept m, .ack m, .decline m, .stale m, .retire m],
        exec x s = .next { s with ryu := { s.ryu with auth := satInc s.ryu.auth } })

/-- R247, R250, R253, R258: DISPATCH makes the anchor's record with a new serial and starts phase 1; a timer of 2 ms asks the fabric
manager about its cleat once, and stands while a frame of the record's message is replayed. -/
def Sys2Proof.Claims.DispatchAndTimers : Prop :=
  (∀ (s : State) (q n sl : Nat) (k : CmdRec), startedAs s q n 0x26 = some k → s.ctxSail (s.queueCtx q) = some sl →
    (cleatRoom s sl = false → exec (.dispatch q n) s = .next s) ∧
    (cleatRoom s sl = true → bytesOf k.raw 12 12 % 2 = 0 →
      let id := BitVec.ofNat 64 (s.ryu.node * 2 ^ 48 + s.ryu.nextCleat)
      ∃ u, exec (.dispatch q n) s = .next u ∧ u.ryu.nextCleat = s.ryu.nextCleat + 1 ∧
        (bytesOf k.raw 8 9 = 0xFFFF → u.ryu.fmOut = toManager s [.place id .phase1] ∧
          u.cmd q n = some { k with phase := .executing } ∧
          ∃ t, u.cleat id true = some t ∧ t.owner = 0xFFFF ∧ t.epoch = 1 ∧ t.q = q ∧ t.n = n ∧ t.next = bytesOf k.raw 10 11 ∧
            t.entry = some (BitVec.ofNat 64 (bytesOf k.raw 24 31))) ∧
        (bytesOf k.raw 8 9 ≠ 0xFFFF → reachesNode s sl (bytesOf k.raw 8 9) = none → u.cmd q n = some { k with phase := .executing } ∧
          ∃ t, u.cleat id true = some t ∧ t.owner = bytesOf k.raw 8 9 ∧ t.epoch = 1 ∧
            u.ryu.outbox = (sendCleat s t t.owner 0x30 0 1).ryu.outbox) ∧
        (∀ st, bytesOf k.raw 8 9 ≠ 0xFFFF → reachesNode s sl (bytesOf k.raw 8 9) = some st → completed s u q n st ∧
          u.cleat id true = none ∧ u.ryu.outbox = s.ryu.outbox))) ∧
  (∀ (s : State) (id : Word) (r : Cleat), s.cleat id false = some r →
    (∀ t, r.timer = some t → r.paused = none → 2000000 ≤ (s.time - t).toNat → ∃ u, exec (.cleatTimerExpiry id) s = .next u ∧
      u.cleat id false = some { r with timer := none } ∧ u.ryu.fmOut = toManager s [.query id r.epoch r.st] ∧
      u.ryu.queries = satInc s.ryu.queries) ∧
    (r.paused.isSome = true ∨ (∀ t, r.timer = some t → (s.time - t).toNat < 2000000) →
      exec (.cleatTimerExpiry id) s = .next s))

/-- Cleats: their phases, offers, hand-offs, dispatch and timers.
Completes: ph1Start, mirrorPut, mirrorAck, commit, commitAck, offer, accept, ack, decline, stale, retire, cleatTimerExpiry, dispatch. -/
def Obligations.CleatRules : Prop :=
  Claims.CleatPhases ∧ Claims.CleatOffers ∧ Claims.CleatHandoffs ∧ Claims.DispatchAndTimers

/-! ### The fabric manager -/

/-- R10, R223, R224, R259 to R261: who is heard, and what FM_ASSIGN, FM_ROUTE, FM_TIME, FM_PEER_STATE and FM_ACK do. -/
def Sys2Proof.Claims.FmMessages : Prop :=
  ∀ (s : State) (h : FmHdr),
    (manages s h.port = true → ¬ fmTaken s h → ∀ node domain manager time first count mask hops sent adjust id epoch rul pl st l arg,
      ∀ x ∈ [Instr.fmAssign h node domain manager time, .fmRoute h first count mask hops, .fmTime h sent adjust,
        .fmFreeze h id epoch, .fmRuling h rul, .fmPlace h pl, .fmPeerState h node st l, .fmAck h arg],
      exec x s = .next { s with ryu := { s.ryu with misroute := satInc s.ryu.misroute } }) ∧
    (fmTaken s h →
      (∀ node domain manager time, node < 0xFFFF → ∃ u, exec (.fmAssign h node domain manager time) s = .next u ∧ u.ryu.node = node ∧
        u.ryu.domain = domain ∧ u.ryu.manager = manager ∧ u.ryu.assigned = true ∧ u.ryu.fmOut = toManager s [.hello, .ack h.arg] ∧
        u.time = (if s.ryu.ran = true then s.time else time.getD s.time) ∧ u = { s with ryu := u.ryu, time := u.time }) ∧
      (∀ node domain manager time, 0xFFFF ≤ node → exec (.fmAssign h node domain manager time) s = .next s) ∧
      (∀ first count mask hops, 1 ≤ hops → hops ≤ 8 → ∃ u, exec (.fmRoute h first count mask hops) s = .next u ∧
        u.ryu.fmOut = toManager s [.ack h.arg] ∧
        ∀ j, u.ryu.routes.get { mask := 0, hops := 0 } j = if first ≤ j ∧ j < first + min count 65535
          then { mask := mask, hops := hops } else s.ryu.routes.get { mask := 0, hops := 0 } j) ∧
      (∀ sent, ∃ u v w, exec (.fmTime h sent .none) s = .next u ∧ exec (.fmTime h sent .hold) s = .next v ∧
        exec (.fmTime h sent .advance) s = .next w ∧
        u.ryu.fmOut = toManager s [.time h.port s.time] ∧ v.ryu.fmOut = u.ryu.fmOut ∧ w.ryu.fmOut = u.ryu.fmOut ∧
        u.time = s.time ∧ v.time = s.time ∧ w.time = s.time ∧ u.ryu.slew = s.ryu.slew ∧
        (10000 ≤ (s.time - s.ryu.slewAt).toNat → v.ryu.slew = .hold ∧ w.ryu.slew = .advance ∧ v.ryu.slewAt = s.time ∧
          w.ryu.slewAt = s.time) ∧
        ((s.time - s.ryu.slewAt).toNat < 10000 → v = u ∧ w = u)) ∧
      (∀ arg, exec (.fmAck h arg) s =
        .next { s with ryu := { s.ryu with fmOut := s.ryu.fmOut.filter (fun m => !(m.sent && m.arg == arg)) } }) ∧
      (∀ node st l, ∃ u, exec (.fmPeerState h node st l) s = .next u ∧ u.ryu.peers.get PeerState.up node = st ∧
        (st ≠ .down → u.ryu.fmOut = toManager s [.ack h.arg] ∧ u.ryu.cleats = s.ryu.cleats ∧ u.ryu.tags = s.ryu.tags) ∧
        (st = .down → ∀ r ∈ u.ryu.cleats, r.anchor = true ∨ anchorOf r.id ≠ node ∨ node = s.ryu.node) ∧
        (st = .down → ∀ tag t o lc t2 key, s.ryu.tags = [(tag, t)] → t.op = some o → o.node = node → o.from_ = .core lc t2 →
          s.ryu.cleats = [] → endpointOf s lc t2 = some key → returned s u lc t2 key .remoteUnreachable [] ∧
            (u.ryu.tags.get TagSt.free tag).op = none)))

/-- R254 to R256, R259: what FM_FREEZE, FM_RULING and FM_PLACE do to the records of a cleat. -/
def Sys2Proof.Claims.FmCleats : Prop :=
  ∀ (s : State) (h : FmHdr), fmTaken s h →
    (∀ id epoch, s.cleat id true = none →
      (∀ r, s.cleat id false = some r → r.settled epoch = true → ∃ u, exec (.fmFreeze h id epoch) s = .next u ∧
        u.cleat id false = some r ∧ u.ryu.refusals = s.ryu.refusals ∧ u.ryu.fmOut = toManager s [.record id (some r), .ack h.arg]) ∧
      (∀ r, s.cleat id false = some r → r.st = .copying → ∃ u x, exec (.fmFreeze h id epoch) s = .next u ∧
        u.cleat id false = some x ∧ x.st = .refused ∧ x.epoch = epoch ∧ (id, epoch) ∈ u.ryu.refusals ∧
        u.ryu.fmOut = toManager s [.record id (some x), .ack h.arg]) ∧
      (s.cleat id false = none → s.ryu.cleats.length < 4096 → ∃ u x, exec (.fmFreeze h id epoch) s = .next u ∧
        u.cleat id false = some x ∧ x.st = .refused ∧ x.epoch = epoch ∧ (id, epoch) ∈ u.ryu.refusals ∧
        u.ryu.fmOut = toManager s [.record id (some x), .ack h.arg])) ∧
    (∀ x : Ruling, ∃ u, exec (.fmRuling h x) s = .next u ∧ u.ryu.rulings = satInc s.ryu.rulings ∧
      (∀ r, s.cleat x.id false = some r → x.epoch.toNat < r.epoch.toNat → s.cleat x.id true = none → u.ryu.cleats = s.ryu.cleats) ∧
      (∀ r, s.cleat x.id false = some r → r.epoch.toNat ≤ x.epoch.toNat → s.cleat x.id true = none →
        (x.kind = .owner → x.node = s.ryu.node → r.st ≠ .refused → r.st ≠ .copying → ∃ y, u.cleat x.id false = some y ∧
          y.st = .held ∧ y.epoch = x.epoch ∧ y.committed = true ∧ y.replayed = (r.replayed || r.st == .mirror)) ∧
        (x.kind = .owner → x.node = s.ryu.node → r.st = .mirror → u.ryu.fmOut = toManager s [.place x.id .phase2, .ack h.arg]) ∧
        (x.kind = .owner → x.node = s.ryu.node → r.st = .refused ∨ r.st = .copying → u.cleat x.id false = none) ∧
        (x.kind = .owner → x.node ≠ s.ryu.node → r.st ≠ .mirror → u.cleat x.id false = none) ∧
        (x.kind = .owner → x.node ≠ s.ryu.node → r.st = .mirror → u.cleat x.id false = some { r with epoch := x.epoch }) ∧
        (x.kind = .restart ∨ x.kind = .lost → u.cleat x.id false = none)) ∧
      (∀ t, s.cleat x.id false = none → s.cleat x.id true = some t → t.epoch.toNat ≤ x.epoch.toNat →
        (x.kind = .owner → u.cleat x.id true = some { t with
          epoch := x.epoch, owner := x.node, at_ := s.time,
          replayed := t.replayed || (t.mirrored && x.node == t.mirrorNode && t.owner != t.mirrorNode) }) ∧
        (x.kind = .restart → t.mirrored = false → x.node ≠ 0xFFFF → reachesNode s t.sail x.node = none → ∃ y,
          u.cleat x.id true = some y ∧ y.replayed = true ∧ y.committed = false ∧ y.epoch = x.epoch ∧ y.owner = x.node ∧
          u.ryu.outbox = (sendCleat s y x.node 0x30 0 x.epoch).ryu.outbox) ∧
        (∀ k, x.kind = .lost → s.cmd t.q t.n = some k → k.isCompleted = false → u.cleat x.id true = none ∧
          completed s u t.q t.n .stateLost))) ∧
    (∀ p : Placement,
      (∀ r, p.role = .phase2 → s.cleat p.id false = some r → r.st = .held → r.job = none → p.node ≠ s.ryu.node →
        ∃ u x, exec (.fmPlace h p) s = .next u ∧ u.cleat p.id false = some x ∧ x.st = .offered ∧ x.epoch = r.epoch + 1 ∧
          x.peer = p.node ∧ u.ryu.outbox = (sendCleat s x p.node 0x35 0 x.epoch).ryu.outbox) ∧
      (∀ t, p.role = .phase1 → s.cleat p.id true = some t → t.owner = 0xFFFF → t.mirrored = false → p.node ≠ 0xFFFF →
        reachesNode s t.sail p.node = none → ∃ u, exec (.fmPlace h p) s = .next u ∧
          u.cleat p.id true = some { t with owner := p.node } ∧
          u.ryu.outbox = (sendCleat s t p.node 0x30 0 t.epoch).ryu.outbox) ∧
      (∀ t, p.role = .mirror → s.cleat p.id true = some t → t.owner = 0xFFFF → t.mirrored = true → t.mirrorNode = 0xFFFF →
        ∃ u, exec (.fmPlace h p) s = .next u ∧ u.cleat p.id true = some { t with mirrorNode := p.node }))

/-- What each message of the fabric manager does; after FM_ASSIGN only the manager that it named is heard.
Completes: fmAssign, fmRoute, fmTime, fmFreeze, fmRuling, fmPlace, fmPeerState, fmAck. -/
def Obligations.FabricManager : Prop := Claims.FmMessages ∧ Claims.FmCleats

/-! ### The rig -/

/-- R272, R273, R287: LOAD, the verdict on its image, DISCARD, and the commands of RIG_CMD that have no effect; an accepted rig's
tables go to the shadow banks, which leaves the tables in use as they are.
Completes: load, loadEnd, swap, discard. -/
def Obligations.RigLoading : Prop :=
  ∀ (s : State) (p : Nat),
    let ignored := { s with rig := { s.rig with ignored := true } }
    (s.rig.phase ≠ .idle → exec (.load p) s = .next ignored ∧ exec (.discard p) s = .next ignored ∧ exec (.swap p) s = .next ignored) ∧
    (s.rig.loading.isSome = true → exec (.load p) s = .next ignored) ∧
    (s.rig.shadowSt ≠ .valid → exec (.swap p) s = .next ignored) ∧
    (s.rig.phase = .idle → s.rig.loading = none → exec (.load p) s = .next { s with
      rst := { s.rst with fencedSinceLoad := [] },
      rig := { s.rig with loading := some (p % 2), shadow := none, shadowSt := .loading, shadowSerial := 0, error := ⟨0, 0, 0⟩ } }) ∧
    (s.rig.phase = .idle → exec (.discard p) s = .next { s with
      rig := { s.rig with loading := none, shadow := none, shadowSt := .empty, shadowSerial := 0 } }) ∧
    (s.rig.loading ≠ some p → exec (.loadEnd p) s = .next s) ∧
    (s.rig.loading = some p → hostUp s p = false → exec (.loadEnd p) s = .next s) ∧
    (s.rig.loading = some p → hostUp s p = true →
      let here := busOk (if p = 0 then s.rig.loadAddr[0] else s.rig.loadAddr[1]).toNat
        (if p = 0 then s.rig.loadLen[0] else s.rig.loadLen[1]).toNat
      (here = false → exec (.loadEnd p) s =
        .next { s with rig := { s.rig with loading := none, shadowSt := .rejected, error := ⟨1, 0, 0⟩ } }) ∧
      (here = true →
        (∀ e, firstRule (loadRules s (loadImage s p)) = some e → exec (.loadEnd p) s =
          .next { s with rig := { s.rig with loading := none, shadowSt := .rejected, error := e } }) ∧
        (firstRule (loadRules s (loadImage s p)) = none → ∃ u, exec (.loadEnd p) s = .next u ∧
          let r := parseRig s (loadImage s p)
          u.rig = { s.rig with loading := none, shadow := some r, shadowSt := .valid, shadowSerial := r.serial } ∧
          u = { s with rig := u.rig, mesh := u.mesh } ∧
          u.mesh = { s.mesh with
            banks := u.mesh.banks, shadowOk := u.mesh.shadowOk, switched := [], injected := false, complete := false } ∧
          (∀ x ∈ r.sched, u.mesh.shadowOk.get false x.1 = true) ∧
          ∀ j, (∀ x ∈ r.sched, j ≠ 2 * x.1 + shadowBank s x.1) → u.mesh.banks.get [] j = s.mesh.banks.get [] j)))

/-- R277, R278, R282, R284, R404: a swap from its judgement to its release.
Completes: meshSlot, swap, drain, scrub, cut, release, quiesceLimitExpiry. -/
def Obligations.RigSwap : Prop :=
  ∀ s : State,
    (∀ p b, s.rig.phase = .idle → s.rig.shadowSt = .valid → s.rig.shadow = some b →
      let t : State := { s with rig := { s.rig with phase := .quiesce, tSwap := s.time, classes := [] } }
      (s.rst.bgTest = true → exec (.swap p) s = .next { t with rig := { t.rig with waits := true } }) ∧
      (s.rst.bgTest = false → ∀ e, firstRule (swapRules t b) = some e → exec (.swap p) s = .next { t with
        rig := { t.rig with shadow := none, shadowSt := .rejected, phase := .idle, error := e } }) ∧
      (s.rst.bgTest = false → firstRule (swapRules t b) = none → ∃ u, exec (.swap p) s = .next u ∧ u.mem = s.mem ∧
        u.rig = { t.rig with classes := classesOf (activeRig s) b, highSerial := max s.rig.highSerial b.serial } ∧
        (∀ sl, swapClass u sl = some .changed → (u.sail sl).state = 2) ∧
        (∀ sl, swapClass u sl = some .removed → (u.sail sl).state = 3) ∧
        ∀ sl, swapClass u sl ≠ some .changed → swapClass u sl ≠ some .removed → u.sail sl = s.sail sl)) ∧
    (∀ q n sl, s.rig.phase = .quiesce → s.ctxSail (s.queueCtx q) = some sl →
      swapClass s sl = some .changed ∨ swapClass s sl = some .removed → coresOf s q n ≠ [] →
      (∀ k ∈ coresOf s q n, (s.core k).preempt = none ∧ (s.core k).saving = false) →
      (1000 * s.rig.quiesce.toNat ≤ (s.time - s.rig.tSwap).toNat → exec (.quiesceLimitExpiry q n) s =
        .next { resetCtx s (s.queueCtx q) 0x0B with pending := s.pending, rig := s.rig, time := s.time }) ∧
      ((s.time - s.rig.tSwap).toNat < 1000 * s.rig.quiesce.toNat → exec (.quiesceLimitExpiry q n) s = .next s)) ∧
    (quiesced s = false → exec .drain s = .next s) ∧
    (quiesced s = true → ∃ u, exec .drain s = .next u ∧ u.rig = { s.rig with phase := .drain } ∧
      (sailsOf s .removed = [] → ∀ sl c, sailsOf s .continuing ++ sailsOf s .changed = [sl] → sailCtxs s sl = [c] →
        (u.ctx c).ranges = (s.ctx c).ranges.filter (fun e => !rangeLeaves s sl e)) ∧
      ∀ b sl d, s.rig.shadow = some b → sailsOf s .removed = [] → sailsOf s .continuing ++ sailsOf s .changed = [] →
        sailsOf s .added = [sl] → Tbl.look b.sails sl = some d → (s.slot d.memKey).st = .empty → d.hasLink = false →
        (u.slot d.memKey).st = .loaded ∧ (u.slot d.memKey).sail = sl ∧ (u.slot d.memKey).gen = nextGen (s.slot d.memKey).gen) ∧
    (drained s = false → ∀ f, exec (.scrub f) s = .next s) ∧
    (∀ b, s.rig.shadow = some b → drained s = true →
      (∀ f, ∃ u, exec (.scrub f) s = .next u ∧ u.rig = { s.rig with phase := .scrub }) ∧
      (∀ x, ∃ u, exec (.scrub [x]) s = .next u ∧ fenced u (scrubFence x).1 (scrubFence x).2 = true) ∧
      ∃ u, exec (.scrub []) s = .next u ∧
        (∀ c a, c < 128 → c * 2 ^ 29 ≤ a → a < (c + 1) * 2 ^ 29 → readB u a = if moves s c = true then 0 else readB s a) ∧
        ∀ n a, n < 64 → a < 0x400000 → s.clusterSail n ≠ b.clusterSail n → readB u (cbufBase + n * 0x400000 + a) = 0) ∧
    (s.rig.phase ≠ .scrub ∨ s.rig.shadow = none ∨ shadowsReady s = false → exec .cut s = .next s) ∧
    (s.rig.phase = .scrub → s.rig.shadow.isSome = true → shadowsReady s = true → exec .cut s = .next { s with
      rig := { s.rig with phase := .cut }, mesh := { s.mesh with swapNext := true } }) ∧
    (∀ b, s.rig.shadow = some b →
      (s.rig.phase = .cut → s.mesh.running = true → s.mesh.swapNext = true → s.mesh.injected = false → canMove s 2464 = true →
        s.pwr.stopped.contains (.router 2464) = false → ∃ u, exec (.meshSlot 2464) s = .next u ∧
          u.rig = { s.rig with tCut := s.time, active := some b, former := some (activeRig s) } ∧
          u.mesh.injected = true ∧ u.mesh.swapNext = false) ∧
      (sailsOf s .changed = [] → (takeRig s).mem = s.mem ∧ (takeRig s).sails = s.sails)) ∧
    (s.rig.phase ≠ .cut ∨ s.mesh.complete = false → exec .release s = .next s) ∧
    (∀ a b, s.rig.active = some b → s.rig.phase = .cut → s.mesh.complete = true → s.rst.sailWaits = [] →
      s.rig.classes = classesOf a b → ∃ u, exec .release s = .next u ∧ u.rig = { s.rig with
        former := none, phase := .idle, done := true, shadow := none, shadowSt := .empty, shadowSerial := 0, tRelease := s.time,
        classes := [] } ∧
      u.mesh.boot = false ∧ u.mesh.period = b.period ∧ (∀ sl, swapClass s sl = some .removed → (u.sail sl).state = 0) ∧
      (∀ sl, swapClass s sl = some .changed ∨ swapClass s sl = some .added → (u.sail sl).state = 1))

/-- The model's own invariant over R272, R273 and R277: every step keeps what RigOk says of the RIG block. -/
def Obligations.RigInvariant : Prop :=
  ∀ s u : State, RigOk s.rig → step s = .next u → RigOk u.rig

/-! ### Resets -/

/-- R385 to R393, R396: which scope the pins and power-on reset, with the fuse map at its defaults; what a pulse too short does;
and that a pin which stays low holds its scope until it rises. -/
def Sys2Proof.Claims.PinResets : Prop :=
  ∀ s : State,
    (s.rst.powered = true → s.rst.step ≠ 0 → exec .powerOn s = .next s) ∧
    (s.rst.powered = false ∨ s.rst.step = 0 → ∃ u, exec .powerOn s = .next u ∧ StartsAgain s u ∧ u.time = 0 ∧
      u.rst.powered = true ∧ u.pwr.pwrGood = true ∧ u.rst.source = 0xF ∧ u.rst.scope = 1 ∧ u.rst.pins = s.rst.pins ∧
      u.rst.fenceMap = s.rst.fenceMap ∧ u.sec.lc = (if s.sec.lcOpen = true ∧ s.sec.lcMark ∈ [1, 2, 3] ∧ ResetPin.trayReset ∉ s.rst.pins
        then s.sec.lcTo else s.sec.lc) ∧ u.rst.step = (if ResetPin.trayReset ∈ s.rst.pins then 0 else 7)) ∧
    (∀ n b port, ∀ x ∈ [(Instr.perst port n b, portPin (port % 2)), (.trayResetN n b, ResetPin.trayReset)],
      (x.2 ∈ s.rst.pins → exec x.1 s = .next s) ∧
      (x.2 ∉ s.rst.pins → n < 2000 → exec x.1 s = .next { s with rst := { s.rst with short := satInc s.rst.short } }) ∧
      (x.2 ∉ s.rst.pins → 2000 ≤ n → n < 4000 → b = false →
        exec x.1 s = .next { s with rst := { s.rst with bandCount := satInc s.rst.bandCount } }) ∧
      (x.2 ∉ s.rst.pins → 4000 ≤ n ∨ (2000 ≤ n ∧ b = true) → takesResets s = false →
        exec x.1 s = .next { s with rst := { s.rst with pins := s.rst.pins ++ [x.2] } })) ∧
    (takesResets s = true → s.rst.fuseMap = 0 → ∀ n b, 4000 ≤ n ∨ (2000 ≤ n ∧ b = true) →
      (∀ port, portPin (port % 2) ∉ s.rst.pins → ∃ u, exec (.perst port n b) s = .next u ∧ hostUp u (port % 2) = false ∧
        { scope := .port (port % 2), held := portPin (port % 2) } ∈ u.rst.seqs ∧
        (queuesOf s (fun x => (x.fn.map (fun fn => fn.hostPort == port % 2)).getD false) = [] →
          u.rst.source = BitVec.ofNat 4 (port % 2) ∧ u.rst.scope = 4 ∧ u.rst.band = decide (n < 4000) ∧
          u.rst.pins = s.rst.pins ++ [portPin (port % 2)] ∧ u.sails = s.sails ∧ u.ctxs = s.ctxs ∧ u.mem = s.mem)) ∧
      (ResetPin.trayReset ∉ s.rst.pins → ∃ u, exec (.trayResetN n b) s = .next u ∧ StartsAgain s u ∧ u.time = s.time ∧
        u.rst.source = 2 ∧ u.rst.scope = 2 ∧ u.rst.pins = s.rst.pins ++ [.trayReset] ∧ u.rst.step = 0 ∧
        { scope := .warm, held := .trayReset } ∈ u.rst.seqs)) ∧
    (∀ pin n, (pin ∉ s.rst.pins ∨ n < 2000 → exec (.resetDeassertion pin n) s = .next s) ∧
      (s.rst.pins = [pin] → 2000 ≤ n → takesResets s = false → exec (.resetDeassertion pin n) s = .next { s with
        rst := { s.rst with pins := [], seqs := s.rst.seqs.filter (fun q => q.held != pin) } })) ∧
    (takesResets s = true → ∀ n, 2000 ≤ n →
      (∀ p, p < 2 → s.rst.pins = [portPin p] → s.rst.seqs = [{ scope := .port p, held := portPin p }] → 4 ≤ s.rst.step →
        ∃ u, exec (.resetDeassertion (portPin p) n) s = .next u ∧ hostUp u p = true ∧ u = { s with
          rst := { s.rst with pins := [], seqs := [] }, hif := u.hif }) ∧
      (s.rst.pins = [.trayReset] → s.rst.seqs = [{ scope := .warm, held := .trayReset }] →
        ∃ u, exec (.resetDeassertion .trayReset n) s = .next u ∧ u.rst.step = 7 ∧ u.rst.pins = [] ∧ u.rst.seqs = [] ∧
          hostUp u 0 = true ∧ hostUp u 1 = true ∧ u.mesh = MeshSt.reset))

/-- R291, R377 to R379, R382, R385, R386, R393, R396: the software resets, the function level reset of a physical function, the
reset of a debug session and a life-cycle transition, with the fuse map at its defaults. -/
def Sys2Proof.Claims.SoftwareResets : Prop :=
  ∀ s : State, s.rst.fuseMap = 0 → s.rst.seqs = [] →
    (∀ fn v, takesResets s = false ∨ fn.isPf = false →
      exec (.softwareWarm fn v) s = .next s ∧ exec (.softwareCompute fn v) s = .next s ∧ exec (.softwareSail fn v) s = .next s) ∧
    (∀ fn v, (rstSwKind v ≠ 1 → exec (.softwareWarm fn v) s = .next s) ∧ (rstSwKind v ≠ 2 → exec (.softwareCompute fn v) s = .next s) ∧
      (rstSwKind v ≠ 3 → exec (.softwareSail fn v) s = .next s)) ∧
    (takesResets s = true →
      (∀ p v, rstSwKind v = 1 → ∃ u, exec (.softwareWarm (.pf p) v) s = .next u ∧ StartsAgain s u ∧ u.time = s.time ∧
        u.rst.source = 3 ∧ u.rst.scope = 2 ∧ u.rst.step = 7 ∧ u.rst.causeTime = BitVec.ofNat 48 s.time.toNat ∧
        u.ttl.warmAt = some s.time) ∧
      (∀ p v, rstSwKind v = 2 → s.rig.phase = .idle → ∃ u, exec (.softwareCompute (.pf p) v) s = .next u ∧
        u.rig = { s.rig with loading := none, shadow := none, shadowSt := .empty, shadowSerial := 0 } ∧
        (activeSails s = [] → u.mesh.running = true ∧ u.mesh.boot = s.rig.active.isNone)) ∧
      (∀ p v, rstSwKind v = 3 →
        let sl := v.toNat / 256 % 64
        (s.desc sl = none → exec (.softwareSail (.pf p) v) s = .next s) ∧
        (∀ d, s.desc sl = some d → swapClass s sl = some .changed ∨ swapClass s sl = some .removed →
          ∃ u, exec (.softwareSail (.pf p) v) s = .next u ∧ u.rst.sailWaits = s.rst.sailWaits ++ [sl] ∧ u.rst.source = 5 ∧
            u.rst.causeSail = BitVec.ofNat 6 sl ∧ u.cores = s.cores ∧ u.mem = s.mem) ∧
        (∀ d, s.desc sl = some d → swapClass s sl ≠ some .changed → swapClass s sl ≠ some .removed → s.cores = [] → s.dma = [] →
          s.yards = [] → s.ctxs = [] → s.groups = [] → s.queues = [] → (s.sail sl).saved = [] → ∃ u, exec (.softwareSail (.pf p) v) s = .next u ∧
            u.rig = s.rig ∧ (u.sail sl).recovering = true ∧ ∀ n ∈ s.sailClusters sl, n < 64 → ∀ a, a < 0x400000 → readB u (cbufBase + n * 0x400000 + a) = 0)) ∧
      (∀ port, queuesOf s (fun x => (x.fn.map (fun fn => fn.hostPort == port % 2)).getD false) = [] →
        ∃ u, exec (.pfFunctionLevelReset port) s = .next u ∧ u.rst.source = BitVec.ofNat 4 (port % 2) ∧ u.rst.scope = 4 ∧
          hostUp u (port % 2) = (decide (4 ≤ s.rst.step) && !s.rst.pins.contains (portPin (port % 2))) ∧ u.mem = s.mem) ∧
      (1 ≤ dbgLevelNow s → ∃ u, exec .dbgReset s = .next u ∧ StartsAgain s u ∧ u.rst.source = 6 ∧ u.rst.scope = 2 ∧ u.rst.step = 7)) ∧
    (dbgLevelNow s = 0 → exec .dbgReset s = .next s) ∧
    (∀ p, p < 2 → s.sec.lcsBusy = false → hostUp s p = true → busOk (lcsAddr s p) 128 = true →
      let r := lcsRequest s p
      (∀ st b0, transitionJudge s r = some st → exec (.transition (.pf p) b0) s = .next { s with sec := { s.sec with lcsStatus := st.code } }) ∧
      (∀ b b0, transitionJudge s r = none → LcState.ofCode (r.nat 7 7) = some b → ∃ u, exec (.transition (.pf p) b0) s = .next u ∧
        u.sec.lc = b ∧ u.sec.lcOpen = false ∧ u.sec.lcCounter = s.sec.lcCounter + 1 ∧
        (takesResets s = true → StartsAgain s u ∧ u.rst.source = 7 ∧ u.rst.scope = 1)))

/-- Resets by pins and by software.
Completes: pfFunctionLevelReset, transition, dbgReset, powerOn, perst, trayResetN, resetDeassertion, softwareWarm, softwareCompute,
softwareSail. -/
def Obligations.PinAndSoftwareResets : Prop := Claims.PinResets ∧ Claims.SoftwareResets

/-- R394, R395: one block is quiesced, reset unless a sail owns it and it takes work, and starts again.
Completes: blockQuiesce, blockReset, blockResetComplete. -/
def Obligations.BlockResets : Prop :=
  ∀ (s : State) (k i : Nat),
    (selectedBlock s = some (k, i) → ∀ p,
      (∀ fn, fn.isPf = false → ∀ v, exec (.blockQuiesce fn v) s = .next s ∧ exec (.blockReset fn) s = .next s) ∧
      (∃ u, exec (.blockQuiesce (.pf p) true) s = .next u ∧ (k, i) ∈ u.rst.quiesced ∧ (∀ b ∈ s.rst.quiesced, b ∈ u.rst.quiesced) ∧
        ∀ j g, s.prog j = some g → (g.q, g.n) ∈ blockCommands s k i → (s.core j).preempt = none → (s.core j).saving = false →
          (u.core j).preempt = some s.time) ∧
      (let t : State := { s with rst := { s.rst with quiesced := s.rst.quiesced.filter (fun b => b != (k, i)) } }
       exec (.blockQuiesce (.pf p) false) s =
         .next { (activeSails t).foldl schedule t with pending := s.pending, rig := s.rig, time := s.time }) ∧
      (s.rst.blockBusy.isSome = true ∨ (blockOwned s k i = true ∧ (k, i) ∉ s.rst.quiesced) → exec (.blockReset (.pf p)) s =
        .next { s with rst := { s.rst with blkIgnored := true } }) ∧
      (s.rst.blockBusy = none → blockOwned s k i = false ∨ (k, i) ∈ s.rst.quiesced → exec (.blockReset (.pf p)) s =
        .next { s with rst := { s.rst with blockBusy := some (k, i) } })) ∧
    (s.rst.blockBusy = none → exec .blockResetComplete s = .next s) ∧
    (s.rst.blockBusy = some (k, i) → ∃ u, exec .blockResetComplete s = .next u ∧ u.rst.blockBusy = none ∧
      (k = 0 → ∀ a, a < 2 ^ 19 → readB u (spadKey (36 * (routerCore i).1 + (routerCore i).2) + a) = 0) ∧
      (k = 1 → i < 64 → (∀ a, a < 0x400000 → readB u (cbufBase + i * 0x400000 + a) = 0) ∧ ∀ e, e < 4 → (u.engine (4 * i + e)).descs = []) ∧
      (k = 2 → (u.engine i).descs = [] ∧ u.mem = s.mem) ∧
      (k = 5 → (s.port i).fenced = false → (u.port i).trained = (s.port i).cable ∧ (u.port i).sendQ = [] ∧ (u.port i).unacked = []) ∧
      (k = 7 → i < 4 → ∀ a, (gddrBase + 16 * i * 2 ^ 30 ≤ a → a < gddrBase + (16 * i + 16) * 2 ^ 30 → readB u a = 0) ∧
        (a < gddrBase + 16 * i * 2 ^ 30 ∨ gddrBase + (16 * i + 16) * 2 ^ 30 ≤ a → readB u a = readB s a)))

/-- R398 to R404: firmware delivery in order, the image judged at its end, orderly shutdown and the two self-tests.
Completes: bootBegin, bootData, bootEnd, bootState, shutdownGo, selfTestComplete, backgroundTestComplete. -/
def Obligations.FirmwareAndTests : Prop :=
  ∀ (s : State) (p : Nat),
    (4 ≤ s.rst.step → hostUp s p = true →
      (s.rst.fwRun = true → ∀ len off data, ∀ x ∈ [Instr.bootBegin (.pf p) len, .bootData (.pf p) off data, .bootEnd (.pf p) data],
        exec x s = .next (bootAnswer s (.pf p) .faultPermission [])) ∧
      (s.rst.fwRun = false → (∀ b, s.rst.boot = some b → b.port = p) →
        (∃ l, exec (.bootState (.pf p)) s = .next (bootAnswer s (.pf p) .done l) ∧ l.head? = some (BitVec.ofNat 8 s.rst.step)) ∧
        (∀ len, (len = 0 ∨ 2 ^ 24 < len ∨ len % 64 ≠ 0 → exec (.bootBegin (.pf p) len) s = .next (bootAnswer s (.pf p) .malformed [])) ∧
          (len ≠ 0 → len ≤ 2 ^ 24 → len % 64 = 0 → exec (.bootBegin (.pf p) len) s = .next (bootAnswer
            { s with rst := { s.rst with boot := some { port := p, len := len, img := [], written := [] } } } (.pf p) .done []))) ∧
        (∀ body, body ≠ [] → exec (.bootEnd (.pf p) body) s = .next (bootAnswer s (.pf p) .malformed [])) ∧
        (s.rst.boot = none → ∀ off data, exec (.bootData (.pf p) off data) s = .next (bootAnswer s (.pf p) .malformed []) ∧
          exec (.bootEnd (.pf p) []) s = .next (bootAnswer s (.pf p) .malformed [])) ∧
        (∀ b, s.rst.boot = some b →
          (∀ off data, off % 64 = 0 → data ≠ [] → data.length ≤ 2 ^ 19 → off + data.length ≤ b.len →
            ∃ u w, exec (.bootData (.pf p) off data) s = .next u ∧ u.rst = { s.rst with boot := some w } ∧ w.len = b.len ∧
              (∀ i, i < data.length → some (w.img.get 0 (off + i)) = data[i]? ∧ w.written.get false (off + i) = true) ∧
              ∀ j, (j < off ∨ off + data.length ≤ j) → w.img.get 0 j = b.img.get 0 j ∧ w.written.get false j = b.written.get false j) ∧
          (b.ok s.rst.fwFloor.toNat = false ∨ b.signed s.sec.romKeys.firm = false → exec (.bootEnd (.pf p) []) s =
            .next (bootAnswer { s with rst := { s.rst with boot := none } } (.pf p) .faultPermission [])) ∧
          (b.ok s.rst.fwFloor.toNat = true → b.signed s.sec.romKeys.firm = true → ∃ u, exec (.bootEnd (.pf p) []) s = .next u ∧
            u.rst.fwRun = true ∧ u.rst.boot = none ∧ u.rst.step = 11 ∧ u.rst.ready = !s.pwr.fatal ∧ u.rst.fwVer = BitVec.ofNat 16 (b.field 6 2) ∧
            u.rst.fwFloor = if b.field 21 1 % 2 = 1 then BitVec.ofNat 16 (b.field 22 2) else s.rst.fwFloor)))) ∧
    ((s.rst.shutdown = true ∨ (activeRig s).sails ≠ [] ∨ s.rig.phase ≠ .idle) →
      exec (.shutdownGo (.pf p)) s = .next { s with rst := { s.rst with sdIgnored := true } }) ∧
    (s.rst.shutdown = false → (activeRig s).sails = [] → s.rig.phase = .idle → ∃ u, exec (.shutdownGo (.pf p)) s = .next u ∧
      u.rst.shutdown = true ∧ (u.rst.offReady = true ↔ s.sec.lc = .scrapped ∨ s.rst.offReady = true) ∧ hostUp u 0 = false ∧ hostUp u 1 = false ∧
      u.mem = s.mem) ∧
    (∀ l g, (s.rst.shutdown = false ∨ s.rst.offReady = true → exec (.selfTestComplete l g) s = .next s) ∧
      (s.rst.shutdown = true → s.rst.offReady = false → ∃ u, exec (.selfTestComplete l g) s = .next u ∧ u.rst.offReady = true ∧
        u.rst.testRec.valid = true ∧ u.rst.testRec.entries = l.take 256 ∧ u.rst.testRec.overflow = decide (256 < l.length) ∧
        u.rst.testRec.seq = s.rst.testRec.seq + 1 ∧ u.rst.testRec.inProgress = false ∧
        ∀ a, a < dramEnd → readB u a = Config.lostByte (s.free + 1) a)) ∧
    (∀ l g, s.rst.bgTest = false → exec (.backgroundTestComplete l g) s = .next s) ∧
    (s.rst.bgTest = true →
      (s.rig.waits = false → ∀ g, exec (.backgroundTestComplete [] g) s = .next { s with rst := { s.rst with bgTest := false } }) ∧
      (s.rig.waits = false → ∀ e, e.lasting = true → ∃ u, exec (.backgroundTestComplete [e] false) s = .next u ∧
        u.rst.bgTest = false ∧ fenced u e.kind e.index = true ∧ u.rig = s.rig) ∧
      (s.rig.waits = true → ∀ g, exec (.backgroundTestComplete [] g) s = .next { swapJudge { s with
        rst := { s.rst with bgTest := false }, rig := { s.rig with waits := false } } with pending := s.pending, time := s.time }))

/-! ### Faults and losses -/

/-- R159, R179, R410 to R412, R420, R435: the loss of a channel or a port, a die link, an island, a host link, a read from the host,
the masthead: what is retrained and logged, what is fenced, and which step of the ladder follows. -/
def Sys2Proof.Claims.UnitLosses : Prop :=
  ∀ s : State,
    (∀ gddr chan,
      let x := (if gddr then s.tiers.gchan else s.tiers.chan).get ChanRate.reset chan
      (x.fenced = true → ∀ b, exec (.channelTrainingLoss gddr chan b) s = .next s) ∧
      (x.fenced = false → recurs s.time x.lastLoss = false → ∃ u, exec (.channelTrainingLoss gddr chan true) s = .next u ∧
        u.ttl.written = s.ttl.written + 1 ∧ u.mem = s.mem ∧ (if gddr then u.tiers.gchan else u.tiers.chan).get ChanRate.reset chan =
          { x with lastLoss := some s.time }) ∧
      (x.fenced = false → ∀ b, b = false ∨ recurs s.time x.lastLoss = true → ∃ u, exec (.channelTrainingLoss gddr chan b) s = .next u ∧
        fenced u (if gddr then 10 else 9) chan = true ∧ u.mem = s.mem)) ∧
    (∀ p, p < 2 →
      ((s.cxl p).fenced = true → ∀ b, exec (.cxlLinkLoss p b) s = .next s) ∧
      ((s.cxl p).fenced = false → recurs s.time (s.cxl p).lastLoss = false → ∃ u, exec (.cxlLinkLoss p true) s = .next u ∧
        (u.cxl p).up = true ∧ (u.cxl p).linkUp = true ∧ (u.cxl p).fenced = false ∧ (u.cxl p).lastLoss = some s.time ∧
        u.ttl.written = s.ttl.written + 1) ∧
      ((s.cxl p).fenced = false → ∃ u, exec (.cxlLinkLoss p false) s = .next u ∧ fenced u 6 p = true) ∧
      (∃ u, exec (.cxlViral p) s = .next u ∧ fenced u 6 p = true ∧
        (fenced s 6 p = false → (u.cxl p).fenced = true ∧ (u.cxl p).up = false))) ∧
    (∀ p, (hostUp s p = true → ∃ u, exec (.hostLinkDown p) s = .next u ∧ hostUp u p = false ∧ u.ttl.written = s.ttl.written + 1 ∧
        u.mem = s.mem ∧ u.queues = s.queues) ∧ (hostUp s p = false → exec (.hostLinkDown p) s = .next s)) ∧
    (∀ q n c, s.cmd q n = some c →
      (c.phase = .started → c.opcode ∈ busOpcodes → 50000000 ≤ (s.time - c.startAt).toNat →
        ∃ u, exec (.hostReadTimeout (.command q n)) s = .next u ∧ completed s u q n .faultTranslation) ∧
      (c.phase ≠ .started ∨ c.opcode ∉ busOpcodes ∨ (s.time - c.startAt).toNat < 50000000 →
        exec (.hostReadTimeout (.command q n)) s = .next s)) ∧
    (∀ cl g k d, (s.engine (4 * cl + g)).descs.find? (fun d => d.id == k) = some d → d.phase = .running →
      (∃ lc a b, d.from_ = .core lc a b) →
      (∃ p ∈ sidePieces (dmaForm d.raw) true, hostPiece s { useOfCmd s d.from_.cmd.1 d.from_.cmd.2 with ctx := d.ctx } .read p.1 = true) →
      ∃ u, exec (.hostReadTimeout (.dma cl g k)) s = .next u ∧
        ∃ e ∈ (u.engine (4 * cl + g)).descs, e.id = k ∧ e.phase = .ended .faultPoison) ∧
    (∀ y e k r x, openRow s y e k = some (r, x) →
      let r' := setRow r k { x with arrived := true, poison := true }
      (50000000 ≤ (s.time - x.asked).toNat →
        (∃ p ∈ readSpans (tableOf r.desc) x, hostPiece s (reqUse s r.ctx r.q r.n) .read p.1 = true) →
        exec (.hostReadTimeout (.row y e k)) s = .next { advanceLookup (s.updReq y r.id (fun _ => r')) y e r' with
          pending := s.pending, rig := s.rig, time := s.time }) ∧
      ((s.time - x.asked).toNat < 50000000 → exec (.hostReadTimeout (.row y e k)) s = .next s)) ∧
    (∀ y id r e lc tag key, FromCore s y id r lc tag key → r.phase = .engine e → r.desc = [] → (reqHdr r.record).yop ≠ 0x11 →
      hostPiece s (reqUse s r.ctx r.q r.n) .read (descVa (s.ctx r.ctx) (reqHdr r.record).table) = true →
      ∃ u, exec (.hostReadTimeout (.request y id)) s = .next u ∧ answered s u y id r lc tag key .faultPoison [] ∧ u.mem = s.mem) ∧
    (∀ r d a b i, linkEnd r d = some (a, b, i) →
      (i ≠ 7 ∨ s.rst.powered = false ∨ s.mesh.running = false → exec (.dieLinkLoss r d) s = .next s) ∧
      (i = 7 → s.rst.powered = true → s.mesh.running = true → s.pwr.fatal = false → s.rig.phase = .idle →
        (∀ t ∈ s.ttl.steps, t.code = 4 → t.ended = none) → ∃ u, exec (.dieLinkLoss r d) s = .next u ∧
          u.rig = { s.rig with loading := none, shadow := none, shadowSt := .empty, shadowSerial := 0 }) ∧
      (i = 7 → s.rst.powered = true → s.mesh.running = true → (∃ t ∈ s.ttl.steps, t.code = 4 ∧ t.ended.isSome = true ∧ recentStep s.time t = true) →
        1 ≤ s.ttl.chipFails → ∃ u, exec (.dieLinkLoss r d) s = .next u ∧ u.pwr.fatal = true ∧ u.rst.ready = false ∧
          u.mesh = { s.mesh with running := false })) ∧
    (∀ i, (s.rst.powered = false → exec (.undervoltage i) s = .next s) ∧
      (s.rst.powered = true → s.pwr.fatal = false → (∃ k, i = .other k) → ∃ u, exec (.undervoltage i) s = .next u ∧
        u.pwr.undervolt = true ∧ u.rig = { RigSt.reset with highSerial := s.rig.highSerial } ∧ u.cores = [] ∧ u.ctxs = [] ∧
        u.ttl.warmAt = some s.time) ∧
      (s.rst.powered = true → s.pwr.fatal = false → (∀ k, i ≠ .other k) → s.rig.phase = .idle → ∃ u, exec (.undervoltage i) s = .next u ∧
        u.rig = { s.rig with loading := none, shadow := none, shadowSt := .empty, shadowSerial := 0 } ∧
        (s.cores = [] → s.dma = [] → s.yards = [] → s.ctxs = [] → s.groups = [] → s.rig.active = none →
          u.pwr = { s.pwr with undervolt := true, stopped := [] })) ∧
      (s.rst.powered = true → s.pwr.fatal = true →
        exec (.undervoltage i) s = .next { s with pwr := { s.pwr with undervolt := true, stopped := s.pwr.stopped ++ [i] } })) ∧
    (s.rst.fwRun = false → ∀ b, exec (.mastheadFault b) s = .next s) ∧
    (s.rst.fwRun = true →
      (∃ u, exec (.mastheadFault false) s = .next u ∧ u.ttl.fwHung = true ∧ u.ttl.written = s.ttl.written + 1 ∧ u.rst = s.rst) ∧
      (s.pwr.fatal = false → afterWarm s = false → ∃ u, exec (.mastheadFault true) s = .next u ∧ StartsAgain s u ∧
        u.rst.fwRun = false ∧ u.pwr.alertFw = true ∧ u.ttl.warmAt = some s.time) ∧
      (s.pwr.fatal = false → afterWarm s = true → ∃ u, exec (.mastheadFault true) s = .next u ∧ u.pwr.powerCycle = true ∧
        u.pwr.alertCause = s.pwr.alertCause ||| 16 ∧ u.rst.fwRun = false ∧ u.rst.ready = false ∧ u.rig = s.rig))

/-- R388, R450, R454, R460: what a module without power keeps. -/
def Sys2Proof.Claims.PowerFailures : Prop :=
  ∀ s : State,
    (s.rst.powered = true →
      (∀ k t, k < 156 → tripLimit k ≤ t → ∃ u, exec (.thermTrip k t) s = .next u ∧ StartsAgain s u ∧ u.time = 0 ∧
        u.rst.powered = false ∧ u.pwr.pwrGood = false ∧ u.pwr.thermTrip = true ∧ u.rst.testRec.inProgress = true ∧
        u.rst.fenceMap = s.rst.fenceMap) ∧
      (∀ k t, 156 ≤ k ∨ t < tripLimit k → exec (.thermTrip k t) s = .next s) ∧
      (∀ c, ∃ u, exec (.powerLoss c) s = .next u ∧ StartsAgain s u ∧ u.time = 0 ∧ u.rst.powered = false ∧ u.pwr.pwrGood = false ∧
        u.pwr.brownout = (s.pwr.brownout || c == .belowTurnOff) ∧ u.pwr.thermTrip = s.pwr.thermTrip) ∧
      (∃ u, exec .inputOvervoltage s = .next u ∧ StartsAgain s u ∧ u.rst.powered = false ∧ u.pwr.pwrGood = false ∧
        u.pwr.overvolt = true ∧ u.pwr.reversed = s.pwr.reversed) ∧
      ∃ u, exec .reversedPolarity s = .next u ∧ StartsAgain s u ∧ u.rst.powered = false ∧ u.pwr.pwrGood = false ∧
        u.pwr.reversed = true ∧ u.pwr.overvolt = s.pwr.overvolt) ∧
    (s.rst.powered = false → (∀ k t, exec (.thermTrip k t) s = .next s) ∧ (∀ c, exec (.powerLoss c) s = .next s) ∧
      exec .inputOvervoltage s = .next { s with pwr := { s.pwr with overvolt := true } } ∧
      exec .reversedPolarity s = .next { s with pwr := { s.pwr with reversed := true } })

/-- What the loss of a unit or of the supply does.
Completes: dieLinkLoss, thermTrip, powerLoss, channelTrainingLoss, cxlLinkLoss, hostLinkDown, mastheadFault, hostReadTimeout, undervoltage,
inputOvervoltage, reversedPolarity, cxlViral. -/
def Obligations.LossesAndPower : Prop := Claims.UnitLosses ∧ Claims.PowerFailures

/-! ### Queues and contexts -/

/-- R302, R303, R305, R314: the registers of a queue block; only the function that enabled the queue reaches it.
Completes: doorbell, overrunClear, qbCqHead, commandFetch, enable, disable, qbFenceSignal. -/
def Obligations.QueueRegisters : Prop :=
  ∀ (s : State) (fn : HostFn) (q : Nat),
    let x := s.queue q
    (8192 ≤ q ∨ x.fn ≠ some fn ∨ x.st = .idle → (∀ t, exec (.doorbell fn q t) s = .next s) ∧ exec (.overrunClear fn q) s = .next s ∧
      (∀ v, exec (.qbCqHead fn q v) s = .next s) ∧ (∀ v, exec (.qbFenceSignal fn q v) s = .next s) ∧ exec (.disable fn q) s = .next s) ∧
    (q < 8192 → x.fn = some fn → x.st ≠ .idle →
      (∀ t, x.st ≠ .active ∨ x.overrun = true → exec (.doorbell fn q t) s = .next s) ∧
      (∀ t, x.st = .active → x.overrun = false →
        (t ≠ x.tail → (t - x.head).toNat ≤ 2 ^ x.log2 → (t - x.tail).toNat < 2 ^ 31 → exec (.doorbell fn q t) s =
          .next (s.setQueue q { x with tail := t, stamps := x.stamps ++ [(t, (s.ctx x.ctx).mseq)] })) ∧
        (t = x.tail → (t - x.head).toNat ≤ 2 ^ x.log2 → exec (.doorbell fn q t) s = .next (s.setQueue q x)) ∧
        (2 ^ x.log2 < (t - x.head).toNat ∨ 2 ^ 31 ≤ (t - x.tail).toNat → exec (.doorbell fn q t) s =
          .next (s.setQueue q { x with overrun := true }))) ∧
      (x.st = .active → x.overrun = true → x.head ≠ x.tail → hostUp s (queuePort s q) = true →
        busOk (x.sqBase + 64 * (x.head.toNat % 2 ^ x.log2)) 64 = true → (x.head - x.cqHead).toNat < 2 ^ x.log2 → ∃ y, exec (.commandFetch q) s = .next (s.setQueue q y) ∧ y.head = x.head + 1 ∧
          y.tail = x.tail ∧ y.overrun = true ∧ y.cmds.length = x.cmds.length + 1) ∧
      exec (.overrunClear fn q) s = .next (s.setQueue q { x with overrun := false }) ∧
      (∀ v, exec (.qbCqHead fn q v) s = .next (s.setQueue q { x with cqHead := v })) ∧
      (∀ v : Word, exec (.qbFenceSignal fn q v) s = .next (s.setQueue q
        (if v.toNat < x.fence.toNat then { x with fenceLow := satInc x.fenceLow } else { x with fence := v })))) ∧
    (s.queueSail q = none → exec (.enable fn q) s = .next s) ∧
    (∀ sl, s.queueSail q = some sl → s.reaches fn sl = false ∨ (x.st ≠ .idle ∧ x.fn ≠ some fn) → exec (.enable fn q) s = .next s) ∧
    (∀ sl, s.queueSail q = some sl → s.reaches fn sl = true →
      (x.st ≠ .idle → x.fn = some fn → exec (.enable fn q) s = .next (s.setQueue q { x with error := 3 })) ∧
      (x.st = .idle → s.ctxSail x.ctx ≠ some sl ∨ (s.ctx x.ctx).st ≠ .active →
        exec (.enable fn q) s = .next (s.setQueue q { x with error := 1 })) ∧
      (x.st = .idle → s.ctxSail x.ctx = some sl → (s.ctx x.ctx).st = .active →
        (x.log2 < 4 ∨ 16 < x.log2 → exec (.enable fn q) s = .next (s.setQueue q { x with error := 4 })) ∧
        (4 ≤ x.log2 → x.log2 ≤ 16 → 2 ^ 46 < x.sqBase + 64 * 2 ^ x.log2 ∨ 2 ^ 46 < x.cqBase + 32 * 2 ^ x.log2 →
          exec (.enable fn q) s = .next (s.setQueue q { x with error := 2 })) ∧
        (4 ≤ x.log2 → x.log2 ≤ 16 → x.sqBase + 64 * 2 ^ x.log2 ≤ 2 ^ 46 → x.cqBase + 32 * 2 ^ x.log2 ≤ 2 ^ 46 →
          ∃ y, exec (.enable fn q) s = .next (s.setQueue q y) ∧ y.st = .active ∧ y.fn = some fn ∧ y.head = 0 ∧ y.tail = 0 ∧
            y.cqHead = 0 ∧ y.cqTail = 0 ∧ y.fence = 0 ∧ y.cmds = [] ∧ y.sqBase = x.sqBase ∧ y.cqBase = x.cqBase ∧ y.ctx = x.ctx ∧
            y.log2 = x.log2 ∧ y.vector = x.vector ∧ y.irqAll = x.irqAll)))

/-- R191, R304, R307, R308, R310 to R315: a submitted command is fetched while its record is sure of a slot, starts in its turn
once its WAIT holds, and leaves with its record, which carries its signal.
Completes: commandFetch, commandStart, completionRecord. -/
def Obligations.QueueFlow : Prop :=
  ∀ (s : State) (q : Nat),
    let x := s.queue q
    let at_ := x.sqBase + 64 * (x.head.toNat % 2 ^ x.log2)
    let rec_ := x.cqBase + 32 * (x.cqTail.toNat % 2 ^ x.log2)
    (q < 8192 → x.st = .active → x.head ≠ x.tail → hostUp s (queuePort s q) = true → busOk at_ 64 = true →
      (x.head - x.cqHead).toNat < 2 ^ x.log2 → x.resetTo = none → ∃ y c, exec (.commandFetch q) s = .next (s.setQueue q y) ∧ y.head = x.head + 1 ∧ y.tail = x.tail ∧
        y.cmds = x.cmds ++ [c] ∧ c.n = x.head.toNat ∧ c.phase = .fetched ∧ c.stamp = stampOf x ∧
        c.raw = BitVec.ofNat 512 (leNat (readBytes s (busKey (queuePort s q) at_) 64))) ∧
    (8192 ≤ q ∨ x.st ≠ .active ∨ x.head = x.tail ∨ hostUp s (queuePort s q) = false ∨ busOk at_ 64 = false ∨
      2 ^ x.log2 ≤ (x.head - x.cqHead).toNat → exec (.commandFetch q) s = .next s) ∧
    (∀ c sl, nextCmd x = some c → s.cmd q c.n = some c → s.ctxSail x.ctx = some sl →
      (x.st ≠ .active ∨ (s.ctx x.ctx).st ≠ .active ∨ dispatches s sl = false → exec (.commandStart q) s = .next s) ∧
      (q < 8192 → x.st = .active → (s.ctx x.ctx).st = .active → dispatches s sl = true →
        ((s.sail sl).revoked = true → ∃ u, exec (.commandStart q) s = .next u ∧ completed s u q c.n .abortKeyRevoked) ∧
        ((s.sail sl).revoked = false →
          (waitTest s sl c = .hold → exec (.commandStart q) s = .next s) ∧
          (∀ st, waitTest s sl c = .finish st → ∃ u, exec (.commandStart q) s = .next u ∧ completed s u q c.n st) ∧
          (waitTest s sl c = .go →
            (c.flag 3 = true → (∃ d ∈ x.cmds.takeWhile (fun d => d.n != c.n), d.isCompleted = false) → exec (.commandStart q) s = .next s) ∧
            (c.flag 3 = false ∨ (∀ d ∈ x.cmds.takeWhile (fun d => d.n != c.n), d.isCompleted = true) →
              (formOk c = false → ∃ u, exec (.commandStart q) s = .next u ∧ completed s u q c.n .malformed) ∧
              (formOk c = true → exec (.commandStart q) s =
                .next (s.updCmd q c.n (fun d => { d with phase := .started, startAt := s.time, readyAt := s.time })))))))) ∧
    (∀ n c, s.cmd q n = some c → c.isCompleted = false → exec (.completionRecord q n) s = .next s) ∧
    (∀ n c st, s.cmd q n = some c → c.phase = .completed st → q < 8192 → x.st = .active → x.noRecords = false →
      (recordTurn x c = false ∨ hostUp s (queuePort s q) = false ∨ busOk rec_ 32 = false → exec (.completionRecord q n) s = .next s) ∧
      (recordTurn x c = true → hostUp s (queuePort s q) = true → busOk rec_ 32 = true →
        (2 ^ x.log2 ≤ (x.cqTail - x.cqHead).toNat → exec (.completionRecord q n) s = .next (s.setQueue q { x with cqFull := true })) ∧
        ((x.cqTail - x.cqHead).toNat < 2 ^ x.log2 → ∃ u, exec (.completionRecord q n) s = .next u ∧
          let first := (x.cmds.head?.map (·.n)) == some c.n
          let key := busKey (queuePort s q) rec_
          let bytes := recordBytes q x c (if saturates x c = true then .fenceSaturated else st) (!first) s.time
          bytes.length = 32 ∧ readBytes u key 32 = bytes ∧ (∀ a, a < key ∨ key + 32 ≤ a → readB u a = readB s a) ∧
          (u.queue q).cqTail = x.cqTail + 1 ∧ (u.queue q).cmds = x.cmds.filter (fun d => d.n != c.n) ∧
          (u.queue q).doneCount = x.doneCount + 1 ∧ (u.queue q).fence = (signalCmd x c).fence)))

/-- R291, R298, R299, R301, R325, R429: the operations of a sail's mailbox on a context, and the disabling of queues; a context on
which nothing stands is gone, or active again, at once.
Completes: disable, create, destroy, reset, resume, vfFunctionLevelReset. -/
def Obligations.ContextLife : Prop :=
  (∀ (s : State) (fn : HostFn) (sl c : Nat) (d : SailDesc), s.desc sl = some d → s.reaches fn sl = true →
    let ops := [Instr.create fn sl c, .destroy fn sl c, .reset fn sl c, .resume fn sl c]
    let t := s.updSail sl (fun x => { x with resCtx := c })
    let said := fun (v : State) (st : Status) => v.updSail sl (fun x => { x with status := st })
    ((s.sail sl).busy = true ∨ c < d.ctxFirst ∨ d.ctxFirst + d.ctxCount ≤ c ∨ (s.sail sl).state ≠ 1 →
      ∀ x ∈ ops, exec x s = .next (s.updSail sl (fun x => { x with ignored := true }))) ∧
    ((s.sail sl).busy = false → d.ctxFirst ≤ c → c < d.ctxFirst + d.ctxCount → (s.sail sl).state = 1 →
      ((s.ctx c).st = .free →
        exec (.destroy fn sl c) s = .next (said t .malformed) ∧ exec (.reset fn sl c) s = .next (said t .malformed) ∧
        exec (.resume fn sl c) s = .next (said t .malformed) ∧
        (hostUp s fn.hostPort = false ∨ busOk (s.sail sl).ctxDesc 128 = false →
          exec (.create fn sl c) s = .next (said t .faultTranslation)) ∧
        (hostUp s fn.hostPort = true → busOk (s.sail sl).ctxDesc 128 = true →
          let l := readBytes s (busKey fn.hostPort (s.sail sl).ctxDesc) 128
          (ctxDescOk l = false → exec (.create fn sl c) s = .next (said t .malformed)) ∧
          (∀ st, ctxDescOk l = true → xltJudge s sl (ctxOf l).xltBase = some st → exec (.create fn sl c) s = .next (said t st)) ∧
          (ctxDescOk l = true → xltJudge s sl (ctxOf l).xltBase = none →
            exec (.create fn sl c) s = .next (said (t.setCtx c (ctxOf l)) .done)))) ∧
      ((s.ctx c).st ≠ .free → exec (.create fn sl c) s = .next (said t .malformed)) ∧
      ((s.ctx c).st = .active → exec (.resume fn sl c) s = .next (said t .done)) ∧
      ((s.ctx c).st = .stopped →
        let go := fun (v : State) => v.updCtx c (fun x => { x with st := .active })
        exec (.resume fn sl c) s = .next
          { scheduleCtx (said (if readyOf (go t) sl c = [] then go t else go (becomeReady t sl c)) .done) c with
            pending := s.pending, rig := s.rig, time := s.time } ∧
        (s.cores = [] → s.queues = [] → ∃ u, exec (.resume fn sl c) s = .next u ∧ (u.ctx c).st = .active ∧
          (u.sail sl).status = .done ∧ (u.sail sl).resCtx = c ∧ u.mem = s.mem)) ∧
      ((s.ctx c).st = .active ∨ (s.ctx c).st = .stopped →
        let b := t.updSail sl (fun x => { x with busy := true })
        exec (.reset fn sl c) s = .next { resetCtx b c 0x0B with pending := s.pending, rig := s.rig, time := s.time } ∧
        exec (.destroy fn sl c) s = .next { destroyCtx b c with pending := s.pending, rig := s.rig, time := s.time } ∧
        (s.ctxSail c = some sl → s.cores = [] → s.dma = [] → s.yards = [] → s.groups = [] → s.sems = [] → s.queues = [] →
          (∀ p ∈ s.sails, p.2.saved = [] ∧ p.2.step = none) → s.ryu.exports = [] → s.ryu.imports = [] → s.ryu.ingest = [] →
          (s.ctx c).ranges = [] →
          (∃ u, exec (.reset fn sl c) s = .next u ∧ (u.ctx c).st = .active ∧ (u.ctx c).arith = 0 ∧ (u.ctx c).holds = [] ∧
            (u.sail sl).busy = false ∧ (u.sail sl).status = .done ∧ (u.sail sl).resCtx = c) ∧
          ∃ u, exec (.destroy fn sl c) s = .next u ∧ u.ctx c = Ctx.empty ∧ (u.sail sl).busy = false ∧ (u.sail sl).status = .done ∧
            (u.sail sl).resCtx = c)))) ∧
  (∀ (s : State) (fn : HostFn) (q : Nat), q < 8192 → (s.queue q).fn = some fn → (s.queue q).st = .active →
    exec (.disable fn q) s = .next { disableQueue s q false with pending := s.pending, rig := s.rig, time := s.time } ∧
    ((s.queue q).cmds = [] → ∃ u, exec (.disable fn q) s = .next u ∧ (u.queue q).st = .idle ∧ (u.queue q).tail = (s.queue q).head)) ∧
  (∀ (s : State) (port k : Nat),
    (queuesOf s (fun x => x.fn == some (.vf port k)) = [] → exec (.vfFunctionLevelReset port k) s = .next s) ∧
    (∀ q, queuesOf s (fun x => x.fn == some (.vf port k)) = [q] → exec (.vfFunctionLevelReset port k) s =
        .next { disableQueue s q true with pending := s.pending, rig := s.rig, time := s.time } ∧
      ((s.queue q).cmds = [] → ∃ u, exec (.vfFunctionLevelReset port k) s = .next u ∧ (u.queue q).st = .idle ∧
        (u.queue q).tail = (s.queue q).head)))

/-- R104, R114, R308, R316, R317, R331: the commands NOP, RUN, SEM_INIT, SEM_RELEASE and TABLE_SYNC.
Completes: nopCommand, run, semInit, semRelease, tableSync. -/
def Obligations.HostCommands : Prop :=
  ∀ (s : State) (q n sl : Nat) (k : CmdRec), s.ctxSail (s.queueCtx q) = some sl →
    (startedAs s q n 0x00 = some k → ∃ u, exec (.nopCommand q n) s = .next u ∧ completed s u q n .done ∧ u.mem = s.mem ∧
      u.cores = s.cores ∧ u.yards = s.yards ∧ u.dma = s.dma) ∧
    (startedAs s q n 0x01 = some k →
      (runOk s sl k = false → ∃ u, exec (.run q n) s = .next u ∧ completed s u q n .malformed ∧ u.cores = s.cores) ∧
      (runOk s sl k = true →
        exec (.run q n) s = .next { readyRun s sl q n with pending := s.pending, rig := s.rig, time := s.time } ∧
        (sailRuns s sl = false → ∃ u, exec (.run q n) s = .next u ∧ u.cmd q n = some { k with phase := .ready, readyAt := s.time } ∧
          u.cores = s.cores))) ∧
    (startedAs s q n 0x03 = some k →
      let i := bytesOf k.raw 8 9
      let v := bytesOf k.raw 12 15
      let m := bytesOf k.raw 16 19
      let h := bytesOf k.raw 20 23
      let bad := m = 0 ∨ 2 ^ 31 ≤ m ∨ m < v ∨ (h ≠ 0 ∧ (h < 10 ∨ 10000 < h))
      (bad → ∃ u, exec (.semInit q n) s = .next u ∧ completed s u q n .malformed ∧ u.sems = s.sems) ∧
      (¬ bad → s.semSail i ≠ some sl → ∃ u, exec (.semInit q n) s = .next u ∧ completed s u q n .faultPermission ∧ u.sems = s.sems) ∧
      (¬ bad → s.semSail i = some sl → semHeld s i = true → ∃ u, exec (.semInit q n) s = .next u ∧ completed s u q n .malformed ∧
        u.sems = s.sems) ∧
      (¬ bad → s.semSail i = some sl → semHeld s i = false → (s.sem i).waiters = [] → ∃ u, exec (.semInit q n) s = .next u ∧
        completed s u q n .done ∧ (u.sem i).value = v ∧ (u.sem i).max = m ∧ (u.sem i).hold = (if h = 0 then 200 else h) ∧
        ∀ j, j ≠ i → u.sem j = s.sem j)) ∧
    (startedAs s q n 0x04 = some k →
      let i := bytesOf k.raw 8 9
      (s.semSail i ≠ some sl → ∃ u, exec (.semRelease q n) s = .next u ∧ completed s u q n .faultPermission ∧ u.sems = s.sems) ∧
      (s.semSail i = some sl → (s.sem i).waiters = [] → ∃ u, exec (.semRelease q n) s = .next u ∧ completed s u q n .done ∧
        (u.sem i).value = min (s.sem i).max ((s.sem i).value + bytesOf k.raw 12 15) ∧ ∀ j, j ≠ i → u.sem j = s.sem j)) ∧
    (startedAs s q n 0x05 = some k →
      let t := bytesOf k.raw 8 9
      (4095 < t → ∃ u, exec (.tableSync q n) s = .next u ∧ completed s u q n .malformed ∧ u.yards = s.yards) ∧
      (t ≤ 4095 → yardsOf s sl = [] → ∃ u, exec (.tableSync q n) s = .next u ∧ completed s u q n .done ∧ u.yards = s.yards) ∧
      (∀ y, t ≤ 4095 → yardsOf s sl = [y] → lookupEngines s y sl ≠ [] → (∀ r ∈ (s.yard y).reqs, r.id ≠ (s.yard y).nextReq) →
        ∃ u r, exec (.tableSync q n) s = .next u ∧ u.cmd q n = some { k with phase := .executing, parts := 1 } ∧
          (u.yard y).reqs = (s.yard y).reqs ++ [r] ∧ r.record = tblsyncRecord t ∧ r.from_ = .host q n ∧ r.sail = sl ∧ r.phase = .waiting))

/-- R320: where each mode of a legal descriptor puts the bits or elements of its source, and where the planes of a side without a ring
lie. -/
def Obligations.ReshuffleModes : Prop :=
  ∀ (raw : BitVec 512) (l : List Byte), dmaFormOk raw = true → l.length = (dmaForm raw).len →
    let d := dmaForm raw
    let p := d.planes
    let part := d.len / p
    let src := l.map (fun b => ((b, 0) : Marked))
    let out := reshuffle d src
    let bitAt := fun (m : List Marked) (x : Nat) => (m.getD (x / 8) (0, 0)).1.getLsbD (x % 8)
    let spread := fun (m : List (Nat × Nat)) => m.flatMap (fun x => (List.range x.2).map (fun o => x.1 + o))
    let lie := fun (base step : Nat) => (List.range p).flatMap (fun j => (List.range part).map (fun o => base + j * step + o))
    out.length = d.len ∧
    (d.mode = 1 ∨ d.mode = 2 → d.len % (32 * p) = 0) ∧
    (d.mode = 1 → (∀ i j, i < 8 * part → j < p → bitAt out (8 * part * j + i) = bitAt src (p * i + j)) ∧
      (d.dstWrap = 0 → spread (sidePieces d false) = lie d.dst part)) ∧
    (d.mode = 2 → (∀ i j, i < 8 * part → j < p → bitAt out (p * i + j) = bitAt src (8 * part * j + i)) ∧
      (d.srcWrap = 0 → spread (sidePieces d true) = lie d.src part)) ∧
    (d.mode = 3 ∨ d.mode = 4 → d.len % p = 0 ∧ part % 32 = 0) ∧
    (d.mode = 3 → (∀ f i b, f < p → b < d.esize → d.esize * i + b < part →
        out[(i * p + f) * d.esize + b]? = src[f * part + d.esize * i + b]?) ∧
      (d.srcWrap = 0 → spread (sidePieces d true) = lie d.src d.pstride)) ∧
    (d.mode = 4 → (∀ f i b, f < p → b < d.esize → d.esize * i + b < part →
        out[f * part + d.esize * i + b]? = src[(i * p + f) * d.esize + b]?) ∧
      (d.dstWrap = 0 → spread (sidePieces d false) = lie d.dst d.pstride))

/-- R318, R319, R321 to R324: a DMA command hands its descriptors to an engine, which starts each in acceptance order, moves its
data and ends it; a descriptor of a core leaves with its ring record.
Completes: dma, dmaDescriptorStart, dmaDescriptorComplete, dmaRingRecord. -/
def Obligations.DmaEngines : Prop :=
  (∀ (s : State) (q n sl cl : Nat) (k : CmdRec), s.cmd q n = some k → k.opcode = 0x02 → k.phase = .started →
    s.ctxSail (s.queueCtx q) = some sl →
    let base := bytesOf k.raw 8 15
    let count := bytesOf k.raw 16 19
    let e := 4 * cl + bytesOf k.raw 21 21
    ((s.sailClusters sl)[bytesOf k.raw 20 20]? = none → ∃ u, exec (.dma q n) s = .next u ∧ completed s u q n .malformed) ∧
    ((s.sailClusters sl)[bytesOf k.raw 20 20]? = some cl →
      (count = 0 ∨ 256 < count ∨ 3 < bytesOf k.raw 21 21 → ∃ u, exec (.dma q n) s = .next u ∧ completed s u q n .malformed) ∧
      (0 < count → count ≤ 256 → bytesOf k.raw 21 21 ≤ 3 →
        let t := startXlat s q n
        serve t (useOfCmd t q n) base (64 * count) .read = (t, useOfCmd t q n, false) →
        (∀ st va, vread t (useOfCmd t q n) base (64 * count) = .bad st va → ∃ u, exec (.dma q n) s = .next u ∧
          completed s u q n st ∧ u.dma = s.dma) ∧
        (∀ l, vread t (useOfCmd t q n) base (64 * count) = .ok l → touchSpan t (useOfCmd t q n) base (64 * count) = t → count = 1 →
          (s.engine e).descs = [] → ∃ u d, exec (.dma q n) s = .next u ∧ (u.engine e).descs = [d] ∧ d.phase = .accepted ∧
            d.from_ = .command q n 0 ∧ d.raw = BitVec.ofNat 512 (leNat l) ∧ d.ctx = s.queueCtx q ∧ u.mem = s.mem ∧
            ∃ x, u.cmd q n = some x ∧ x.phase = .executing ∧ x.parts = 1)))) ∧
  (∀ (s : State) (cl g : Nat), (s.engine (4 * cl + g)).descs.all (fun d => d.phase != .accepted) = true →
    exec (.dmaDescriptorStart cl g) s = .next s) ∧
  (∀ (s : State) (cl g : Nat) (d : DmaDesc),
    let e := 4 * cl + g
    let f := dmaForm d.raw
    let sl := descSail s d
    (s.engine e).descs = [d] → d.phase = .accepted → reservedFrom s 2 e d.ctx = false → (∃ lc a b, d.from_ = .core lc a b) →
    (outOfService s 2 e = true ∨ outOfService s 1 cl = true → exec (.dmaDescriptorStart cl g) s = .next s) ∧
    (outOfService s 2 e = false → outOfService s 1 cl = false →
      let ends := fun (st : Status) => ∃ u, exec (.dmaDescriptorStart cl g) s = .next u ∧ u.mem = s.mem ∧
        (u.engine e).descs = [{ d with phase := .ended st, units := 0 }]
      (dmaFormOk d.raw = false → ends .malformed) ∧
      (dmaFormOk d.raw = true →
        let t := startXlat s d.from_.cmd.1 d.from_.cmd.2
        serveDesc t d.use f = (t, d.use, false) →
        (∀ st va acc, descFault t d.use f = some ((st, va), acc) → ends st) ∧
        (descFault t d.use f = none →
          let judged := sealJudge t d.use (((t.desc sl).map (·.conf)).getD false) f
          (∀ st, judged = some st → ends st) ∧
          (judged = none → (f.sealSrc = true ∨ f.sealDst = true) → (s.memSlot sl).st ≠ .active → ends .abortKeyRevoked) ∧
          (judged = none → f.sealSrc = false ∧ f.sealDst = false ∨ (s.memSlot sl).st = .active → ∃ u,
            exec (.dmaDescriptorStart cl g) s = .next u ∧ u.mem = s.mem ∧
              (u.engine e).descs = [{ d with phase := .running, keyGen := s.memGen sl }]))))) ∧
  (∀ (s : State) (cl g : Nat) (d : DmaDesc),
    let e := 4 * cl + g
    let f := dmaForm d.raw
    let u0 := d.use
    let sl := descSail s d
    (s.engine e).descs = [d] → d.phase = .running → d.bad = none → (∃ lc a b, d.from_ = .core lc a b) → f.sealSrc = false →
    f.sealDst = false → serveDesc s u0 f = (s, u0, false) → s.ryu.tags = [] →
    (∀ p ∈ sidePieces f true, (∃ k r, locate s u0 p.1 .read = .loc k r) ∧ touchSpan s u0 p.1 p.2 = s) →
    (∀ p ∈ sidePieces f false, ∃ k r, locate s u0 p.1 .write = .loc k r) → s.memGen sl = d.keyGen →
      let data := reshuffle f (readSide s u0 d false (sidePieces f true))
      let t := spendSide (spendSide s u0 sl false (sidePieces f true)) u0 sl true (sidePieces f false)
      let w := writeSide u0 false t (sidePieces f false) data
      ∃ u, exec (.dmaDescriptorComplete cl g d.id d.ctx) s = .next u ∧ u.mem = w.1.mem ∧
        (u.engine e).descs = [{ d with phase := .ended (markStatus data), units := w.2 }]) ∧
  (∀ (s : State) (cl g : Nat) (d : DmaDesc) (cons : Nat),
    let e := 4 * cl + g
    let x := s.ctx d.ctx
    let size := 2 ^ x.dmaCqLog2
    let due := ∀ a, (s.engine e).consRead = some a → 1000 ≤ (s.time - a).toNat
    (s.engine e).descs = [d] → (∃ lc a b, d.from_ = .core lc a b) →
    ((∀ st, d.phase ≠ .ended st) → exec (.dmaRingRecord cl g) s = .next s) ∧
    (∀ st, d.phase = .ended st →
      (due → ∃ l, vread s (useNow s d.ctx) (x.dmaCq + 32 * size) 8 = .ok l ∧ leNat l = cons) → (¬ due → cons = x.ringCons) →
      let y := { x with ringCons := cons }
      (size ≤ (2 ^ 64 + x.ringProd - cons) % 2 ^ 64 → ∃ u, exec (.dmaRingRecord cl g) s = .next u ∧ u.mem = s.mem ∧
        (u.engine e).descs = [d] ∧ u.ctx d.ctx = y ∧ (due → (u.engine e).consRead = some s.time)) ∧
      ((2 ^ 64 + x.ringProd - cons) % 2 ^ 64 < size →
        let a := x.dmaCq + 32 * (x.ringProd % size)
        let t := s.setCtx d.ctx y
        spanFault t (useNow s d.ctx) a 32 .write = none → ∃ u, exec (.dmaRingRecord cl g) s = .next u ∧
          (u.engine e).descs = [] ∧ (u.ctx d.ctx).ringProd = x.ringProd + 1 ∧
          u.mem = (vwrite t (useNow s d.ctx) a (ringBytes x cl g d st s.time)).mem)))

/-- R338 to R343, R346: a sequence takes the lowest free slot; a step holds at most 256 × STEPMAX events and tokens; a window gives
each guarantee its credit.
Completes: seqSubmit, batchStepBoundary, reefWindow. -/
def Obligations.BatchesAndGuarantees : Prop :=
  (∀ (s : State) (q n sl : Nat) (k : CmdRec), startedAs s q n 0x27 = some k → s.ctxSail (s.queueCtx q) = some sl →
    let x := s.sail sl
    let hist := bytesOf k.raw 16 19
    let tokens := bytesOf k.raw 20 23
    let bad := x.bEnable = false ∨ x.bCtx.toNat ≠ s.queueCtx q ∨ ((s.desc sl).map (·.seqCount)).getD 0 = 0 ∨ 1048576 < hist ∨
      tokens = 0 ∨ 65535 < tokens ∨ 2 ^ 56 ≤ bytesOf k.raw 8 15
    (bad → ∃ u, exec (.seqSubmit q n) s = .next u ∧ completed s u q n .malformed ∧ (u.sail sl).seqs = x.seqs) ∧
    (¬ bad → freeSeqSlot s sl = none → exec (.seqSubmit q n) s = .next s) ∧
    (∀ slot, ¬ bad → freeSeqSlot s sl = some slot → bytesOf k.raw 32 32 % 2 = 0 → bytesOf k.raw 24 31 = 0 →
      ∃ u y, exec (.seqSubmit q n) s = .next u ∧ (u.sail sl).seqs = x.seqs ++ [y] ∧ y.slot = slot ∧ y.q = q ∧ y.n = n ∧
        y.hist = hist ∧ y.tokens = tokens ∧ y.events = 0 ∧ y.produced = 0 ∧ y.phase = (if hist = 0 then .decode else .prefill) ∧
        ∃ c, u.cmd q n = some c ∧ c.phase = .executing ∧ c.startAt = s.time)) ∧
  (∀ x : Sail, ((formStep x).map (·.count)).sum ≤ 256 * x.stepMax.toNat ∧ ∀ e ∈ formStep x, 0 < e.count ∧
    ∃ y ∈ x.seqs, y.slot = e.slot ∧ (e.chunk = true → y.phase = .prefill ∧ e.start = y.events ∧ e.count ≤ y.left) ∧
      (e.chunk = false → y.phase = .decode ∧ e.start = y.produced ∧ e.count = 1)) ∧
  (∀ (s : State) (sl : Nat), (s.sail sl).step = none →
    ((s.sail sl).seqs = [] → exec (.batchStepBoundary sl) s = .next s) ∧
    (∀ y c l, (s.sail sl).seqs = [y] → y.phase ≠ .fallback → y.deadline = 0 → c = (s.sail sl).bCtx.toNat →
      formStep (s.sail sl) = l → l ≠ [] →
      serve s (useNow s c) (s.sail sl).listBase.toNat 16384 .write = (s, useNow s c, false) →
      (spanFault s (useNow s c) (s.sail sl).listBase.toNat 16384 .write = none → ∃ u, exec (.batchStepBoundary sl) s = .next u ∧
        (u.sail sl).step = some { number := (s.sail sl).stepNo, entries := l, startAt := s.time, status := none } ∧
        (u.sail sl).stepNo = (s.sail sl).stepNo + 1))) ∧
  (∀ (s : State) (rc i : Nat),
    let w := s.time.toNat / 10000
    let key := 110000 + 8192 * rc + i
    (s.unitRig (reefUnit rc i) = none ∨ w ≤ s.tiers.budget.get 0 key → exec (.reefWindow rc i) s = .next s) ∧
    (∀ r, s.unitRig (reefUnit rc i) = some r → s.tiers.budget.get 0 key < w → ∃ u, exec (.reefWindow rc i) s = .next u ∧
      u = { s with tiers := { s.tiers with budget := u.tiers.budget, reef := u.tiers.reef } } ∧ u.tiers.budget.get 0 key = w ∧
      ∀ k e z, r.reef[k]? = some e → z = s.tiers.reef.get ReefState.zero (creditKey s rc i k) →
        u.tiers.reef.get ReefState.zero (creditKey s rc i k) =
        { z with credit := if e.rclass = rc ∧ e.index = i then 1000 * e.rate * rateNow s r rc i / max 1 (rateRef r rc i) else z.credit }))

/-! ### Keys, attestation, the life cycle, the debug port -/

/-- R292, R361 to R367, R374: the mailbox protocols, reports and their leaves, counters of a confidential sail.
Completes: doeDiscovery, confCounterWindow, getReport, getCert, bottomTreeBuild. -/
def Obligations.Attestation : Prop :=
  ∀ (s : State) (fn : HostFn),
    (∃ r : Nat → DoeResponse, (∀ i, exec (.doeDiscovery fn i) s = .next { s with
        sec := { s.sec with doe := s.sec.doe.filter (fun p => p.1 != fn) ++ [(fn, r i)] } } ∧ (r i).status = 0) ∧
      (r 0).body = leBytes 4 (1 + 2 ^ 24) ∧ (fn.isPf = true → (r 1).body = leBytes 4 (Config.vendorId.toNat + 2 ^ 16 + 2 ^ 25) ∧
        (r 2).body = leBytes 4 (Config.vendorId.toNat + 2 ^ 17))) ∧
    (∀ sl nonce t, attestSail s fn sl = some t →
      (s.rst.fwRun = false → exec (.getReport fn sl nonce) s = .next s ∧ exec (.getCert fn) s = .next s) ∧
      (s.rst.fwRun = true →
        (s.sec.lc = .analysis ∨ s.sec.lc = .scrapped →
          exec (.getReport fn sl nonce) s = .next (answerDoe s fn Status.faultPermission.code (leBytes 2 0))) ∧
        (s.sec.lc ≠ .analysis → s.sec.lc ≠ .scrapped → s.desc t = none → ¬ (viaPf fn = true ∧ t = 0xFFFF) →
          exec (.getReport fn sl nonce) s = .next (answerDoe s fn Status.faultPermission.code (leBytes 2 0))) ∧
        (s.sec.lc ≠ .analysis → s.sec.lc ≠ .scrapped → (s.desc t).isSome = true ∨ (viaPf fn = true ∧ t = 0xFFFF) →
          let who := if viaPf fn && t == 0xFFFF then none else some t
          (s.sec.leafDisabled = true →
            exec (.getReport fn sl nonce) s = .next (answerDoe s fn Status.abortKeyRevoked.code (leBytes 2 0))) ∧
          (s.sec.leafDisabled = false → s.sec.reportWaits = [] → maySign s = false → exec (.getReport fn sl nonce) s =
            .next { s with sec := { s.sec with reportWaits := [{ fn := fn, sail := who, nonce := nonce }] } }) ∧
          (s.sec.leafDisabled = false → s.sec.reportWaits = [] → maySign s = true → ∃ u body key,
            exec (.getReport fn sl nonce) s = .next u ∧ body = reportBody s who nonce ∧ u.sec.reportWaits = [] ∧
            (fn, DoeResponse.mk Status.done.code
              (leBytes 2 0 ++ body ++ fitTo 5716 (Config.hssSign s.sec.leafNext.toNat body) ++ key)) ∈ u.sec.doe ∧
            u.sec.leafNext = satInc s.sec.leafNext ∧ (s.sec.leafNext ≠ BitVec.allOnes 40 → u.sec.leafNext.toNat ≤ u.sec.leafResv.toNat) ∧
            (s.sec.leafNext = BitVec.allOnes 40 → u.sec.leafDisabled = true) ∧ u = { s with sec := u.sec })))) ∧
    (∀ t, attestSail s fn 0 = some t → s.rst.fwRun = true →
      exec (.getCert fn) s = .next (answerDoe s fn Status.done.code (leBytes 2 0 ++ Config.deviceCert s.sec.unitId))) ∧
    (s.rst.fwRun = false → exec .bottomTreeBuild s = .next s) ∧
    (s.rst.fwRun = true → ∃ u, exec .bottomTreeBuild s = .next u ∧ u = { s with sec := u.sec } ∧
      (s.sec.reportWaits = [] → u.sec = { s.sec with treeReady := true }) ∧
      (∀ w, s.sec.reportWaits = [w] → s.sec.lc ≠ .analysis → s.sec.lc ≠ .scrapped → (∀ i, w.sail = some i → (s.desc i).isSome = true) →
        s.sec.leafDisabled = false → maySign { s with sec := { s.sec with treeReady := true } } = true →
        u.sec.reportWaits = [] ∧ u.sec.leafNext = satInc s.sec.leafNext)) ∧
    (∀ sl d, s.desc sl = some d →
      let w := s.time.toNat / 1000000
      (d.conf = false ∨ w ≤ s.sec.confWindow.get 0 sl → exec (.confCounterWindow sl) s = .next s) ∧
      (d.conf = true → s.sec.confWindow.get 0 sl < w → ∃ u, exec (.confCounterWindow sl) s = .next u ∧
        u.sail sl = { s.sail sl with energyPf := (s.sail sl).energyHeld, coreTimePf := (s.sail sl).coreTimeHeld } ∧
        u.sec = { s.sec with confWindow := s.sec.confWindow.set 0 sl w } ∧ u.mem = s.mem))

/-- R364 to R366, R370 to R372: keys are delivered to a sail's slots after the checks in their order, revoked by the kill code that
came with them, and zeroized 2 ms after their slot began to drain.
Completes: keyDeliver, keyRevoke, drainBoundExpiry. -/
def Obligations.KeySlots : Prop :=
  (∀ (s : State) (fn : HostFn) (l1 l2 : List Byte) (sl : Nat),
    let l := l1 ++ l2
    attestSail s fn (leNat ((l.drop 2).take 2)) = some sl →
    (s.rst.fwRun = false → exec (.keyDeliver fn l1 l2) s = .next s) ∧
    (s.rst.fwRun = true →
      let fail := fun (st : Status) => Host.Outcome.next (answerDoe s fn st.code (leBytes 2 0))
      (deliverFormOk fn l = false → exec (.keyDeliver fn l1 l2) s = fail .malformed) ∧
      (deliverFormOk fn l = true → s.desc sl = none → exec (.keyDeliver fn l1 l2) s = fail .faultPermission) ∧
      (∀ d st, deliverFormOk fn l = true → s.desc sl = some d → deliverJudge s fn sl d l (openPackage s sl l).isSome = some st →
        exec (.keyDeliver fn l1 l2) s = fail st) ∧
      (∀ d p, deliverFormOk fn l = true → s.desc sl = some d → deliverJudge s fn sl d l true = none → openPackage s sl l = some p →
        ∃ u, exec (.keyDeliver fn l1 l2) s = .next u ∧ u = { s with sec := u.sec } ∧
          (byteAt l 1 % 2 = 1 → d.linkKey ≠ d.memKey → (u.slot d.memKey).st = .active ∧ (u.slot d.memKey).dmaKey = p.dmaKey ∧
            (u.slot d.memKey).killCode = p.killCode ∧ (u.slot d.memKey).dmaCount = 0 ∧
            (u.slot d.memKey).gen = (s.slot d.memKey).gen) ∧
          (byteAt l 1 / 2 % 2 = 1 → (u.slot d.linkKey).st = .active ∧ (u.slot d.linkKey).linkKey = p.linkKey ∧
            (u.slot d.linkKey).linkCount = 0 ∧ (u.slot d.linkKey).gen =
              if (s.slot d.linkKey).st = .active then nextGen (s.slot d.linkKey).gen else (s.slot d.linkKey).gen) ∧
          ∃ b, (fn, ({ status := Status.done.code, body := b } : DoeResponse)) ∈ u.sec.doe))) ∧
  (∀ (s : State) (fn : HostFn) (sl t : Nat) (code : BitVec 256) (d : SailDesc), attestSail s fn sl = some t → s.rst.fwRun = true →
    s.desc t = some d →
    let m := s.slot d.memKey
    (viaPf fn = true → d.conf = true → exec (.keyRevoke fn sl code) s =
      .next (answerDoe s fn Status.faultPermission.code (leBytes 2 0))) ∧
    (viaPf fn = false ∨ d.conf = false →
      ((m.st ≠ .active ∧ m.st ≠ .draining) ∨ m.killCode ≠ code → exec (.keyRevoke fn sl code) s = .next
        (answerDoe (s.setSlot d.memKey { m with badKill := satInc m.badKill }) fn Status.faultPermission.code (leBytes 2 0))) ∧
      (m.st = .draining → m.killCode = code → exec (.keyRevoke fn sl code) s = .next (answerDoe s fn Status.done.code (leBytes 2 0))) ∧
      (m.st = .active → m.killCode = code → s.queues = [] → (∀ p ∈ s.sails, p.2.step = none) → s.ryu.exports = [] → s.ryu.ingest = [] →
        s.ryu.outbox = [] → s.ryu.ports = [] → ∃ u, exec (.keyRevoke fn sl code) s = .next u ∧ (u.slot d.memKey).st = .draining ∧
          (u.slot d.memKey).gen = nextGen m.gen ∧ (u.sail t).revoked = true ∧ Tbl.look u.sec.leaseKeys t = none ∧
          (fn, ({ status := Status.done.code, body := leBytes 2 0 } : DoeResponse)) ∈ u.sec.doe))) ∧
  (∀ (s : State) (sl : Nat), (drainedSlots s sl = [] → exec (.drainBoundExpiry sl) s = .next s) ∧
    (drainedSlots s sl ≠ [] → ∃ u, exec (.drainBoundExpiry sl) s = .next u ∧
      ∀ k ∈ drainedSlots s sl, (u.slot k).st = .empty ∧ (u.slot k).memKey = none ∧ (u.slot k).gen = (s.slot k).gen))

/-- R376, R378, R381 to R383: the life-cycle mailbox beside transitions, and what the debug port shifts and opens in each state.
Completes: opkeyEnroll, opkeyRotate, userRead, userWrite, bypass, idcode, samplePreload, extest, dbgChallenge, dbgResponse, dbgAccess. -/
def Obligations.LifeCycleAndDebug : Prop :=
  (∀ (s : State) (p : Nat),
    let said := fun (v : State) (st : Status) => Host.Outcome.next { v with sec := { v.sec with lcsStatus := st.code } }
    let ops := fun (fn : HostFn) (b : Nat) =>
      [(Instr.opkeyEnroll fn, 60), (.opkeyRotate fn b, 128), (.userRead fn b, 4096), (.userWrite fn b, 4096), (.transition fn b, 128)]
    let reach := fun (n : Nat) => hostUp s p = true ∧ busOk (lcsAddr s p) n = true
    (∀ fn b, fn.isPf = false → ∀ x ∈ ops fn b, exec x.1 s = .next s) ∧
    (s.sec.lcsBusy = true → ∀ b, ∀ x ∈ ops (.pf p) b, exec x.1 s = .next { s with sec := { s.sec with lcsIgnored := true } }) ∧
    (s.sec.lcsBusy = false → ∀ b, ∀ x ∈ ops (.pf p) b, ¬ reach x.2 → exec x.1 s = said s .faultTranslation) ∧
    (s.sec.lcsBusy = false → p < 2 → reach 60 →
      (s.sec.lc ≠ .integrator ∨ s.sec.opKey.isSome = true → exec (.opkeyEnroll (.pf p)) s = said s .faultPermission) ∧
      (s.sec.lc = .integrator → s.sec.opKey = none → exec (.opkeyEnroll (.pf p)) s =
        said { s with sec := { s.sec with opKey := some (readBytes s (lcsKey s p) 60) } } .done)) ∧
    (s.sec.lcsBusy = false → p < 2 → reach 128 →
      let r := lcsRequest s p
      let may := r.fits s = true ∧ r.nat 7 7 = s.sec.lc.code ∧ r.operator = true ∧ s.rig.active = none ∧
        ∃ k, s.sec.opKey = some k ∧ hssCheck k (r.bytes.take 128) (r.bytes.drop 128) = true
      ∀ b0, (s.sec.lc ≠ .fielded → exec (.opkeyRotate (.pf p) b0) s = said s .faultPermission) ∧
      (s.sec.lc = .fielded → r.formOk true = false → exec (.opkeyRotate (.pf p) b0) s = said s .malformed) ∧
      (s.sec.lc = .fielded → r.formOk true = true → ¬ may → exec (.opkeyRotate (.pf p) b0) s = said s .faultPermission) ∧
      (s.sec.lc = .fielded → r.formOk true = true → may → exec (.opkeyRotate (.pf p) b0) s =
        said { s with sec := { s.sec with opKey := some r.newKey, lcCounter := s.sec.lcCounter + 1 } } .done)) ∧
    (s.sec.lcsBusy = false → p < 2 → reach 4096 →
      (∀ b, s.sec.lc = .scrapped → exec (.userRead (.pf p) b) s = said s .faultPermission ∧
        exec (.userWrite (.pf p) b) s = said s .faultPermission) ∧
      (∀ b, s.sec.lc ≠ .scrapped → ∃ u v, exec (.userRead (.pf p) b) s = .next u ∧ exec (.userWrite (.pf p) b) s = .next v ∧
        u.sec = { s.sec with lcsStatus := Status.done.code } ∧ v.sec.lcsStatus = Status.done.code ∧ v.mem = s.mem ∧
        (∀ i, i < 4096 → readB u (lcsKey s p + i) = s.sec.userArea.get 0 (4096 * (b % 1024) + i) ∧
          v.sec.userArea.get 0 (4096 * (b % 1024) + i) = readB s (lcsKey s p + i)) ∧
        (∀ a, a < lcsKey s p ∨ lcsKey s p + 4096 ≤ a → readB u a = readB s a) ∧
        ∀ j, j < 4096 * (b % 1024) ∨ 4096 * (b % 1024) + 4096 ≤ j → v.sec.userArea.get 0 j = s.sec.userArea.get 0 j))) ∧
  (∀ s : State,
    let shifted := fun (l : List Bool) => Host.Outcome.next { s with sec := { s.sec with jtag := l } }
    exec .bypass s = shifted [false] ∧
    exec .idcode s = shifted ((List.range 16).map (fun i => Nat.testBit 0x0064 i) ++ (List.range 8).map (fun i => Nat.testBit 0xB1 i)) ∧
    (s.sec.lc = .scrapped → ∀ l n g a, ∀ x ∈ [Instr.samplePreload l, .extest, .dbgChallenge, .dbgResponse n g, .dbgAccess a],
      exec x s = shifted [false]) ∧
    (s.sec.lc ≠ .scrapped →
      (∀ l, ∃ u, exec (.samplePreload l) s = .next u ∧ u.sec.boundary = l ∧ u.sec.jtag.length = l.length) ∧
      (∃ u, exec .extest s = .next u ∧ u.sec.boundary = s.sec.boundary ∧ u.sec.jtag.length = s.sec.boundary.length) ∧
      (∃ u, exec .dbgChallenge s = .next u ∧ u.sec.challenge = some (Config.randomKey s.free) ∧ u.sec.jtag.length = 256) ∧
      (∀ n g,
        let signed := ∃ c, s.sec.challenge = some c ∧ hssCheck s.sec.romKeys.debug (dbgMessage s c n) g = true
        ∃ u, exec (.dbgResponse n g) s = .next u ∧ u.sec.challenge = none ∧
        (dbgReach s < n ∨ (s.sec.lc ≠ .maker ∧ ¬ signed) → u.sec.dbgLevel = s.sec.dbgLevel ∧
          u.sec.dbgOpen = s.sec.dbgOpen ∧ u.sec.dbgSince = s.sec.dbgSince) ∧
        (n ≤ dbgReach s → s.sec.lc = .maker ∨ signed → u.sec.dbgLevel = n ∧
          u.sec.dbgOpen = decide (0 < n) ∧ u.sec.dbgSince = (s.sec.dbgSince || decide (0 < n)))) ∧
      (∀ p d, s.sec.lc = .fielded → (p, d) ∈ (activeRig s).sails → d.conf = true → dbgReach s = 0) ∧
      exec (.dbgAccess .boundary) s = shifted s.sec.boundary ∧ exec (.dbgAccess .keyStore) s = .next s ∧
      (∀ m w, dbgLevelNow s = 0 → exec (.dbgAccess (.mastheadMem m w)) s = .next s) ∧
      (∀ m (w : Byte), 1 ≤ dbgLevelNow s → exec (.dbgAccess (.mastheadMem m none)) s =
          shifted ((List.range 8).map (fun i => (s.sec.mastheadMem.get 0 m).toNat.testBit i)) ∧
        ∃ u, exec (.dbgAccess (.mastheadMem m (some w))) s = .next u ∧ u.sec.mastheadMem.get 0 m = w ∧ u.mem = s.mem) ∧
      (∀ m w, dbgLevelNow s < 2 ∨ (dbgLevelNow s = 2 ∧ addrOwned s m = true) → exec (.dbgAccess (.mem m w)) s = .next s) ∧
      (∀ m k (w : Byte), 3 ≤ dbgLevelNow s ∨ (dbgLevelNow s = 2 ∧ addrOwned s m = false) → memKey s m = some k →
        exec (.dbgAccess (.mem m none)) s = shifted ((List.range 8).map (fun i => (readB s k).toNat.testBit i)) ∧
        ∃ u, exec (.dbgAccess (.mem m (some w))) s = .next u ∧ readB u k = w ∧ ∀ a, a ≠ k → readB u a = readB s a)))

/-! ### Telltales, the ladder, samples -/

/-- R414 to R419: the window of a telltale that has ended is judged once; an object busy throughout it with fewer events than its
threshold, whose wait nothing exempts, has hung, a stalled host apart; a hung port is trained again; a beat counts while firmware runs
and does not hang. -/
def Sys2Proof.Claims.Telltales : Prop :=
  ∀ (s : State),
    (∀ kind i,
      let t := s.tell kind i
      let judged : Telltale := { t with closed := none }
      let hung : Telltale := { judged with hung := true, hangs := satInc t.hangs }
      (t.closed = none → exec (.telltaleWindowClose kind i) s = .next s) ∧
      (∀ c, t.closed = some c → c.busy = false ∨ c.few = false ∨ c.exempt = true → ∃ u, exec (.telltaleWindowClose kind i) s = .next u ∧
        u.tell kind i = judged ∧ u = { s with ttl := { s.ttl with tells := u.ttl.tells } }) ∧
      (∀ c, t.closed = some c → c.busy = true → c.few = true → c.exempt = false →
        (c.stalled = true → ∃ u, exec (.telltaleWindowClose kind i) s = .next u ∧ u.tell kind i = judged ∧
          u.ttl.written = s.ttl.written + 1 ∧ u = { s with ttl := u.ttl }) ∧
        (c.stalled = false → s.ttl.replays = [] →
          (∃ x ∈ s.ttl.steps, x.ended = none ∧ inReach s kind i x.reach = true) → ∃ u, exec (.telltaleWindowClose kind i) s = .next u ∧
            u.tell kind i = hung ∧ u.ttl.written = s.ttl.written + 1 ∧ u = { s with ttl := u.ttl }) ∧
        (c.stalled = false → s.ttl.replays = [] → s.ttl.steps = [] →
          (kind = 7 → (s.port i).fenced = false → ∃ u, exec (.telltaleWindowClose kind i) s = .next u ∧
            u.tell kind i = hung ∧ u.ttl.written = s.ttl.written + 1 ∧ u.port i = { s.port i with trained := false, up := false }) ∧
          (kind = 8 → (s.cxl i).fenced = false → ∃ u, exec (.telltaleWindowClose kind i) s = .next u ∧
            u.tell kind i = hung ∧ u.ttl.written = s.ttl.written + 1 ∧ (u.cxl i).linkUp = false ∧ (u.cxl i).up = false)))) ∧
    (∀ kind i, ∃ u, turnWindow s kind i = u ∧ u = { s with ttl := { s.ttl with tells := u.ttl.tells } } ∧
      let t := s.tell kind i
      let exempts := kind = 6 ∧ queueExempt s i = true
      ∃ c, (u.tell kind i).closed = some c ∧ (u.tell kind i).marks = totalProgress s kind i ∧
        ((u.tell kind i).busyAtStart = true ↔ objectBusy s kind i = true) ∧ ((u.tell kind i).exempt = true ↔ exempts) ∧
        (c.busy = true ↔ t.busyAtStart = true ∧ objectBusy s kind i = true) ∧
        (c.few = true ↔ totalProgress s kind i - t.marks < (tellWindow s kind i).2) ∧ (c.exempt = true ↔ t.exempt = true ∨ exempts) ∧
        (c.stalled = true ↔ kind = 6 ∧ hostStalled s i = true)) ∧
    (mastheadWorks s = true → exec .fwBeat s = .next { s with ttl := { s.ttl with fwBeat := s.ttl.fwBeat + 1 } }) ∧
    (mastheadWorks s = false → exec .fwBeat s = .next s)

/-- R420 to R424: a step that has not ended within its bound is followed by the next one; a replay clears a context whose
commands have completed; what sampling could not write within 10 ms is counted as dropped. -/
def Sys2Proof.Claims.LadderSteps : Prop :=
  ∀ s : State,
    (∀ id, s.ttl.steps.find? (fun t => t.id == id && t.ended.isNone) = none → exec (.stepBoundExpiry id) s = .next s) ∧
    (∀ id t, s.ttl.steps.find? (fun t => t.id == id && t.ended.isNone) = some t →
      ((s.time - t.started).toNat < stepBound t.code ∨ boundPaused s t = true → exec (.stepBoundExpiry id) s = .next s) ∧
      (stepBound t.code ≤ (s.time - t.started).toNat → boundPaused s t = false → s.pwr.fatal = false → t.reach = .device →
        (t.code = 6 → ∃ u, exec (.stepBoundExpiry id) s = .next u ∧ u.pwr.fatal = true ∧ u.rst.ready = false ∧
          u.pwr.alertCause = s.pwr.alertCause ||| 32 ∧ u.ttl.written = s.ttl.written + 1 ∧ u.rig = s.rig) ∧
        (t.code = 5 → mastheadWorks s = false → ∃ u, exec (.stepBoundExpiry id) s = .next u ∧ u.pwr.powerCycle = true ∧
          u.pwr.alertCause = s.pwr.alertCause ||| 16 ∧ u.ttl.written = s.ttl.written + 1 ∧ u.rig = s.rig ∧
          ∃ x ∈ u.ttl.steps, x.code = 6 ∧ x.ended = none ∧ x.started = s.time) ∧
        (t.code = 4 → mastheadWorks s = false → ∃ u, exec (.stepBoundExpiry id) s = .next u ∧ StartsAgain s u))) ∧
    (∀ ctx v, s.ttl.replays.find? (fun r => r.cur == some ctx) = none → exec (.suspectReplayEnd ctx v) s = .next s) ∧
    (∀ ctx r, s.ttl.replays.find? (fun r => r.cur == some ctx) = some r →
      let done := fun (w : Nat × Nat) => ∀ c, s.cmd w.1 w.2 = some c → c.isCompleted = true
      (r.hung = false → ∀ v, v ≠ .completed → exec (.suspectReplayEnd ctx v) s = .next s) ∧
      ((∃ w ∈ r.held, s.queueCtx w.1 = ctx ∧ ¬ done w) → exec (.suspectReplayEnd ctx .completed) s = .next s) ∧
      ((∀ w ∈ r.held, s.queueCtx w.1 = ctx → done w) → r.suspects.filter (fun c => c != ctx) = [] →
        blockSail s r.kind r.index = none → ∃ u, exec (.suspectReplayEnd ctx .completed) s = .next u ∧
          u.ttl.replays = s.ttl.replays.filter (fun x => x.stepId != r.stepId) ∧
          u.ttl.steps = s.ttl.steps.map (fun t => if t.id = r.stepId then { t with ended := some s.time } else t) ∧
          u.ttl.written = s.ttl.written + (if r.guilty = true then 0 else 1) ∧ u = { s with ttl := u.ttl })) ∧
    (s.ttl.sampling = none → exec .samplingTimeout s = .next s) ∧
    (∀ t, s.ttl.sampling = some t →
      ((s.time - t).toNat < 10000000 → exec .samplingTimeout s = .next s) ∧
      (10000000 ≤ (s.time - t).toNat → exec .samplingTimeout s = .next { s with ttl := { s.ttl with
        sampling := none, held := 0, sampleDrop := satAdd s.ttl.sampleDrop s.ttl.held } }))

/-- Telltales, the steps of the ladder, samples.
Completes: telltaleWindowClose, fwBeat, stepBoundExpiry, suspectReplayEnd, samplingTimeout. -/
def Obligations.TelltalesAndLadder : Prop := Claims.Telltales ∧ Claims.LadderSteps

/-! ### Power, clocks and heat -/

/-- R440, R441, R443: what a trim interval does to the registers of PWR; the effective cap lies between 600 W and 1,800 W; where not
even the least gates fit, every cluster has one gate. -/
def Sys2Proof.Claims.TrimIntervals : Prop :=
  ∀ (m : TrimMeasure) (s : State),
    let off := s.time.toNat % 100000 ≠ 0 ∨ s.pwr.trimAt = some s.time ∨ s.rst.fwRun = false
    (off → exec (.trimInterval m) s = .next s) ∧
    (¬ off → ∃ u, exec (.trimInterval m) s = .next u ∧ u = { s with pwr := u.pwr } ∧ u.pwr.trimAt = some s.time ∧
      u.pwr.effective = max 600 (min (max 600 (min 1800 s.pwr.capHost.toNat)) (max 600 (min 1800 s.pwr.capTray.toNat)) -
        50 * u.pwr.thermCut) ∧ 600 ≤ u.pwr.effective ∧ u.pwr.effective ≤ 1800 ∧ u.pwr.fixed = BitVec.ofNat 16 m.fixed ∧
      u.pwr.clamped = false ∧ u.pwr.capHost = s.pwr.capHost ∧ u.pwr.capTray = s.pwr.capTray ∧ u.pwr.energy = s.pwr.energy ∧
      (100 * u.pwr.effective < 10 * m.fixed → u.pwr.capUnmet = true ∧ u.pwr.alertCause = s.pwr.alertCause ||| 8 ∧
        ∀ sl d, (activeRig s).sails = [(sl, d)] → ∀ c ∈ s.sailClusters sl, (u.pwr.clk c).gate = 1))

/-- R6, R434, R436, R440: samples of the input power, the fast clamp, droop flags and the switches of points that they hold. -/
def Sys2Proof.Claims.PowerAndPoints : Prop :=
  ∀ s : State,
    (∀ dw cv,
      let off := s.time.toNat % 1000 ≠ 0 ∨ s.pwr.sampleAt = some s.time ∨ s.pwr.pwrGood = false
      let l := (dw :: s.pwr.samples).take 10
      (off → exec (.powerSample dw cv) s = .next s) ∧
      (¬ off → ∃ u, exec (.powerSample dw cv) s = .next u ∧ u = { s with pwr := u.pwr } ∧ u.pwr.samples = l ∧ u.pwr.inputVolt = cv ∧
        u.pwr.energy = s.pwr.energy + BitVec.ofNat 64 ((s.pwr.energySub + dw) / 10000) ∧
        u.pwr.energySub = (s.pwr.energySub + dw) % 10000 ∧
        (s.time.toNat % 1000000 = 0 → s.pwr.windowCount ≠ 0 → u.pwr.mean = BitVec.ofNat 16 (s.pwr.windowSum / s.pwr.windowCount) ∧
          u.pwr.windowSum = dw ∧ u.pwr.windowCount = 1) ∧
        (s.time.toNat % 1000000 ≠ 0 → u.pwr.mean = s.pwr.mean ∧ u.pwr.windowSum = s.pwr.windowSum + dw ∧
          u.pwr.windowCount = s.pwr.windowCount + 1) ∧
        (l.length = 10 → 110 * s.pwr.effective < l.sum → s.pwr.clamped = false → u.pwr.fastClamp = true ∧ u.pwr.clamped = true ∧
          ∀ c, c < 64 → u.pwr.clk c = { s.pwr.clk c with gate := BitVec.ofNat 5 (max 1 ((s.pwr.clk c).gate.toNat / 2)) }) ∧
        (l.length < 10 ∨ l.sum ≤ 110 * s.pwr.effective ∨ s.pwr.clamped = true → u.pwr.fastClamp = s.pwr.fastClamp ∧
          ∀ c, u.pwr.clk c = s.pwr.clk c))) ∧
    (∀ isl,
      (droops s.pwr isl = true → exec (.droopFlagSet isl) s = .next s) ∧
      (droops s.pwr isl = false → exec (.droopFlagClear isl) s = .next s ∧
        ∃ u, exec (.droopFlagSet isl) s = .next u ∧ u.pwr.droop = s.pwr.droop ++ [(isl, s.time)] ∧ u = { s with pwr := u.pwr } ∧
          ∀ c k, isl = .core c k → u.pwr.clk c = { s.pwr.clk c with clearAt := none }) ∧
      (∀ t, s.pwr.droop = [(isl, t)] → ∃ u, exec (.droopFlagClear isl) s = .next u ∧ u.pwr.droop = [] ∧ u = { s with pwr := u.pwr } ∧
        ∀ c k, isl = .core c k → (u.pwr.clk c).clearAt = some s.time ∧ (u.pwr.clk c).stretch = (s.pwr.clk c).stretch +
          BitVec.ofNat 64 ((s.time - t).toNat * (2000 - 200 * (s.pwr.clk c).point.toNat) / 1500))) ∧
    (∀ c,
      let k := s.pwr.clk c
      let due := k.held = true ∨ k.point.toNat ≤ k.target.toNat ∨ Config.pointMv k.target.toNat ≤ railMv k s.time
      (k.target = k.point ∨ ¬ due → exec (.pointSwitch c) s = .next s) ∧
      (k.target ≠ k.point → due →
        (clusterDroops s.pwr c = true → ∃ u, exec (.pointSwitch c) s = .next u ∧ u = { s with pwr := u.pwr } ∧
          u.pwr.clk c = { k with held := true, ramping := false } ∧ ∀ d, d ≠ c → u.pwr.clk d = s.pwr.clk d) ∧
        (clusterDroops s.pwr c = false → k.held = true →
          (∃ t, k.clearAt = some t ∧ (s.time - t).toNat * (2000 - 200 * k.point.toNat) < 256000) → exec (.pointSwitch c) s = .next s) ∧
        (clusterDroops s.pwr c = false → (k.held = true → ∃ t, k.clearAt = some t ∧
            256000 ≤ (s.time - t).toNat * (2000 - 200 * k.point.toNat)) →
          ∃ u, exec (.pointSwitch c) s = .next u ∧ u = { s with pwr := u.pwr } ∧
            u.pwr.clk c = { k with
              point := k.target, held := false, ramping := false
              ramp := some { from_ := railMv k s.time, goal := Config.pointMv k.target.toNat, since := s.time } } ∧
            ∀ d, d ≠ c → u.pwr.clk d = s.pwr.clk d)))

/-- The trim controller, the power stage, points.
Completes: trimInterval, powerSample, droopFlagSet, droopFlagClear, pointSwitch. -/
def Obligations.PowerControl : Prop := Claims.TrimIntervals ∧ Claims.PowerAndPoints

/-- R137, R177, R445, R448, R449: a sensor's reading, its maximum and its throttle state, the refresh of the channels under it; energy
is charged to commands, contexts and sails.
Completes: thermalRead, energyAttribution. -/
def Obligations.HeatAndEnergy : Prop :=
  ∀ s : State,
    (∀ k t, 156 ≤ k → exec (.thermalRead [(k, t)]) s = .next s) ∧
    (∀ (k : Nat) (t : Int), k < 156 →
      let limit : Int := if k < 64 then 10000 else if k < 144 then 9500 else if k < 152 then 10000 else 11500
      ∃ u, exec (.thermalRead [(k, t)]) s = .next u ∧
        (u.pwr.thermOf k).temp = t ∧ (u.pwr.thermOf k).throttle = decide (limit ≤ t) ∧
        (Tbl.look s.pwr.therm k = none → (u.pwr.thermOf k).max = t) ∧
        (Tbl.look s.pwr.therm k ≠ none → (u.pwr.thermOf k).max = max (s.pwr.thermOf k).max t) ∧
        (limit ≤ t → (u.pwr.thermOf k).hot = true ∧ u.pwr.thermThrottle = true ∧ u.pwr.alertCause = s.pwr.alertCause ||| 4) ∧
        (t < limit → u.pwr.thermThrottle = s.pwr.thermThrottle ∧ u.pwr.alertCause = s.pwr.alertCause) ∧
        (limit - 300 < t → t < limit → (u.pwr.thermOf k).hot = (s.pwr.thermOf k).hot) ∧
        (t ≤ limit - 300 → (u.pwr.thermOf k).hot = false) ∧
        (∀ j, j ≠ k → u.pwr.thermOf j = s.pwr.thermOf j) ∧
        (∀ j, 96 ≤ k → k < 128 → j < 4 → (u.tiers.chan.get ChanRate.reset (4 * (k - 96) + j)).hot = decide (8500 ≤ t)) ∧
        (∀ j, 128 ≤ k → k < 144 → j < 4 → (u.tiers.gchan.get ChanRate.reset (4 * (k - 128) + j)).hot = decide (8500 ≤ t)) ∧
        (k < 96 ∨ 144 ≤ k → u.tiers = s.tiers)) ∧
    (exec (.energyAttribution []) s = .next s) ∧
    (∀ q n nj k sl, s.cmd q n = some k → s.ctxSail (s.queueCtx q) = some sl → ∃ u,
      exec (.energyAttribution [.command q n nj]) s = .next u ∧ u = { s with queues := u.queues, ctxs := u.ctxs, sails := u.sails } ∧
      u.cmd q n = some (if k.isCompleted = true then k else { k with energyNj := k.energyNj + nj }) ∧
      u.ctx (s.queueCtx q) = { s.ctx (s.queueCtx q) with energyNj := (s.ctx (s.queueCtx q)).energyNj + nj } ∧
      u.sail sl = { s.sail sl with energyNj := (s.sail sl).energyNj + nj }) ∧
    (∀ c nj sl, s.ctxSail c = some sl → ∃ u,
      exec (.energyAttribution [.context c nj]) s = .next u ∧ u = { s with ctxs := u.ctxs, sails := u.sails } ∧
      u.ctx c = { s.ctx c with energyNj := (s.ctx c).energyNj + nj } ∧
      u.sail sl = { s.sail sl with energyNj := (s.sail sl).energyNj + nj }) ∧
    (∀ sl nj, (s.desc sl).isSome = true → ∃ u, exec (.energyAttribution [.sail sl nj]) s = .next u ∧ u = { s with sails := u.sails } ∧
      u.sail sl = { s.sail sl with energyNj := (s.sail sl).energyNj + nj } ∧ ∀ j, j ≠ sl → u.sail j = s.sail j) ∧
    (∀ nj sl, activeSails s = [sl] → s.sailClusters sl ≠ [] → ∃ u, exec (.energyAttribution [.fixed nj]) s = .next u ∧
      u.sail sl = { s.sail sl with energyNj := (s.sail sl).energyNj + nj })

/-! ### The sideband, the cages, registers -/

/-- R457 to R460: a transaction is answered while the target runs and its packet error check holds; what each read answers and each
write sets; sideband faults are recorded. -/
def Sys2Proof.Claims.Sideband : Prop :=
  ∀ s : State,
    let said := fun (v : State) (l : List Byte) => ({ v with pwr := { v.pwr with smbusAck := true, smbusOut := l } } : State)
    let reads : List ((Bool → Instr) × List Byte) := [
      (.alertCause, leBytes 2 s.pwr.alertCause.toNat), (fun b => .trayCap b none, leBytes 2 s.pwr.capTray.toNat),
      (.inputPower, leBytes 2 s.pwr.mean.toNat), (.inputVoltage, leBytes 2 s.pwr.inputVolt),
      (.hottest, leBytes 2 (BitVec.ofInt 16 (hottest s.pwr)).toNat), (fun b => .portMode b none, leBytes 1 s.pwr.portMode.toNat),
      (.smbusIdent, identBytes s), (.inputFault, leBytes 2 (inputFaultByte s.pwr))]
    let writes : List (BitVec 16 → Bool → Instr) := [
      fun v b => .alertCauseClear b v, fun v b => .trayCap b (some v), fun v b => .portMode b (some (v.extractLsb' 0 8)),
      fun v b => .shutdown b (v.extractLsb' 0 8), fun v b => .inputFaultClear b v]
    let all : List (Bool → Instr) := .status :: reads.map (·.1)
    (smbusAnswers s = false → ∀ b v, ∀ x ∈ all ++ writes.map (fun f => f v),
      exec (x b) s = .next { s with pwr := { s.pwr with smbusAck := false, smbusOut := [] } }) ∧
    (smbusAnswers s = true →
      (∀ v, ∀ x ∈ all ++ writes.map (fun f => f v), exec (x false) s = .next (said s [])) ∧
      (∀ x ∈ reads, exec (x.1 true) s = .next (said s x.2)) ∧
      exec (.status true) s = .next (said { s with pwr := { s.pwr with alertOff := false } } (leBytes 2 (statusWord s))) ∧
      (∀ v, exec (.alertCauseClear true v) s =
        .next (said { s with pwr := { s.pwr with alertCause := s.pwr.alertCause &&& ~~~ v } } [])) ∧
      (∀ v, ∃ u, exec (.trayCap true (some v)) s = .next u ∧ u = said { s with pwr := { s.pwr with capTray := u.pwr.capTray } } [] ∧
        u.pwr.capTray.toNat = max 600 (min 1800 v.toNat)) ∧
      (∀ v, exec (.portMode true (some v)) s = .next (said { s with pwr := { s.pwr with portMode := v &&& 0x0F } } [])) ∧
      (∀ v, ∃ u, exec (.inputFaultClear true v) s = .next u ∧ u.pwr.reversed = (s.pwr.reversed && !v.getLsbD 0) ∧
        u.pwr.overvolt = (s.pwr.overvolt && !v.getLsbD 1) ∧ u.pwr.brownout = (s.pwr.brownout && !v.getLsbD 2) ∧
        u.pwr.sbShort = (s.pwr.sbShort && !v.getLsbD 3)) ∧
      (∀ v, v ≠ 0xA5 → exec (.shutdown true v) s = .next (said s [])) ∧
      (s.rst.shutdown = false → (activeRig s).sails = [] → s.rig.phase = .idle → ∃ u, exec (.shutdown true 0xA5) s = .next u ∧
        u.rst.shutdown = true ∧ hostUp u 0 = false ∧ hostUp u 1 = false ∧ u.pwr.smbusAck = true)) ∧
    (∀ pin,
      (smbusAnswers s = false → exec (.smbusTimeout pin) s = .next s) ∧
      (smbusAnswers s = true → exec (.smbusTimeout pin) s = .next { s with pwr := { s.pwr with
        sbShort := true, sbPin := BitVec.ofNat 4 (pin - 1), alertCause := s.pwr.alertCause ||| 128, smbusAck := false, smbusOut := [] } }) ∧
      (s.rst.powered = false → exec (.sidebandFault pin) s = .next s) ∧
      (s.rst.powered = true → exec (.sidebandFault pin) s = .next { s with pwr := { s.pwr with
        sbShort := true, sbPin := BitVec.ofNat 4 (pin - 1), alertCause := s.pwr.alertCause ||| 128 } }))

/-- R458: the bits of STATUS. -/
def Sys2Proof.Claims.StatusWord : Prop :=
  ∀ s : State, statusWord s < 256 ∧ (statusWord s).testBit 0 = s.rst.ready ∧ (statusWord s).testBit 1 = s.rst.offReady ∧
    (statusWord s).testBit 2 = s.pwr.thermThrottle ∧ (statusWord s).testBit 3 = s.pwr.capUnmet ∧
    (statusWord s).testBit 4 = s.pwr.powerCycle ∧ (statusWord s).testBit 5 = s.pwr.fatal ∧
    (statusWord s).testBit 6 = (s.pwr.reversed || s.pwr.overvolt || s.pwr.brownout) ∧ (statusWord s).testBit 7 = s.pwr.sbShort

/-- The sideband's commands and its STATUS word.
Completes: status, alertCause, alertCauseClear, trayCap, inputPower, inputVoltage, hottest, portMode, shutdown, smbusIdent, inputFault,
inputFaultClear, smbusTimeout, sidebandFault. -/
def Obligations.SidebandAnswers : Prop := Claims.Sideband ∧ Claims.StatusWord

/-- R452, R460: cables, training attempts once a second, and a cage whose supply is off until its cable is removed.
Completes: cablePresence, portTrainAttempt, cageShort. -/
def Obligations.Cages : Prop :=
  ∀ (s : State) (p : Nat), p < 32 →
    let x := s.port p
    let off := s.pwr.supplyOff.getLsbD p
    (∃ u, exec (.cablePresence p true) s = .next u ∧ u.port p = { x with cable := true } ∧ u.pwr = s.pwr ∧
      ∀ k, k ≠ p → u.port k = s.port k) ∧
    (∃ u, exec (.cablePresence p false) s = .next u ∧ u.port p = { x with cable := false } ∧ u.pwr.supplyOff.getLsbD p = false ∧
      (∀ k, k ≠ p → u.port k = s.port k ∧ u.pwr.supplyOff.getLsbD k = s.pwr.supplyOff.getLsbD k)) ∧
    (∃ u, exec (.cageShort p) s = .next u ∧ u.port p = { x with trained := false, up := false } ∧ u.pwr.supplyOff.getLsbD p = true ∧
      u.pwr.fabShort.getLsbD p = true ∧ (∀ k, k ≠ p → u.port k = s.port k ∧ u.pwr.supplyOff.getLsbD k = s.pwr.supplyOff.getLsbD k)) ∧
    (∀ t, x.trained = true ∨ x.fenced = true ∨ x.cable = false ∨ off = true ∨
      (∃ a, x.lastTry = some a ∧ (s.time - a).toNat < 1000000000) → exec (.portTrainAttempt p t) s = .next s) ∧
    (x.trained = false → x.fenced = false → x.cable = true → off = false →
      (∀ a, x.lastTry = some a → 1000000000 ≤ (s.time - a).toNat) →
      (∀ t : Option TrainResult, (∀ r, t = some r → r.ok = false) → ∃ u, exec (.portTrainAttempt p t) s = .next u ∧
        (u.port p).lastTry = some s.time ∧ (u.port p).trained = false ∧ u.ttl = s.ttl ∧ (u.port p).fenced = false) ∧
      (∀ r : TrainResult, r.ok = true → ∃ u, exec (.portTrainAttempt p (some r)) s = .next u ∧ (u.port p).lastTry = some s.time ∧
        (u.port p).trained = true ∧ (u.port p).polarity = r.polarity ∧ (u.port p).laneMap = r.laneMap ∧ u.ttl = s.ttl))

/-- R2, R49, R290, R293, R302, R440: writes to registers: only whole aligned registers and their halves are written, a virtual function
reaches its own sail alone, and some fields with their rules.
Completes: registerWrite. -/
def Obligations.RegisterWrites : Prop :=
  ∀ (s : State) (v : Word),
    (∀ fn bar off width, ¬ (width = 8 ∧ off % 8 = 0) → ¬ (width = 4 ∧ off % 4 = 0) →
      exec (.registerWrite fn bar off width v) s = .next s ∧ readReg s fn bar off width = 0) ∧
    (∀ p bar off width, exec (.registerWrite (.sec p) bar off width v) s = .next s) ∧
    (∀ p k bar off width,
      (s.vfSail p k = none → exec (.registerWrite (.vf p k) bar off width v) s = .next s) ∧
      (∀ sl, s.vfSail p k = some sl → ∃ u, exec (.registerWrite (.vf p k) bar off width v) s = .next u ∧
        u = { s with sails := u.sails, ctxs := u.ctxs, queues := u.queues, hif := u.hif } ∧
        (∀ j, j ≠ sl → u.sail j = s.sail j) ∧ (∀ c, s.ctxSail c ≠ some sl → u.ctx c = s.ctx c) ∧
        (∀ q, s.queueSail q ≠ some sl → u.queue q = s.queue q))) ∧
    (∀ p, ∃ u, exec (.registerWrite (.pf p) 0 0x28000 8 v) s = .next u ∧ u = { s with pwr := u.pwr } ∧
      u.pwr = { s.pwr with capHost := v.extractLsb' 0 11 }) ∧
    (∀ p, ∃ u, exec (.registerWrite (.pf p) 0 0x100060 8 v) s = .next u ∧ u = { s with rig := u.rig } ∧
      u.rig.quiesce.toNat = max 1000 (min 10000000 (v.extractLsb' 0 32).toNat) ∧
      readReg u (.pf p) 0 0x100060 8 = u.rig.quiesce.zeroExtend 64) ∧
    (∀ p c sl, c < 2048 → s.ctxSail c = some sl → (s.desc sl).isSome = true → ∃ u,
      exec (.registerWrite (.pf p) 0 (0x3000F0 + 0x400 * c) 8 v) s = .next u ∧ u = { s with ctxs := u.ctxs } ∧
      u.ctx c = { s.ctx c with arith := (s.ctx c).arith &&& ~~~ (v.extractLsb' 0 5) } ∧ ∀ d, d ≠ c → u.ctx d = s.ctx d) ∧
    (∀ p q sl, q < 8192 → s.queueSail q = some sl → (s.desc sl).isSome = true → ∃ u,
      exec (.registerWrite (.pf p) 2 (0x1000 * q) 8 v) s = .next u ∧ u = { s with queues := u.queues } ∧
      ((s.queue q).st ≠ .idle → u.queue q = s.queue q) ∧
      ((s.queue q).st = .idle → u.queue q = { s.queue q with sqBase := 4096 * (v.extractLsb' 12 34).toNat }) ∧
      ∀ j, j ≠ q → u.queue j = s.queue j)

/-! ### Reset and the step -/

/-- R5, R15, R272, R385: the state after reset: no rig, no power counted, no command waits; every memory cell reads as it does before
anything is written; the reset columns of the registers as a host reads them. The values that the spec leaves open are those
of log entries 3 and 8. -/
def Obligations.ResetState : Prop :=
  State.reset.pending = [] ∧ State.reset.time = 0 ∧ State.reset.rig.active = none ∧ State.reset.rig.shadow = none ∧ RigOk State.reset.rig ∧
  State.reset.mem = [] ∧ State.reset.cores = [] ∧ State.reset.queues = [] ∧ State.reset.ctxs = [] ∧ State.reset.ttl.written = 0 ∧
  (∀ p, readReg State.reset (.pf p) 0 0x100000 8 = 0) ∧ (∀ p, readReg State.reset (.pf p) 0 0x28000 8 = 1800) ∧
  (∀ c, c < 64 → (State.reset.pwr.clk c).point = 2 ∧ (State.reset.pwr.clk c).gate = 16)

/-- R5, R6, R59, R88, R260: the block's step: the command at the front of the queue is executed with the queue's rest. On an empty queue
one nanosecond passes (the model's choice, log entry 1): the global time counter advances by one, or by none or two where FM_TIME asked
for it; the queue and the rig stand; a resident program counts the cycles that pass on its core. -/
def Obligations.StepRunsFront : Prop :=
  (∀ (s : State) (c : Instr) (rest : List Instr), s.pending = c :: rest → step s = exec c { s with pending := rest }) ∧
  (∀ s : State, s.pending = [] → ∃ u, step s = .next u ∧ u.pending = [] ∧ u.rig = s.rig ∧
    (s.ryu.slew = .none → u.time = s.time + 1) ∧ (s.ryu.slew = .hold → u.time = s.time) ∧
    (s.ryu.slew = .advance → u.time = s.time + 1 + 1)) ∧
  ∀ (s : State) (k : Nat) (p : Prog), s.prog k = some p →
    let n := ((s.core k).phase + coreSpeed s k) / 3000
    (tickCores s).prog k = some { p with
      cycle := p.cycle + BitVec.ofNat 64 n, yieldCount := if atYieldPoint s k p then 0 else p.yieldCount + n }

/-- Every command completes with a next state in every state, and none touches the queue of those that wait. -/
def Obligations.CommandsComplete : Prop :=
  ∀ (c : Instr) (s : State), ∃ u, exec c s = .next u ∧ u.pending = s.pending
end

