-- ==== Sys2Proof/Laws/Tbl.lean ====
section
/-! SUPPORT. The laws of sparse tables: a read after a write, and the canonical form. -/

namespace Sys2Proof.Machine

variable {α : Type}

@[simp] theorem Tbl.look_nil (k : Nat) : Tbl.look ([] : Tbl α) k = none := rfl

theorem Tbl.look_cons (a : Nat) (x : α) (t : Tbl α) (k : Nat) :
    Tbl.look ((a, x) :: t) k = if a = k then some x else Tbl.look t k := rfl

/-- An erased key is not listed. -/
@[simp] theorem Tbl.look_erase_self (t : Tbl α) (k : Nat) : Tbl.look (t.erase k) k = none := by
  induction t with
  | nil => rfl
  | cons p t ih =>
    obtain ⟨a, x⟩ := p
    by_cases h : a = k <;> simp_all [Tbl.erase, Tbl.look_cons]

/-- Erasing a key leaves the others. -/
theorem Tbl.look_erase_ne (t : Tbl α) {k j : Nat} (h : j ≠ k) : Tbl.look (t.erase k) j = Tbl.look t j := by
  induction t with
  | nil => rfl
  | cons p t ih =>
    obtain ⟨a, x⟩ := p
    by_cases ha : a = k
    · subst ha
      have : ¬ a = j := fun e => h e.symm
      simp_all [Tbl.erase, Tbl.look_cons]
    · simp_all [Tbl.erase, Tbl.look_cons]

/-- A key inserted where it was not listed is found. -/
theorem Tbl.look_insert_self (t : Tbl α) (k : Nat) (v : α) (h : Tbl.look t k = none) :
    Tbl.look (t.insert k v) k = some v := by
  induction t with
  | nil => simp [Tbl.insert, Tbl.look_cons]
  | cons p t ih =>
    obtain ⟨a, x⟩ := p
    by_cases ha : a = k
    · simp [Tbl.look_cons, ha] at h
    · have h' : Tbl.look t k = none := by simpa [Tbl.look_cons, ha] using h
      by_cases hl : k < a
      · simp [Tbl.insert, Tbl.look_cons, hl]
      · rw [Tbl.insert, if_neg hl, Tbl.look_cons, if_neg ha]; exact ih h'

/-- An insertion leaves the other keys. -/
theorem Tbl.look_insert_ne (t : Tbl α) {k j : Nat} (v : α) (h : j ≠ k) : Tbl.look (t.insert k v) j = Tbl.look t j := by
  have hk : ¬ k = j := fun e => h e.symm
  induction t with
  | nil => simp [Tbl.insert, Tbl.look_cons, hk]
  | cons p t ih =>
    obtain ⟨a, x⟩ := p
    by_cases hl : k < a
    · simp [Tbl.insert, Tbl.look_cons, hl, hk]
    · rw [Tbl.insert, if_neg hl, Tbl.look_cons, Tbl.look_cons, ih]

/-- A filter that keeps every pair of a key leaves what is read there. -/
theorem Tbl.get_filter (d : α) (t : Tbl α) (f : Nat × α → Bool) (k : Nat) (h : ∀ v, f (k, v) = true) :
    Tbl.get d (t.filter f) k = t.get d k := by
  unfold Tbl.get
  congr 1
  induction t with
  | nil => rfl
  | cons p t ih =>
    obtain ⟨a, x⟩ := p
    by_cases ha : a = k
    · subst ha; simp [h, Tbl.look_cons]
    · by_cases hf : f (a, x) = true <;> simp [hf, Tbl.look_cons, ha, ih]

/-- A filter that drops every pair of a key leaves the default there. -/
theorem Tbl.get_filter_none (d : α) (t : Tbl α) (f : Nat × α → Bool) (k : Nat) (h : ∀ v, f (k, v) = false) :
    Tbl.get d (t.filter f) k = d := by
  have : Tbl.look (t.filter f) k = none := by
    induction t with
    | nil => rfl
    | cons p t ih =>
      obtain ⟨a, x⟩ := p
      by_cases ha : a = k
      · subst ha; simp [h, ih]
      · by_cases hf : f (a, x) = true <;> simp [hf, Tbl.look_cons, ha, ih]
  simp [Tbl.get, this]

/-- Read after write at the same key. -/
@[simp] theorem Tbl.get_set_self [DecidableEq α] (d : α) (t : Tbl α) (k : Nat) (v : α) : (t.set d k v).get d k = v := by
  unfold Tbl.set Tbl.get
  split
  · simp_all
  · simp [Tbl.look_insert_self]

/-- A write leaves every other key. -/
theorem Tbl.get_set_ne [DecidableEq α] (d e : α) (t : Tbl α) {k j : Nat} (v : α) (h : j ≠ k) :
    (t.set d k v).get e j = t.get e j := by
  unfold Tbl.set Tbl.get
  split
  · rw [Tbl.look_erase_ne t h]
  · rw [Tbl.look_insert_ne _ v h, Tbl.look_erase_ne t h]

theorem Tbl.look_set_ne [DecidableEq α] (d : α) (t : Tbl α) {k j : Nat} (v : α) (h : j ≠ k) :
    Tbl.look (t.set d k v) j = Tbl.look t j := by
  unfold Tbl.set
  split
  · rw [Tbl.look_erase_ne t h]
  · rw [Tbl.look_insert_ne _ v h, Tbl.look_erase_ne t h]

/-- Inserting a key and erasing it leaves the rest without the key. -/
theorem Tbl.erase_insert (t : Tbl α) (k : Nat) (v : α) : (t.insert k v).erase k = t.erase k := by
  induction t with
  | nil => simp [Tbl.insert, Tbl.erase]
  | cons p t ih =>
    obtain ⟨a, x⟩ := p
    by_cases hl : k < a
    · simp [Tbl.insert, Tbl.erase, hl]
    · have ih' : (Tbl.insert t k v).filter (fun p => p.1 != k) = t.filter (fun p => p.1 != k) := ih
      simp [Tbl.insert, Tbl.erase, hl, ih', List.filter_cons]

theorem Tbl.erase_erase (t : Tbl α) (k : Nat) : (t.erase k).erase k = t.erase k := by
  simp [Tbl.erase]

/-- The later of two writes stands. -/
@[simp] theorem Tbl.set_set [DecidableEq α] (d : α) (t : Tbl α) (k : Nat) (v w : α) :
    (t.set d k v).set d k w = t.set d k w := by
  unfold Tbl.set
  split <;> split <;> simp [Tbl.erase_insert, Tbl.erase_erase]

/-! ### The canonical form -/

/-- Rising keys, and no entry that fails a test on key and value. -/
def Tbl.Canon (ok : Nat → α → Prop) (t : Tbl α) : Prop := (t.map (·.1)).Pairwise (· < ·) ∧ ∀ p ∈ t, ok p.1 p.2

theorem Tbl.Canon.filter {ok : Nat → α → Prop} {t : Tbl α} (h : t.Canon ok) (f : Nat × α → Bool) :
    Tbl.Canon ok (t.filter f) :=
  ⟨h.1.sublist (List.Sublist.map _ List.filter_sublist), fun p hp => h.2 p (List.mem_of_mem_filter hp)⟩

theorem Tbl.Canon.erase {ok : Nat → α → Prop} {t : Tbl α} (h : t.Canon ok) (k : Nat) : Tbl.Canon ok (t.erase k) :=
  h.filter _

theorem Tbl.mem_insert {t : Tbl α} {k : Nat} {v : α} {p : Nat × α} (hp : p ∈ t.insert k v) : p = (k, v) ∨ p ∈ t := by
  induction t with
  | nil => simpa [Tbl.insert] using hp
  | cons q t ih =>
    obtain ⟨a, x⟩ := q
    by_cases hl : k < a
    · simpa [Tbl.insert, hl] using hp
    · rw [show Tbl.insert ((a, x) :: t) k v = (a, x) :: Tbl.insert t k v from by simp [Tbl.insert, hl]] at hp
      rcases List.mem_cons.mp hp with h | h
      · exact .inr (List.mem_cons.mpr (.inl h))
      · rcases ih h with h | h
        · exact .inl h
        · exact .inr (List.mem_cons.mpr (.inr h))

theorem Tbl.Canon.insert {ok : Nat → α → Prop} {t : Tbl α} (h : t.Canon ok) (k : Nat) (v : α) (hv : ok k v)
    (hk : ∀ p ∈ t, p.1 ≠ k) : Tbl.Canon ok (t.insert k v) := by
  refine ⟨?_, fun p hp => ?_⟩
  · obtain ⟨hs, -⟩ := h
    induction t with
    | nil => simp [Tbl.insert]
    | cons q t ih =>
      obtain ⟨a, x⟩ := q
      have hs' := List.pairwise_cons.mp hs
      by_cases hl : k < a
      · simp only [Tbl.insert, hl, if_true, List.map_cons]
        refine List.pairwise_cons.mpr ⟨fun b hb => ?_, hs⟩
        rcases List.mem_cons.mp hb with rfl | hb
        · exact hl
        · exact lt_trans hl (hs'.1 b hb)
      · have hak : a < k := lt_of_le_of_ne (not_lt.mp hl) (hk (a, x) (List.mem_cons_self ..))
        simp only [Tbl.insert, hl, if_false, List.map_cons]
        refine List.pairwise_cons.mpr ⟨fun b hb => ?_, ih (fun p hp => hk p (List.mem_cons_of_mem _ hp)) hs'.2⟩
        obtain ⟨p, hp, rfl⟩ := List.mem_map.mp hb
        rcases Tbl.mem_insert hp with rfl | hp
        · exact hak
        · exact hs'.1 _ (List.mem_map_of_mem hp)
  · rcases Tbl.mem_insert hp with rfl | hp
    · exact hv
    · exact h.2 p hp

theorem Tbl.not_mem_erase (t : Tbl α) (k : Nat) : ∀ p ∈ t.erase k, p.1 ≠ k := by
  intro p hp
  simpa using (List.mem_filter.mp hp).2

/-- A write keeps the canonical form. -/
theorem Tbl.Canon.set [DecidableEq α] {ok : Nat → α → Prop} {t : Tbl α} (h : t.Canon ok) (d : α) (k : Nat) (v : α)
    (hv : v ≠ d → ok k v) : Tbl.Canon ok (t.set d k v) := by
  unfold Tbl.set
  split
  · exact h.erase k
  · exact (h.erase k).insert k v (hv ‹_›) (Tbl.not_mem_erase t k)

/-- The test of the canonical form says what it should. -/
theorem Tbl.wf_iff [DecidableEq α] (d : α) (t : Tbl α) : t.wf d = true ↔ t.Canon (fun _ v => v ≠ d) := by
  induction t with
  | nil => simp [Tbl.wf, Tbl.Canon]
  | cons p t ih =>
    obtain ⟨a, x⟩ := p
    cases t with
    | nil => simp [Tbl.wf, Tbl.Canon]
    | cons q t =>
      obtain ⟨b, y⟩ := q
      simp only [Tbl.wf, Bool.and_eq_true, ih, decide_eq_true_eq, bne_iff_ne, Tbl.Canon, List.map_cons, List.pairwise_cons,
        List.mem_cons, forall_eq_or_imp]
      constructor
      · rintro ⟨⟨hab, hx⟩, ⟨hb, hs⟩, hy, ht⟩
        exact ⟨⟨⟨hab, fun c hc => lt_trans hab (hb c hc)⟩, hb, hs⟩, hx, hy, ht⟩
      · rintro ⟨⟨⟨hab, -⟩, hb, hs⟩, hx, hy, ht⟩
        exact ⟨⟨hab, hx⟩, ⟨hb, hs⟩, hy, ht⟩

/-- A write keeps a table canonical. -/
theorem Tbl.wf_set [DecidableEq α] (d : α) (t : Tbl α) (k : Nat) (v : α) (h : t.wf d = true) : (t.set d k v).wf d = true := by
  rw [Tbl.wf_iff] at *
  exact h.set d k v id

end Sys2Proof.Machine
end

