-- ==== Sys2Proof/Laws/Mem.lean ====
section
/-! SUPPORT. The laws of memory: a read after a write, what a write leaves alone, the canonical form. -/

namespace Sys2Proof.Machine

open Sys2Proof

/-! ### Reads after writes -/

/-- The background rests on the spans of lost contents alone. -/
theorem background_congr {s t : State} (h : t.tiers.lost = s.tiers.lost) : background t = background s := by
  have : epochOf t = epochOf s := by funext k; unfold epochOf; rw [h]
  funext k
  unfold background
  rw [this]

@[simp] theorem background_writeB (s : State) (k : Nat) (v : Byte) : background (writeB s k v) = background s := rfl

@[simp] theorem readB_writeB_self (s : State) (k : Nat) (v : Byte) : readB (writeB s k v) k = v := by
  simp only [readB, background_writeB]
  exact Tbl.get_set_self _ _ _ _

theorem readB_writeB_ne (s : State) {k j : Nat} (v : Byte) (h : j ≠ k) : readB (writeB s k v) j = readB s j := by
  simp only [readB, background_writeB]
  exact Tbl.get_set_ne _ _ _ _ h

/-- Writing bytes leaves every key outside them. -/
theorem readB_writeBytes_out (l : List Byte) (s : State) {k j : Nat} (h : j < k ∨ k + l.length ≤ j) :
    readB (writeBytes s k l) j = readB s j := by
  induction l generalizing s k with
  | nil => rfl
  | cons b t ih =>
    simp only [List.length_cons] at h
    rw [writeBytes, ih (writeB s k b) (k := k + 1) (by omega), readB_writeB_ne s b (by omega)]

/-- The bytes written are read back. -/
theorem readB_writeBytes_in (l : List Byte) (s : State) (k i : Nat) (h : i < l.length) :
    readB (writeBytes s k l) (k + i) = l[i] := by
  induction l generalizing s k i with
  | nil => simp at h
  | cons b t ih =>
    rw [writeBytes]
    cases i with
    | zero => rw [readB_writeBytes_out t _ (by omega)]; simp
    | succ n =>
      have := ih (writeB s k b) (k + 1) n (by simpa using h)
      simpa [Nat.add_assoc, Nat.add_comm 1 n] using this

@[simp] theorem readB_setPoison (s : State) (g j : Nat) (b : Bool) : readB (setPoison s g b) j = readB s j := rfl

@[simp] theorem readB_markWrite (s : State) (k n j : Nat) (p : Bool) : readB (markWrite s k n p) j = readB s j := by
  unfold markWrite
  induction granules k n generalizing s with
  | nil => rfl
  | cons g l ih =>
    simp only [List.foldl_cons, ih]
    split <;> [skip; split] <;> simp

/-- A store leaves every key outside its bytes. -/
theorem readB_store_out (s : State) {k j : Nat} (l : List Byte) (p : Bool) (h : j < k ∨ k + l.length ≤ j) :
    readB (store s k l p) j = readB s j := by
  simp only [store, readB_markWrite, readB_writeBytes_out l s h]

/-- A store's bytes are read back. -/
theorem readB_store_in (s : State) (k i : Nat) (l : List Byte) (p : Bool) (h : i < l.length) :
    readB (store s k l p) (k + i) = l[i] := by
  simp only [store, readB_markWrite, readB_writeBytes_in l s k i h]

@[simp] theorem leBytes_length (n v : Nat) : (leBytes n v).length = n := by
  induction n generalizing v with
  | zero => rfl
  | succ n ih => simp [leBytes, ih]

theorem readBytes_length (s : State) (k n : Nat) : (readBytes s k n).length = n := by
  induction n generalizing k with
  | zero => rfl
  | succ n ih => simp [readBytes, ih]

/-- Byte `i` of the little-endian bytes of a number. -/
theorem leBytes_get (n v i : Nat) (h : i < n) : (leBytes n v)[i]'(by simpa using h) = BitVec.ofNat 8 (v / 256 ^ i) := by
  induction n generalizing v i with
  | zero => omega
  | succ n ih =>
    cases i with
    | zero => simp [leBytes]
    | succ i =>
      simp only [leBytes, List.getElem_cons_succ]
      rw [ih (v / 256) i (by omega), Nat.div_div_eq_div_mul, pow_succ, Nat.mul_comm]

/-- The number that little-endian bytes spell. -/
theorem leNat_leBytes (n v : Nat) : leNat (leBytes n v) = v % 256 ^ n := by
  induction n generalizing v with
  | zero => simp [leBytes, leNat, Nat.mod_one]
  | succ n ih =>
    simp only [leBytes, leNat, ih, BitVec.toNat_ofNat]
    have h := Nat.mod_mul (a := 256) (b := 256 ^ n) (x := v)
    have e : 256 ^ (n + 1) = 256 * 256 ^ n := by rw [pow_succ, Nat.mul_comm]
    rw [e, h]

/-! ### The canonical form -/

/-- The test of the canonical form says what it should. -/
theorem memWfFrom_iff (bg : Nat → Byte) (l : List Host.Cell) : memWfFrom bg l = true ↔ Tbl.Canon (fun k v => v ≠ bg k) l := by
  induction l with
  | nil => simp [memWfFrom, Tbl.Canon]
  | cons p t ih =>
    obtain ⟨a, x⟩ := p
    cases t with
    | nil => simp [memWfFrom, Tbl.Canon]
    | cons q t =>
      obtain ⟨b, y⟩ := q
      simp only [memWfFrom, Bool.and_eq_true, ih, decide_eq_true_eq, bne_iff_ne, Tbl.Canon, List.map_cons, List.pairwise_cons,
        List.mem_cons, forall_eq_or_imp]
      constructor
      · rintro ⟨⟨hab, hx⟩, ⟨hb, hs⟩, hy, ht⟩
        exact ⟨⟨⟨hab, fun c hc => lt_trans hab (hb c hc)⟩, hb, hs⟩, hx, hy, ht⟩
      · rintro ⟨⟨⟨hab, -⟩, hb, hs⟩, hx, hy, ht⟩
        exact ⟨⟨hab, hx⟩, ⟨hb, hs⟩, hy, ht⟩

/-- Memory is canonical: rising keys, no byte that equals the background. -/
theorem Memory.wf_iff (s : State) : Memory.wf s = true ↔ Tbl.Canon (fun k v => v ≠ background s k) s.mem := memWfFrom_iff _ _

/-- The form rests on the bytes listed and on the numbers of lost contents. -/
theorem Memory.wf_congr {s t : State} (hm : t.mem = s.mem) (hb : background t = background s) : Memory.wf t = Memory.wf s := by
  simp only [Memory.wf, hm, hb]

theorem Memory.wf_writeB (s : State) (k : Nat) (v : Byte) (h : Memory.wf s = true) : Memory.wf (writeB s k v) = true := by
  rw [Memory.wf_iff] at *
  rw [background_writeB]
  exact h.set _ _ _ id

theorem Memory.wf_writeBytes (l : List Byte) (s : State) (k : Nat) (h : Memory.wf s = true) :
    Memory.wf (writeBytes s k l) = true := by
  induction l generalizing s k with
  | nil => exact h
  | cons b t ih => exact ih _ _ (Memory.wf_writeB s k b h)

theorem Memory.wf_setPoison (s : State) (g : Nat) (b : Bool) : Memory.wf (setPoison s g b) = Memory.wf s := rfl

theorem Memory.wf_markWrite (s : State) (k n : Nat) (p : Bool) : Memory.wf (markWrite s k n p) = Memory.wf s := by
  unfold markWrite
  induction granules k n generalizing s with
  | nil => rfl
  | cons g l ih =>
    simp only [List.foldl_cons, ih]
    split <;> [skip; split] <;> simp [Memory.wf_setPoison]

/-- A store keeps the canonical form. -/
theorem Memory.wf_store (s : State) (k : Nat) (l : List Byte) (p : Bool) (h : Memory.wf s = true) :
    Memory.wf (store s k l p) = true := by
  rw [store, Memory.wf_markWrite]
  exact Memory.wf_writeBytes l s k h

theorem Memory.wf_poisonSpan (s : State) (k n : Nat) : Memory.wf (poisonSpan s k n) = Memory.wf s := by
  unfold poisonSpan
  induction granules k n generalizing s with
  | nil => rfl
  | cons g l ih => simp only [List.foldl_cons, ih, Memory.wf_setPoison]

theorem Memory.wf_storeMarked (s : State) (k : Nat) (l : List Byte) (m : List Bool) (h : Memory.wf s = true) :
    Memory.wf (storeMarked s k l m) = true := by
  unfold storeMarked
  have h' := Memory.wf_store s k l false h
  generalize store s k l = u at h'
  induction m.zipIdx generalizing u with
  | nil => exact h'
  | cons x t ih =>
    simp only [List.foldl_cons]
    refine ih _ ?_
    split
    · rw [Memory.wf_poisonSpan]; exact h'
    · exact h'

/-- Dropping bytes keeps the canonical form when what stays keeps its background. -/
theorem Memory.wf_filter {s t : State} (f : Host.Cell → Bool) (h : Memory.wf s = true) (hm : t.mem = s.mem.filter f)
    (hb : ∀ c, f c = true → background t c.1 = background s c.1) : Memory.wf t = true := by
  rw [Memory.wf_iff] at *
  refine ⟨hm ▸ (h.filter f).1, fun p hp => ?_⟩
  rw [hm] at hp
  obtain ⟨hp, hf⟩ := List.mem_filter.mp hp
  rw [hb p hf]
  exact h.2 p hp

/-- Whether a span of lost contents covers a key. -/
def Lost.covers (j : Nat) (x : Nat × Nat × Nat) : Bool := decide (x.1 ≤ j) && decide (j < x.2.1)

theorem epochOf_eq (s : State) (j : Nat) : epochOf s j = ((s.tiers.lost.find? (Lost.covers j)).map (fun x => x.2.2)).getD 0 := rfl

/-- Cutting a span out leaves what covers the keys outside it. -/
theorem cutLost_out {k n j : Nat} (h : j < k ∨ k + n ≤ j) (l : List (Nat × Nat × Nat)) :
    ((cutLost k n l).find? (Lost.covers j)).map (fun x => x.2.2) = (l.find? (Lost.covers j)).map (fun x => x.2.2) := by
  induction l with
  | nil => rfl
  | cons x t ih =>
    obtain ⟨a, b, e⟩ := x
    simp only [cutLost, List.flatMap_cons] at ih ⊢
    rw [List.find?_append, List.find?_append, List.find?_cons]
    by_cases hx : a ≤ j ∧ j < b
    · have hc : Lost.covers j (a, b, e) = true := by simp [Lost.covers, hx]
      rcases h with h | h
      · have : a < min b k := by omega
        have hm : j < min b k := by omega
        simp [this, Lost.covers, hx.1, hx.2, hm]
      · have h1 : max a (k + n) < b := by omega
        have h2 : max a (k + n) ≤ j := by omega
        have h3 : ¬ j < min b k := by omega
        by_cases h4 : a < min b k <;> simp [h1, h4, Lost.covers, hx.1, hx.2, h2, h3]
    · have hc : Lost.covers j (a, b, e) = false := by
        simp only [Lost.covers, Bool.and_eq_false_iff, decide_eq_false_iff_not]; omega
      rw [hc]
      have h1 : List.find? (Lost.covers j) (if a < min b k then [(a, min b k, e)] else []) = none := by
        split
        · have : Lost.covers j (a, min b k, e) = false := by
            simp only [Lost.covers, Bool.and_eq_false_iff, decide_eq_false_iff_not]; omega
          simp [this]
        · rfl
      have h2 : List.find? (Lost.covers j) (if max a (k + n) < b then [(max a (k + n), b, e)] else []) = none := by
        split
        · have : Lost.covers j (max a (k + n), b, e) = false := by
            simp only [Lost.covers, Bool.and_eq_false_iff, decide_eq_false_iff_not]; omega
          simp [this]
        · rfl
      rw [h1, h2]
      simpa using ih

/-- After cutting a span out nothing covers the keys inside it. -/
theorem cutLost_in {k n j : Nat} (h : k ≤ j ∧ j < k + n) (l : List (Nat × Nat × Nat)) :
    (cutLost k n l).find? (Lost.covers j) = none := by
  rw [List.find?_eq_none]
  intro x hx
  simp only [cutLost, List.mem_flatMap, List.mem_append] at hx
  obtain ⟨y, -, hy | hy⟩ := hx <;> split at hy <;> simp at hy <;> subst hy <;>
    simp only [Lost.covers, Bool.and_eq_true, decide_eq_true_eq] <;> omega

theorem background_clearSpan_out (s : State) {k n j : Nat} (h : j < k ∨ k + n ≤ j) :
    background (clearSpan s k n) j = background s j := by
  have : epochOf (clearSpan s k n) j = epochOf s j := by
    rw [epochOf_eq, epochOf_eq]
    exact congrArg (Option.getD · 0) (cutLost_out h s.tiers.lost)
  simp only [background, this]

theorem background_loseSpan_out (s : State) {k n j : Nat} (h : j < k ∨ k + n ≤ j) :
    background (loseSpan s k n) j = background s j := by
  have : epochOf (loseSpan s k n) j = epochOf s j := by
    rw [epochOf_eq, epochOf_eq]
    have hc : Lost.covers j (k, k + n, s.free + 1) = false := by
      simp only [Lost.covers, Bool.and_eq_false_iff, decide_eq_false_iff_not]; omega
    simp only [loseSpan, List.find?_cons, hc]
    exact congrArg (Option.getD · 0) (cutLost_out h s.tiers.lost)
  simp only [background, this]

theorem readB_filter_out {s t : State} {k n j : Nat} (h : j < k ∨ k + n ≤ j)
    (hm : t.mem = s.mem.filter (fun c => c.1 < k || k + n ≤ c.1)) (hb : background t j = background s j) : readB t j = readB s j := by
  simp only [readB, hb, hm]
  exact Tbl.get_filter _ _ _ _ (fun v => by simpa using h)

/-- Zeroing a span leaves the keys outside it. -/
theorem readB_clearSpan_out (s : State) {k n j : Nat} (h : j < k ∨ k + n ≤ j) : readB (clearSpan s k n) j = readB s j :=
  readB_filter_out h rfl (background_clearSpan_out s h)

/-- A span that loses its contents leaves the keys outside it. -/
theorem readB_loseSpan_out (s : State) {k n j : Nat} (h : j < k ∨ k + n ≤ j) : readB (loseSpan s k n) j = readB s j :=
  readB_filter_out h rfl (background_loseSpan_out s h)

/-- A zeroed span reads as 0. -/
theorem readB_clearSpan_in (s : State) {k n j : Nat} (h : k ≤ j ∧ j < k + n) : readB (clearSpan s k n) j = 0 := by
  have hb : background (clearSpan s k n) j = 0 := by
    have : epochOf (clearSpan s k n) j = 0 := by
      rw [epochOf_eq]
      exact congrArg (fun o => (Option.map (fun x : Nat × Nat × Nat => x.2.2) o).getD 0) (cutLost_in h s.tiers.lost)
    simp [background, this]
  rw [readB, hb]
  exact Tbl.get_filter_none _ _ _ _ (fun v => by simp; omega)

/-- A span that has lost its contents reads as free values. -/
theorem readB_loseSpan_in (s : State) {k n j : Nat} (h : k ≤ j ∧ j < k + n) :
    readB (loseSpan s k n) j = Config.lostByte (s.free + 1) j := by
  have hb : background (loseSpan s k n) j = Config.lostByte (s.free + 1) j := by
    have : epochOf (loseSpan s k n) j = s.free + 1 := by
      rw [epochOf_eq]
      have hc : Lost.covers j (k, k + n, s.free + 1) = true := by simp [Lost.covers, h]
      simp [loseSpan, hc]
    simp [background, this]
  rw [readB, hb]
  exact Tbl.get_filter_none _ _ _ _ (fun v => by simp; omega)

theorem Memory.wf_clearSpan (s : State) (k n : Nat) (h : Memory.wf s = true) : Memory.wf (clearSpan s k n) = true :=
  Memory.wf_filter (fun c => c.1 < k || k + n ≤ c.1) h rfl (fun _ hc => background_clearSpan_out s (by simpa using hc))

theorem Memory.wf_loseSpan (s : State) (k n : Nat) (h : Memory.wf s = true) : Memory.wf (loseSpan s k n) = true :=
  Memory.wf_filter (fun c => c.1 < k || k + n ≤ c.1) h rfl (fun _ hc => background_loseSpan_out s (by simpa using hc))

theorem Memory.wf_zeroSpad (s : State) (p : Nat) (h : Memory.wf s = true) : Memory.wf (zeroSpad s p) = true :=
  Memory.wf_clearSpan _ _ _ h

theorem Memory.wf_zeroCbuf (s : State) (n : Nat) (h : Memory.wf s = true) : Memory.wf (zeroCbuf s n) = true :=
  Memory.wf_clearSpan _ _ _ h

theorem Memory.wf_zeroDram (s : State) (c : Nat) (h : Memory.wf s = true) : Memory.wf (zeroDram s c) = true :=
  Memory.wf_clearSpan _ _ _ h

theorem Memory.wf_zeroGddr (s : State) (c : Nat) (h : Memory.wf s = true) : Memory.wf (zeroGddr s c) = true :=
  Memory.wf_clearSpan _ _ _ h

theorem Memory.wf_zeroFar (s : State) (g : Nat) (h : Memory.wf s = true) : Memory.wf (zeroFar s g) = true :=
  Memory.wf_clearSpan _ _ _ h

theorem Memory.wf_eraseFar (s : State) (g : Nat) (h : Memory.wf s = true) : Memory.wf (eraseFar s g) = true :=
  Memory.wf_loseSpan _ _ _ h

theorem Memory.wf_losePackage (s : State) (h : Memory.wf s = true) : Memory.wf (losePackage s) = true :=
  (Memory.wf_congr rfl (background_congr rfl)).trans (Memory.wf_loseSpan s 0 gddrEnd h)

/-- Memory is canonical right after reset. -/
theorem Memory.wf_reset : Memory.wf State.reset = true := rfl

end Sys2Proof.Machine
end

