-- ==== Sys2Proof/Laws/State.lean ====
section
/-! SUPPORT. What each update of the state leaves alone, field by field, and what it reads back. -/

namespace Sys2Proof.Machine

open Sys2Proof

/-! ### setCore -/

@[simp] theorem State.setCore_pending (s : State) (k : Nat) (v : CoreSlot) : (s.setCore k v).pending = s.pending := rfl
@[simp] theorem State.setCore_time (s : State) (k : Nat) (v : CoreSlot) : (s.setCore k v).time = s.time := rfl
@[simp] theorem State.setCore_free (s : State) (k : Nat) (v : CoreSlot) : (s.setCore k v).free = s.free := rfl
@[simp] theorem State.setCore_mem (s : State) (k : Nat) (v : CoreSlot) : (s.setCore k v).mem = s.mem := rfl
@[simp] theorem State.setCore_ctxs (s : State) (k : Nat) (v : CoreSlot) : (s.setCore k v).ctxs = s.ctxs := rfl
@[simp] theorem State.setCore_queues (s : State) (k : Nat) (v : CoreSlot) : (s.setCore k v).queues = s.queues := rfl
@[simp] theorem State.setCore_sems (s : State) (k : Nat) (v : CoreSlot) : (s.setCore k v).sems = s.sems := rfl
@[simp] theorem State.setCore_dma (s : State) (k : Nat) (v : CoreSlot) : (s.setCore k v).dma = s.dma := rfl
@[simp] theorem State.setCore_sails (s : State) (k : Nat) (v : CoreSlot) : (s.setCore k v).sails = s.sails := rfl
@[simp] theorem State.setCore_yards (s : State) (k : Nat) (v : CoreSlot) : (s.setCore k v).yards = s.yards := rfl
@[simp] theorem State.setCore_groups (s : State) (k : Nat) (v : CoreSlot) : (s.setCore k v).groups = s.groups := rfl
@[simp] theorem State.setCore_tiers (s : State) (k : Nat) (v : CoreSlot) : (s.setCore k v).tiers = s.tiers := rfl
@[simp] theorem State.setCore_mesh (s : State) (k : Nat) (v : CoreSlot) : (s.setCore k v).mesh = s.mesh := rfl
@[simp] theorem State.setCore_rig (s : State) (k : Nat) (v : CoreSlot) : (s.setCore k v).rig = s.rig := rfl
@[simp] theorem State.setCore_ryu (s : State) (k : Nat) (v : CoreSlot) : (s.setCore k v).ryu = s.ryu := rfl
@[simp] theorem State.setCore_sec (s : State) (k : Nat) (v : CoreSlot) : (s.setCore k v).sec = s.sec := rfl
@[simp] theorem State.setCore_rst (s : State) (k : Nat) (v : CoreSlot) : (s.setCore k v).rst = s.rst := rfl
@[simp] theorem State.setCore_ttl (s : State) (k : Nat) (v : CoreSlot) : (s.setCore k v).ttl = s.ttl := rfl
@[simp] theorem State.setCore_pwr (s : State) (k : Nat) (v : CoreSlot) : (s.setCore k v).pwr = s.pwr := rfl
@[simp] theorem State.setCore_hif (s : State) (k : Nat) (v : CoreSlot) : (s.setCore k v).hif = s.hif := rfl

/-! ### setProg -/

@[simp] theorem State.setProg_pending (s : State) (k : Nat) (v : Option Prog) : (s.setProg k v).pending = s.pending := rfl
@[simp] theorem State.setProg_time (s : State) (k : Nat) (v : Option Prog) : (s.setProg k v).time = s.time := rfl
@[simp] theorem State.setProg_free (s : State) (k : Nat) (v : Option Prog) : (s.setProg k v).free = s.free := rfl
@[simp] theorem State.setProg_mem (s : State) (k : Nat) (v : Option Prog) : (s.setProg k v).mem = s.mem := rfl
@[simp] theorem State.setProg_ctxs (s : State) (k : Nat) (v : Option Prog) : (s.setProg k v).ctxs = s.ctxs := rfl
@[simp] theorem State.setProg_queues (s : State) (k : Nat) (v : Option Prog) : (s.setProg k v).queues = s.queues := rfl
@[simp] theorem State.setProg_sems (s : State) (k : Nat) (v : Option Prog) : (s.setProg k v).sems = s.sems := rfl
@[simp] theorem State.setProg_dma (s : State) (k : Nat) (v : Option Prog) : (s.setProg k v).dma = s.dma := rfl
@[simp] theorem State.setProg_sails (s : State) (k : Nat) (v : Option Prog) : (s.setProg k v).sails = s.sails := rfl
@[simp] theorem State.setProg_yards (s : State) (k : Nat) (v : Option Prog) : (s.setProg k v).yards = s.yards := rfl
@[simp] theorem State.setProg_groups (s : State) (k : Nat) (v : Option Prog) : (s.setProg k v).groups = s.groups := rfl
@[simp] theorem State.setProg_tiers (s : State) (k : Nat) (v : Option Prog) : (s.setProg k v).tiers = s.tiers := rfl
@[simp] theorem State.setProg_mesh (s : State) (k : Nat) (v : Option Prog) : (s.setProg k v).mesh = s.mesh := rfl
@[simp] theorem State.setProg_rig (s : State) (k : Nat) (v : Option Prog) : (s.setProg k v).rig = s.rig := rfl
@[simp] theorem State.setProg_ryu (s : State) (k : Nat) (v : Option Prog) : (s.setProg k v).ryu = s.ryu := rfl
@[simp] theorem State.setProg_sec (s : State) (k : Nat) (v : Option Prog) : (s.setProg k v).sec = s.sec := rfl
@[simp] theorem State.setProg_rst (s : State) (k : Nat) (v : Option Prog) : (s.setProg k v).rst = s.rst := rfl
@[simp] theorem State.setProg_ttl (s : State) (k : Nat) (v : Option Prog) : (s.setProg k v).ttl = s.ttl := rfl
@[simp] theorem State.setProg_pwr (s : State) (k : Nat) (v : Option Prog) : (s.setProg k v).pwr = s.pwr := rfl
@[simp] theorem State.setProg_hif (s : State) (k : Nat) (v : Option Prog) : (s.setProg k v).hif = s.hif := rfl

/-! ### setCtx -/

@[simp] theorem State.setCtx_pending (s : State) (c : Nat) (v : Ctx) : (s.setCtx c v).pending = s.pending := rfl
@[simp] theorem State.setCtx_time (s : State) (c : Nat) (v : Ctx) : (s.setCtx c v).time = s.time := rfl
@[simp] theorem State.setCtx_free (s : State) (c : Nat) (v : Ctx) : (s.setCtx c v).free = s.free := rfl
@[simp] theorem State.setCtx_mem (s : State) (c : Nat) (v : Ctx) : (s.setCtx c v).mem = s.mem := rfl
@[simp] theorem State.setCtx_cores (s : State) (c : Nat) (v : Ctx) : (s.setCtx c v).cores = s.cores := rfl
@[simp] theorem State.setCtx_queues (s : State) (c : Nat) (v : Ctx) : (s.setCtx c v).queues = s.queues := rfl
@[simp] theorem State.setCtx_sems (s : State) (c : Nat) (v : Ctx) : (s.setCtx c v).sems = s.sems := rfl
@[simp] theorem State.setCtx_dma (s : State) (c : Nat) (v : Ctx) : (s.setCtx c v).dma = s.dma := rfl
@[simp] theorem State.setCtx_sails (s : State) (c : Nat) (v : Ctx) : (s.setCtx c v).sails = s.sails := rfl
@[simp] theorem State.setCtx_yards (s : State) (c : Nat) (v : Ctx) : (s.setCtx c v).yards = s.yards := rfl
@[simp] theorem State.setCtx_groups (s : State) (c : Nat) (v : Ctx) : (s.setCtx c v).groups = s.groups := rfl
@[simp] theorem State.setCtx_tiers (s : State) (c : Nat) (v : Ctx) : (s.setCtx c v).tiers = s.tiers := rfl
@[simp] theorem State.setCtx_mesh (s : State) (c : Nat) (v : Ctx) : (s.setCtx c v).mesh = s.mesh := rfl
@[simp] theorem State.setCtx_rig (s : State) (c : Nat) (v : Ctx) : (s.setCtx c v).rig = s.rig := rfl
@[simp] theorem State.setCtx_ryu (s : State) (c : Nat) (v : Ctx) : (s.setCtx c v).ryu = s.ryu := rfl
@[simp] theorem State.setCtx_sec (s : State) (c : Nat) (v : Ctx) : (s.setCtx c v).sec = s.sec := rfl
@[simp] theorem State.setCtx_rst (s : State) (c : Nat) (v : Ctx) : (s.setCtx c v).rst = s.rst := rfl
@[simp] theorem State.setCtx_ttl (s : State) (c : Nat) (v : Ctx) : (s.setCtx c v).ttl = s.ttl := rfl
@[simp] theorem State.setCtx_pwr (s : State) (c : Nat) (v : Ctx) : (s.setCtx c v).pwr = s.pwr := rfl
@[simp] theorem State.setCtx_hif (s : State) (c : Nat) (v : Ctx) : (s.setCtx c v).hif = s.hif := rfl

/-! ### updCtx -/

@[simp] theorem State.updCtx_pending (s : State) (c : Nat) (f : Ctx → Ctx) : (s.updCtx c f).pending = s.pending := rfl
@[simp] theorem State.updCtx_time (s : State) (c : Nat) (f : Ctx → Ctx) : (s.updCtx c f).time = s.time := rfl
@[simp] theorem State.updCtx_free (s : State) (c : Nat) (f : Ctx → Ctx) : (s.updCtx c f).free = s.free := rfl
@[simp] theorem State.updCtx_mem (s : State) (c : Nat) (f : Ctx → Ctx) : (s.updCtx c f).mem = s.mem := rfl
@[simp] theorem State.updCtx_cores (s : State) (c : Nat) (f : Ctx → Ctx) : (s.updCtx c f).cores = s.cores := rfl
@[simp] theorem State.updCtx_queues (s : State) (c : Nat) (f : Ctx → Ctx) : (s.updCtx c f).queues = s.queues := rfl
@[simp] theorem State.updCtx_sems (s : State) (c : Nat) (f : Ctx → Ctx) : (s.updCtx c f).sems = s.sems := rfl
@[simp] theorem State.updCtx_dma (s : State) (c : Nat) (f : Ctx → Ctx) : (s.updCtx c f).dma = s.dma := rfl
@[simp] theorem State.updCtx_sails (s : State) (c : Nat) (f : Ctx → Ctx) : (s.updCtx c f).sails = s.sails := rfl
@[simp] theorem State.updCtx_yards (s : State) (c : Nat) (f : Ctx → Ctx) : (s.updCtx c f).yards = s.yards := rfl
@[simp] theorem State.updCtx_groups (s : State) (c : Nat) (f : Ctx → Ctx) : (s.updCtx c f).groups = s.groups := rfl
@[simp] theorem State.updCtx_tiers (s : State) (c : Nat) (f : Ctx → Ctx) : (s.updCtx c f).tiers = s.tiers := rfl
@[simp] theorem State.updCtx_mesh (s : State) (c : Nat) (f : Ctx → Ctx) : (s.updCtx c f).mesh = s.mesh := rfl
@[simp] theorem State.updCtx_rig (s : State) (c : Nat) (f : Ctx → Ctx) : (s.updCtx c f).rig = s.rig := rfl
@[simp] theorem State.updCtx_ryu (s : State) (c : Nat) (f : Ctx → Ctx) : (s.updCtx c f).ryu = s.ryu := rfl
@[simp] theorem State.updCtx_sec (s : State) (c : Nat) (f : Ctx → Ctx) : (s.updCtx c f).sec = s.sec := rfl
@[simp] theorem State.updCtx_rst (s : State) (c : Nat) (f : Ctx → Ctx) : (s.updCtx c f).rst = s.rst := rfl
@[simp] theorem State.updCtx_ttl (s : State) (c : Nat) (f : Ctx → Ctx) : (s.updCtx c f).ttl = s.ttl := rfl
@[simp] theorem State.updCtx_pwr (s : State) (c : Nat) (f : Ctx → Ctx) : (s.updCtx c f).pwr = s.pwr := rfl
@[simp] theorem State.updCtx_hif (s : State) (c : Nat) (f : Ctx → Ctx) : (s.updCtx c f).hif = s.hif := rfl

/-! ### setQueue -/

@[simp] theorem State.setQueue_pending (s : State) (q : Nat) (v : Queue) : (s.setQueue q v).pending = s.pending := rfl
@[simp] theorem State.setQueue_time (s : State) (q : Nat) (v : Queue) : (s.setQueue q v).time = s.time := rfl
@[simp] theorem State.setQueue_free (s : State) (q : Nat) (v : Queue) : (s.setQueue q v).free = s.free := rfl
@[simp] theorem State.setQueue_mem (s : State) (q : Nat) (v : Queue) : (s.setQueue q v).mem = s.mem := rfl
@[simp] theorem State.setQueue_cores (s : State) (q : Nat) (v : Queue) : (s.setQueue q v).cores = s.cores := rfl
@[simp] theorem State.setQueue_ctxs (s : State) (q : Nat) (v : Queue) : (s.setQueue q v).ctxs = s.ctxs := rfl
@[simp] theorem State.setQueue_sems (s : State) (q : Nat) (v : Queue) : (s.setQueue q v).sems = s.sems := rfl
@[simp] theorem State.setQueue_dma (s : State) (q : Nat) (v : Queue) : (s.setQueue q v).dma = s.dma := rfl
@[simp] theorem State.setQueue_sails (s : State) (q : Nat) (v : Queue) : (s.setQueue q v).sails = s.sails := rfl
@[simp] theorem State.setQueue_yards (s : State) (q : Nat) (v : Queue) : (s.setQueue q v).yards = s.yards := rfl
@[simp] theorem State.setQueue_groups (s : State) (q : Nat) (v : Queue) : (s.setQueue q v).groups = s.groups := rfl
@[simp] theorem State.setQueue_tiers (s : State) (q : Nat) (v : Queue) : (s.setQueue q v).tiers = s.tiers := rfl
@[simp] theorem State.setQueue_mesh (s : State) (q : Nat) (v : Queue) : (s.setQueue q v).mesh = s.mesh := rfl
@[simp] theorem State.setQueue_rig (s : State) (q : Nat) (v : Queue) : (s.setQueue q v).rig = s.rig := rfl
@[simp] theorem State.setQueue_ryu (s : State) (q : Nat) (v : Queue) : (s.setQueue q v).ryu = s.ryu := rfl
@[simp] theorem State.setQueue_sec (s : State) (q : Nat) (v : Queue) : (s.setQueue q v).sec = s.sec := rfl
@[simp] theorem State.setQueue_rst (s : State) (q : Nat) (v : Queue) : (s.setQueue q v).rst = s.rst := rfl
@[simp] theorem State.setQueue_ttl (s : State) (q : Nat) (v : Queue) : (s.setQueue q v).ttl = s.ttl := rfl
@[simp] theorem State.setQueue_pwr (s : State) (q : Nat) (v : Queue) : (s.setQueue q v).pwr = s.pwr := rfl
@[simp] theorem State.setQueue_hif (s : State) (q : Nat) (v : Queue) : (s.setQueue q v).hif = s.hif := rfl

/-! ### updQueue -/

@[simp] theorem State.updQueue_pending (s : State) (q : Nat) (f : Queue → Queue) : (s.updQueue q f).pending = s.pending := rfl
@[simp] theorem State.updQueue_time (s : State) (q : Nat) (f : Queue → Queue) : (s.updQueue q f).time = s.time := rfl
@[simp] theorem State.updQueue_free (s : State) (q : Nat) (f : Queue → Queue) : (s.updQueue q f).free = s.free := rfl
@[simp] theorem State.updQueue_mem (s : State) (q : Nat) (f : Queue → Queue) : (s.updQueue q f).mem = s.mem := rfl
@[simp] theorem State.updQueue_cores (s : State) (q : Nat) (f : Queue → Queue) : (s.updQueue q f).cores = s.cores := rfl
@[simp] theorem State.updQueue_ctxs (s : State) (q : Nat) (f : Queue → Queue) : (s.updQueue q f).ctxs = s.ctxs := rfl
@[simp] theorem State.updQueue_sems (s : State) (q : Nat) (f : Queue → Queue) : (s.updQueue q f).sems = s.sems := rfl
@[simp] theorem State.updQueue_dma (s : State) (q : Nat) (f : Queue → Queue) : (s.updQueue q f).dma = s.dma := rfl
@[simp] theorem State.updQueue_sails (s : State) (q : Nat) (f : Queue → Queue) : (s.updQueue q f).sails = s.sails := rfl
@[simp] theorem State.updQueue_yards (s : State) (q : Nat) (f : Queue → Queue) : (s.updQueue q f).yards = s.yards := rfl
@[simp] theorem State.updQueue_groups (s : State) (q : Nat) (f : Queue → Queue) : (s.updQueue q f).groups = s.groups := rfl
@[simp] theorem State.updQueue_tiers (s : State) (q : Nat) (f : Queue → Queue) : (s.updQueue q f).tiers = s.tiers := rfl
@[simp] theorem State.updQueue_mesh (s : State) (q : Nat) (f : Queue → Queue) : (s.updQueue q f).mesh = s.mesh := rfl
@[simp] theorem State.updQueue_rig (s : State) (q : Nat) (f : Queue → Queue) : (s.updQueue q f).rig = s.rig := rfl
@[simp] theorem State.updQueue_ryu (s : State) (q : Nat) (f : Queue → Queue) : (s.updQueue q f).ryu = s.ryu := rfl
@[simp] theorem State.updQueue_sec (s : State) (q : Nat) (f : Queue → Queue) : (s.updQueue q f).sec = s.sec := rfl
@[simp] theorem State.updQueue_rst (s : State) (q : Nat) (f : Queue → Queue) : (s.updQueue q f).rst = s.rst := rfl
@[simp] theorem State.updQueue_ttl (s : State) (q : Nat) (f : Queue → Queue) : (s.updQueue q f).ttl = s.ttl := rfl
@[simp] theorem State.updQueue_pwr (s : State) (q : Nat) (f : Queue → Queue) : (s.updQueue q f).pwr = s.pwr := rfl
@[simp] theorem State.updQueue_hif (s : State) (q : Nat) (f : Queue → Queue) : (s.updQueue q f).hif = s.hif := rfl

/-! ### setSem -/

@[simp] theorem State.setSem_pending (s : State) (i : Nat) (v : Sem) : (s.setSem i v).pending = s.pending := rfl
@[simp] theorem State.setSem_time (s : State) (i : Nat) (v : Sem) : (s.setSem i v).time = s.time := rfl
@[simp] theorem State.setSem_free (s : State) (i : Nat) (v : Sem) : (s.setSem i v).free = s.free := rfl
@[simp] theorem State.setSem_mem (s : State) (i : Nat) (v : Sem) : (s.setSem i v).mem = s.mem := rfl
@[simp] theorem State.setSem_cores (s : State) (i : Nat) (v : Sem) : (s.setSem i v).cores = s.cores := rfl
@[simp] theorem State.setSem_ctxs (s : State) (i : Nat) (v : Sem) : (s.setSem i v).ctxs = s.ctxs := rfl
@[simp] theorem State.setSem_queues (s : State) (i : Nat) (v : Sem) : (s.setSem i v).queues = s.queues := rfl
@[simp] theorem State.setSem_dma (s : State) (i : Nat) (v : Sem) : (s.setSem i v).dma = s.dma := rfl
@[simp] theorem State.setSem_sails (s : State) (i : Nat) (v : Sem) : (s.setSem i v).sails = s.sails := rfl
@[simp] theorem State.setSem_yards (s : State) (i : Nat) (v : Sem) : (s.setSem i v).yards = s.yards := rfl
@[simp] theorem State.setSem_groups (s : State) (i : Nat) (v : Sem) : (s.setSem i v).groups = s.groups := rfl
@[simp] theorem State.setSem_tiers (s : State) (i : Nat) (v : Sem) : (s.setSem i v).tiers = s.tiers := rfl
@[simp] theorem State.setSem_mesh (s : State) (i : Nat) (v : Sem) : (s.setSem i v).mesh = s.mesh := rfl
@[simp] theorem State.setSem_rig (s : State) (i : Nat) (v : Sem) : (s.setSem i v).rig = s.rig := rfl
@[simp] theorem State.setSem_ryu (s : State) (i : Nat) (v : Sem) : (s.setSem i v).ryu = s.ryu := rfl
@[simp] theorem State.setSem_sec (s : State) (i : Nat) (v : Sem) : (s.setSem i v).sec = s.sec := rfl
@[simp] theorem State.setSem_rst (s : State) (i : Nat) (v : Sem) : (s.setSem i v).rst = s.rst := rfl
@[simp] theorem State.setSem_ttl (s : State) (i : Nat) (v : Sem) : (s.setSem i v).ttl = s.ttl := rfl
@[simp] theorem State.setSem_pwr (s : State) (i : Nat) (v : Sem) : (s.setSem i v).pwr = s.pwr := rfl
@[simp] theorem State.setSem_hif (s : State) (i : Nat) (v : Sem) : (s.setSem i v).hif = s.hif := rfl

/-! ### setEngine -/

@[simp] theorem State.setEngine_pending (s : State) (e : Nat) (v : DmaEng) : (s.setEngine e v).pending = s.pending := rfl
@[simp] theorem State.setEngine_time (s : State) (e : Nat) (v : DmaEng) : (s.setEngine e v).time = s.time := rfl
@[simp] theorem State.setEngine_free (s : State) (e : Nat) (v : DmaEng) : (s.setEngine e v).free = s.free := rfl
@[simp] theorem State.setEngine_mem (s : State) (e : Nat) (v : DmaEng) : (s.setEngine e v).mem = s.mem := rfl
@[simp] theorem State.setEngine_cores (s : State) (e : Nat) (v : DmaEng) : (s.setEngine e v).cores = s.cores := rfl
@[simp] theorem State.setEngine_ctxs (s : State) (e : Nat) (v : DmaEng) : (s.setEngine e v).ctxs = s.ctxs := rfl
@[simp] theorem State.setEngine_queues (s : State) (e : Nat) (v : DmaEng) : (s.setEngine e v).queues = s.queues := rfl
@[simp] theorem State.setEngine_sems (s : State) (e : Nat) (v : DmaEng) : (s.setEngine e v).sems = s.sems := rfl
@[simp] theorem State.setEngine_sails (s : State) (e : Nat) (v : DmaEng) : (s.setEngine e v).sails = s.sails := rfl
@[simp] theorem State.setEngine_yards (s : State) (e : Nat) (v : DmaEng) : (s.setEngine e v).yards = s.yards := rfl
@[simp] theorem State.setEngine_groups (s : State) (e : Nat) (v : DmaEng) : (s.setEngine e v).groups = s.groups := rfl
@[simp] theorem State.setEngine_tiers (s : State) (e : Nat) (v : DmaEng) : (s.setEngine e v).tiers = s.tiers := rfl
@[simp] theorem State.setEngine_mesh (s : State) (e : Nat) (v : DmaEng) : (s.setEngine e v).mesh = s.mesh := rfl
@[simp] theorem State.setEngine_rig (s : State) (e : Nat) (v : DmaEng) : (s.setEngine e v).rig = s.rig := rfl
@[simp] theorem State.setEngine_ryu (s : State) (e : Nat) (v : DmaEng) : (s.setEngine e v).ryu = s.ryu := rfl
@[simp] theorem State.setEngine_sec (s : State) (e : Nat) (v : DmaEng) : (s.setEngine e v).sec = s.sec := rfl
@[simp] theorem State.setEngine_rst (s : State) (e : Nat) (v : DmaEng) : (s.setEngine e v).rst = s.rst := rfl
@[simp] theorem State.setEngine_ttl (s : State) (e : Nat) (v : DmaEng) : (s.setEngine e v).ttl = s.ttl := rfl
@[simp] theorem State.setEngine_pwr (s : State) (e : Nat) (v : DmaEng) : (s.setEngine e v).pwr = s.pwr := rfl
@[simp] theorem State.setEngine_hif (s : State) (e : Nat) (v : DmaEng) : (s.setEngine e v).hif = s.hif := rfl

/-! ### setSail -/

@[simp] theorem State.setSail_pending (s : State) (i : Nat) (v : Sail) : (s.setSail i v).pending = s.pending := rfl
@[simp] theorem State.setSail_time (s : State) (i : Nat) (v : Sail) : (s.setSail i v).time = s.time := rfl
@[simp] theorem State.setSail_free (s : State) (i : Nat) (v : Sail) : (s.setSail i v).free = s.free := rfl
@[simp] theorem State.setSail_mem (s : State) (i : Nat) (v : Sail) : (s.setSail i v).mem = s.mem := rfl
@[simp] theorem State.setSail_cores (s : State) (i : Nat) (v : Sail) : (s.setSail i v).cores = s.cores := rfl
@[simp] theorem State.setSail_ctxs (s : State) (i : Nat) (v : Sail) : (s.setSail i v).ctxs = s.ctxs := rfl
@[simp] theorem State.setSail_queues (s : State) (i : Nat) (v : Sail) : (s.setSail i v).queues = s.queues := rfl
@[simp] theorem State.setSail_sems (s : State) (i : Nat) (v : Sail) : (s.setSail i v).sems = s.sems := rfl
@[simp] theorem State.setSail_dma (s : State) (i : Nat) (v : Sail) : (s.setSail i v).dma = s.dma := rfl
@[simp] theorem State.setSail_yards (s : State) (i : Nat) (v : Sail) : (s.setSail i v).yards = s.yards := rfl
@[simp] theorem State.setSail_groups (s : State) (i : Nat) (v : Sail) : (s.setSail i v).groups = s.groups := rfl
@[simp] theorem State.setSail_tiers (s : State) (i : Nat) (v : Sail) : (s.setSail i v).tiers = s.tiers := rfl
@[simp] theorem State.setSail_mesh (s : State) (i : Nat) (v : Sail) : (s.setSail i v).mesh = s.mesh := rfl
@[simp] theorem State.setSail_rig (s : State) (i : Nat) (v : Sail) : (s.setSail i v).rig = s.rig := rfl
@[simp] theorem State.setSail_ryu (s : State) (i : Nat) (v : Sail) : (s.setSail i v).ryu = s.ryu := rfl
@[simp] theorem State.setSail_sec (s : State) (i : Nat) (v : Sail) : (s.setSail i v).sec = s.sec := rfl
@[simp] theorem State.setSail_rst (s : State) (i : Nat) (v : Sail) : (s.setSail i v).rst = s.rst := rfl
@[simp] theorem State.setSail_ttl (s : State) (i : Nat) (v : Sail) : (s.setSail i v).ttl = s.ttl := rfl
@[simp] theorem State.setSail_pwr (s : State) (i : Nat) (v : Sail) : (s.setSail i v).pwr = s.pwr := rfl
@[simp] theorem State.setSail_hif (s : State) (i : Nat) (v : Sail) : (s.setSail i v).hif = s.hif := rfl

/-! ### updSail -/

@[simp] theorem State.updSail_pending (s : State) (i : Nat) (f : Sail → Sail) : (s.updSail i f).pending = s.pending := rfl
@[simp] theorem State.updSail_time (s : State) (i : Nat) (f : Sail → Sail) : (s.updSail i f).time = s.time := rfl
@[simp] theorem State.updSail_free (s : State) (i : Nat) (f : Sail → Sail) : (s.updSail i f).free = s.free := rfl
@[simp] theorem State.updSail_mem (s : State) (i : Nat) (f : Sail → Sail) : (s.updSail i f).mem = s.mem := rfl
@[simp] theorem State.updSail_cores (s : State) (i : Nat) (f : Sail → Sail) : (s.updSail i f).cores = s.cores := rfl
@[simp] theorem State.updSail_ctxs (s : State) (i : Nat) (f : Sail → Sail) : (s.updSail i f).ctxs = s.ctxs := rfl
@[simp] theorem State.updSail_queues (s : State) (i : Nat) (f : Sail → Sail) : (s.updSail i f).queues = s.queues := rfl
@[simp] theorem State.updSail_sems (s : State) (i : Nat) (f : Sail → Sail) : (s.updSail i f).sems = s.sems := rfl
@[simp] theorem State.updSail_dma (s : State) (i : Nat) (f : Sail → Sail) : (s.updSail i f).dma = s.dma := rfl
@[simp] theorem State.updSail_yards (s : State) (i : Nat) (f : Sail → Sail) : (s.updSail i f).yards = s.yards := rfl
@[simp] theorem State.updSail_groups (s : State) (i : Nat) (f : Sail → Sail) : (s.updSail i f).groups = s.groups := rfl
@[simp] theorem State.updSail_tiers (s : State) (i : Nat) (f : Sail → Sail) : (s.updSail i f).tiers = s.tiers := rfl
@[simp] theorem State.updSail_mesh (s : State) (i : Nat) (f : Sail → Sail) : (s.updSail i f).mesh = s.mesh := rfl
@[simp] theorem State.updSail_rig (s : State) (i : Nat) (f : Sail → Sail) : (s.updSail i f).rig = s.rig := rfl
@[simp] theorem State.updSail_ryu (s : State) (i : Nat) (f : Sail → Sail) : (s.updSail i f).ryu = s.ryu := rfl
@[simp] theorem State.updSail_sec (s : State) (i : Nat) (f : Sail → Sail) : (s.updSail i f).sec = s.sec := rfl
@[simp] theorem State.updSail_rst (s : State) (i : Nat) (f : Sail → Sail) : (s.updSail i f).rst = s.rst := rfl
@[simp] theorem State.updSail_ttl (s : State) (i : Nat) (f : Sail → Sail) : (s.updSail i f).ttl = s.ttl := rfl
@[simp] theorem State.updSail_pwr (s : State) (i : Nat) (f : Sail → Sail) : (s.updSail i f).pwr = s.pwr := rfl
@[simp] theorem State.updSail_hif (s : State) (i : Nat) (f : Sail → Sail) : (s.updSail i f).hif = s.hif := rfl

/-! ### setYard -/

@[simp] theorem State.setYard_pending (s : State) (y : Nat) (v : Yard) : (s.setYard y v).pending = s.pending := rfl
@[simp] theorem State.setYard_time (s : State) (y : Nat) (v : Yard) : (s.setYard y v).time = s.time := rfl
@[simp] theorem State.setYard_free (s : State) (y : Nat) (v : Yard) : (s.setYard y v).free = s.free := rfl
@[simp] theorem State.setYard_mem (s : State) (y : Nat) (v : Yard) : (s.setYard y v).mem = s.mem := rfl
@[simp] theorem State.setYard_cores (s : State) (y : Nat) (v : Yard) : (s.setYard y v).cores = s.cores := rfl
@[simp] theorem State.setYard_ctxs (s : State) (y : Nat) (v : Yard) : (s.setYard y v).ctxs = s.ctxs := rfl
@[simp] theorem State.setYard_queues (s : State) (y : Nat) (v : Yard) : (s.setYard y v).queues = s.queues := rfl
@[simp] theorem State.setYard_sems (s : State) (y : Nat) (v : Yard) : (s.setYard y v).sems = s.sems := rfl
@[simp] theorem State.setYard_dma (s : State) (y : Nat) (v : Yard) : (s.setYard y v).dma = s.dma := rfl
@[simp] theorem State.setYard_sails (s : State) (y : Nat) (v : Yard) : (s.setYard y v).sails = s.sails := rfl
@[simp] theorem State.setYard_groups (s : State) (y : Nat) (v : Yard) : (s.setYard y v).groups = s.groups := rfl
@[simp] theorem State.setYard_tiers (s : State) (y : Nat) (v : Yard) : (s.setYard y v).tiers = s.tiers := rfl
@[simp] theorem State.setYard_mesh (s : State) (y : Nat) (v : Yard) : (s.setYard y v).mesh = s.mesh := rfl
@[simp] theorem State.setYard_rig (s : State) (y : Nat) (v : Yard) : (s.setYard y v).rig = s.rig := rfl
@[simp] theorem State.setYard_ryu (s : State) (y : Nat) (v : Yard) : (s.setYard y v).ryu = s.ryu := rfl
@[simp] theorem State.setYard_sec (s : State) (y : Nat) (v : Yard) : (s.setYard y v).sec = s.sec := rfl
@[simp] theorem State.setYard_rst (s : State) (y : Nat) (v : Yard) : (s.setYard y v).rst = s.rst := rfl
@[simp] theorem State.setYard_ttl (s : State) (y : Nat) (v : Yard) : (s.setYard y v).ttl = s.ttl := rfl
@[simp] theorem State.setYard_pwr (s : State) (y : Nat) (v : Yard) : (s.setYard y v).pwr = s.pwr := rfl
@[simp] theorem State.setYard_hif (s : State) (y : Nat) (v : Yard) : (s.setYard y v).hif = s.hif := rfl

/-! ### updYard -/

@[simp] theorem State.updYard_pending (s : State) (y : Nat) (f : Yard → Yard) : (s.updYard y f).pending = s.pending := rfl
@[simp] theorem State.updYard_time (s : State) (y : Nat) (f : Yard → Yard) : (s.updYard y f).time = s.time := rfl
@[simp] theorem State.updYard_free (s : State) (y : Nat) (f : Yard → Yard) : (s.updYard y f).free = s.free := rfl
@[simp] theorem State.updYard_mem (s : State) (y : Nat) (f : Yard → Yard) : (s.updYard y f).mem = s.mem := rfl
@[simp] theorem State.updYard_cores (s : State) (y : Nat) (f : Yard → Yard) : (s.updYard y f).cores = s.cores := rfl
@[simp] theorem State.updYard_ctxs (s : State) (y : Nat) (f : Yard → Yard) : (s.updYard y f).ctxs = s.ctxs := rfl
@[simp] theorem State.updYard_queues (s : State) (y : Nat) (f : Yard → Yard) : (s.updYard y f).queues = s.queues := rfl
@[simp] theorem State.updYard_sems (s : State) (y : Nat) (f : Yard → Yard) : (s.updYard y f).sems = s.sems := rfl
@[simp] theorem State.updYard_dma (s : State) (y : Nat) (f : Yard → Yard) : (s.updYard y f).dma = s.dma := rfl
@[simp] theorem State.updYard_sails (s : State) (y : Nat) (f : Yard → Yard) : (s.updYard y f).sails = s.sails := rfl
@[simp] theorem State.updYard_groups (s : State) (y : Nat) (f : Yard → Yard) : (s.updYard y f).groups = s.groups := rfl
@[simp] theorem State.updYard_tiers (s : State) (y : Nat) (f : Yard → Yard) : (s.updYard y f).tiers = s.tiers := rfl
@[simp] theorem State.updYard_mesh (s : State) (y : Nat) (f : Yard → Yard) : (s.updYard y f).mesh = s.mesh := rfl
@[simp] theorem State.updYard_rig (s : State) (y : Nat) (f : Yard → Yard) : (s.updYard y f).rig = s.rig := rfl
@[simp] theorem State.updYard_ryu (s : State) (y : Nat) (f : Yard → Yard) : (s.updYard y f).ryu = s.ryu := rfl
@[simp] theorem State.updYard_sec (s : State) (y : Nat) (f : Yard → Yard) : (s.updYard y f).sec = s.sec := rfl
@[simp] theorem State.updYard_rst (s : State) (y : Nat) (f : Yard → Yard) : (s.updYard y f).rst = s.rst := rfl
@[simp] theorem State.updYard_ttl (s : State) (y : Nat) (f : Yard → Yard) : (s.updYard y f).ttl = s.ttl := rfl
@[simp] theorem State.updYard_pwr (s : State) (y : Nat) (f : Yard → Yard) : (s.updYard y f).pwr = s.pwr := rfl
@[simp] theorem State.updYard_hif (s : State) (y : Nat) (f : Yard → Yard) : (s.updYard y f).hif = s.hif := rfl

/-! ### setGroup -/

@[simp] theorem State.setGroup_pending (s : State) (n : Nat) (v : Group) : (s.setGroup n v).pending = s.pending := rfl
@[simp] theorem State.setGroup_time (s : State) (n : Nat) (v : Group) : (s.setGroup n v).time = s.time := rfl
@[simp] theorem State.setGroup_free (s : State) (n : Nat) (v : Group) : (s.setGroup n v).free = s.free := rfl
@[simp] theorem State.setGroup_mem (s : State) (n : Nat) (v : Group) : (s.setGroup n v).mem = s.mem := rfl
@[simp] theorem State.setGroup_cores (s : State) (n : Nat) (v : Group) : (s.setGroup n v).cores = s.cores := rfl
@[simp] theorem State.setGroup_ctxs (s : State) (n : Nat) (v : Group) : (s.setGroup n v).ctxs = s.ctxs := rfl
@[simp] theorem State.setGroup_queues (s : State) (n : Nat) (v : Group) : (s.setGroup n v).queues = s.queues := rfl
@[simp] theorem State.setGroup_sems (s : State) (n : Nat) (v : Group) : (s.setGroup n v).sems = s.sems := rfl
@[simp] theorem State.setGroup_dma (s : State) (n : Nat) (v : Group) : (s.setGroup n v).dma = s.dma := rfl
@[simp] theorem State.setGroup_sails (s : State) (n : Nat) (v : Group) : (s.setGroup n v).sails = s.sails := rfl
@[simp] theorem State.setGroup_yards (s : State) (n : Nat) (v : Group) : (s.setGroup n v).yards = s.yards := rfl
@[simp] theorem State.setGroup_tiers (s : State) (n : Nat) (v : Group) : (s.setGroup n v).tiers = s.tiers := rfl
@[simp] theorem State.setGroup_mesh (s : State) (n : Nat) (v : Group) : (s.setGroup n v).mesh = s.mesh := rfl
@[simp] theorem State.setGroup_rig (s : State) (n : Nat) (v : Group) : (s.setGroup n v).rig = s.rig := rfl
@[simp] theorem State.setGroup_ryu (s : State) (n : Nat) (v : Group) : (s.setGroup n v).ryu = s.ryu := rfl
@[simp] theorem State.setGroup_sec (s : State) (n : Nat) (v : Group) : (s.setGroup n v).sec = s.sec := rfl
@[simp] theorem State.setGroup_rst (s : State) (n : Nat) (v : Group) : (s.setGroup n v).rst = s.rst := rfl
@[simp] theorem State.setGroup_ttl (s : State) (n : Nat) (v : Group) : (s.setGroup n v).ttl = s.ttl := rfl
@[simp] theorem State.setGroup_pwr (s : State) (n : Nat) (v : Group) : (s.setGroup n v).pwr = s.pwr := rfl
@[simp] theorem State.setGroup_hif (s : State) (n : Nat) (v : Group) : (s.setGroup n v).hif = s.hif := rfl

/-! ### setSlot -/

@[simp] theorem State.setSlot_pending (s : State) (k : Nat) (v : KeySlot) : (s.setSlot k v).pending = s.pending := rfl
@[simp] theorem State.setSlot_time (s : State) (k : Nat) (v : KeySlot) : (s.setSlot k v).time = s.time := rfl
@[simp] theorem State.setSlot_free (s : State) (k : Nat) (v : KeySlot) : (s.setSlot k v).free = s.free := rfl
@[simp] theorem State.setSlot_mem (s : State) (k : Nat) (v : KeySlot) : (s.setSlot k v).mem = s.mem := rfl
@[simp] theorem State.setSlot_cores (s : State) (k : Nat) (v : KeySlot) : (s.setSlot k v).cores = s.cores := rfl
@[simp] theorem State.setSlot_ctxs (s : State) (k : Nat) (v : KeySlot) : (s.setSlot k v).ctxs = s.ctxs := rfl
@[simp] theorem State.setSlot_queues (s : State) (k : Nat) (v : KeySlot) : (s.setSlot k v).queues = s.queues := rfl
@[simp] theorem State.setSlot_sems (s : State) (k : Nat) (v : KeySlot) : (s.setSlot k v).sems = s.sems := rfl
@[simp] theorem State.setSlot_dma (s : State) (k : Nat) (v : KeySlot) : (s.setSlot k v).dma = s.dma := rfl
@[simp] theorem State.setSlot_sails (s : State) (k : Nat) (v : KeySlot) : (s.setSlot k v).sails = s.sails := rfl
@[simp] theorem State.setSlot_yards (s : State) (k : Nat) (v : KeySlot) : (s.setSlot k v).yards = s.yards := rfl
@[simp] theorem State.setSlot_groups (s : State) (k : Nat) (v : KeySlot) : (s.setSlot k v).groups = s.groups := rfl
@[simp] theorem State.setSlot_tiers (s : State) (k : Nat) (v : KeySlot) : (s.setSlot k v).tiers = s.tiers := rfl
@[simp] theorem State.setSlot_mesh (s : State) (k : Nat) (v : KeySlot) : (s.setSlot k v).mesh = s.mesh := rfl
@[simp] theorem State.setSlot_rig (s : State) (k : Nat) (v : KeySlot) : (s.setSlot k v).rig = s.rig := rfl
@[simp] theorem State.setSlot_ryu (s : State) (k : Nat) (v : KeySlot) : (s.setSlot k v).ryu = s.ryu := rfl
@[simp] theorem State.setSlot_rst (s : State) (k : Nat) (v : KeySlot) : (s.setSlot k v).rst = s.rst := rfl
@[simp] theorem State.setSlot_ttl (s : State) (k : Nat) (v : KeySlot) : (s.setSlot k v).ttl = s.ttl := rfl
@[simp] theorem State.setSlot_pwr (s : State) (k : Nat) (v : KeySlot) : (s.setSlot k v).pwr = s.pwr := rfl
@[simp] theorem State.setSlot_hif (s : State) (k : Nat) (v : KeySlot) : (s.setSlot k v).hif = s.hif := rfl

/-! ### setPort -/

@[simp] theorem State.setPort_pending (s : State) (p : Nat) (v : RyuPort) : (s.setPort p v).pending = s.pending := rfl
@[simp] theorem State.setPort_time (s : State) (p : Nat) (v : RyuPort) : (s.setPort p v).time = s.time := rfl
@[simp] theorem State.setPort_free (s : State) (p : Nat) (v : RyuPort) : (s.setPort p v).free = s.free := rfl
@[simp] theorem State.setPort_mem (s : State) (p : Nat) (v : RyuPort) : (s.setPort p v).mem = s.mem := rfl
@[simp] theorem State.setPort_cores (s : State) (p : Nat) (v : RyuPort) : (s.setPort p v).cores = s.cores := rfl
@[simp] theorem State.setPort_ctxs (s : State) (p : Nat) (v : RyuPort) : (s.setPort p v).ctxs = s.ctxs := rfl
@[simp] theorem State.setPort_queues (s : State) (p : Nat) (v : RyuPort) : (s.setPort p v).queues = s.queues := rfl
@[simp] theorem State.setPort_sems (s : State) (p : Nat) (v : RyuPort) : (s.setPort p v).sems = s.sems := rfl
@[simp] theorem State.setPort_dma (s : State) (p : Nat) (v : RyuPort) : (s.setPort p v).dma = s.dma := rfl
@[simp] theorem State.setPort_sails (s : State) (p : Nat) (v : RyuPort) : (s.setPort p v).sails = s.sails := rfl
@[simp] theorem State.setPort_yards (s : State) (p : Nat) (v : RyuPort) : (s.setPort p v).yards = s.yards := rfl
@[simp] theorem State.setPort_groups (s : State) (p : Nat) (v : RyuPort) : (s.setPort p v).groups = s.groups := rfl
@[simp] theorem State.setPort_tiers (s : State) (p : Nat) (v : RyuPort) : (s.setPort p v).tiers = s.tiers := rfl
@[simp] theorem State.setPort_mesh (s : State) (p : Nat) (v : RyuPort) : (s.setPort p v).mesh = s.mesh := rfl
@[simp] theorem State.setPort_rig (s : State) (p : Nat) (v : RyuPort) : (s.setPort p v).rig = s.rig := rfl
@[simp] theorem State.setPort_sec (s : State) (p : Nat) (v : RyuPort) : (s.setPort p v).sec = s.sec := rfl
@[simp] theorem State.setPort_rst (s : State) (p : Nat) (v : RyuPort) : (s.setPort p v).rst = s.rst := rfl
@[simp] theorem State.setPort_ttl (s : State) (p : Nat) (v : RyuPort) : (s.setPort p v).ttl = s.ttl := rfl
@[simp] theorem State.setPort_pwr (s : State) (p : Nat) (v : RyuPort) : (s.setPort p v).pwr = s.pwr := rfl
@[simp] theorem State.setPort_hif (s : State) (p : Nat) (v : RyuPort) : (s.setPort p v).hif = s.hif := rfl

/-! ### updRig -/

@[simp] theorem State.updRig_pending (s : State) (f : RigSt → RigSt) : (s.updRig f).pending = s.pending := rfl
@[simp] theorem State.updRig_time (s : State) (f : RigSt → RigSt) : (s.updRig f).time = s.time := rfl
@[simp] theorem State.updRig_free (s : State) (f : RigSt → RigSt) : (s.updRig f).free = s.free := rfl
@[simp] theorem State.updRig_mem (s : State) (f : RigSt → RigSt) : (s.updRig f).mem = s.mem := rfl
@[simp] theorem State.updRig_cores (s : State) (f : RigSt → RigSt) : (s.updRig f).cores = s.cores := rfl
@[simp] theorem State.updRig_ctxs (s : State) (f : RigSt → RigSt) : (s.updRig f).ctxs = s.ctxs := rfl
@[simp] theorem State.updRig_queues (s : State) (f : RigSt → RigSt) : (s.updRig f).queues = s.queues := rfl
@[simp] theorem State.updRig_sems (s : State) (f : RigSt → RigSt) : (s.updRig f).sems = s.sems := rfl
@[simp] theorem State.updRig_dma (s : State) (f : RigSt → RigSt) : (s.updRig f).dma = s.dma := rfl
@[simp] theorem State.updRig_sails (s : State) (f : RigSt → RigSt) : (s.updRig f).sails = s.sails := rfl
@[simp] theorem State.updRig_yards (s : State) (f : RigSt → RigSt) : (s.updRig f).yards = s.yards := rfl
@[simp] theorem State.updRig_groups (s : State) (f : RigSt → RigSt) : (s.updRig f).groups = s.groups := rfl
@[simp] theorem State.updRig_tiers (s : State) (f : RigSt → RigSt) : (s.updRig f).tiers = s.tiers := rfl
@[simp] theorem State.updRig_mesh (s : State) (f : RigSt → RigSt) : (s.updRig f).mesh = s.mesh := rfl
@[simp] theorem State.updRig_ryu (s : State) (f : RigSt → RigSt) : (s.updRig f).ryu = s.ryu := rfl
@[simp] theorem State.updRig_sec (s : State) (f : RigSt → RigSt) : (s.updRig f).sec = s.sec := rfl
@[simp] theorem State.updRig_rst (s : State) (f : RigSt → RigSt) : (s.updRig f).rst = s.rst := rfl
@[simp] theorem State.updRig_ttl (s : State) (f : RigSt → RigSt) : (s.updRig f).ttl = s.ttl := rfl
@[simp] theorem State.updRig_pwr (s : State) (f : RigSt → RigSt) : (s.updRig f).pwr = s.pwr := rfl
@[simp] theorem State.updRig_hif (s : State) (f : RigSt → RigSt) : (s.updRig f).hif = s.hif := rfl

/-! ### updPwr -/

@[simp] theorem State.updPwr_pending (s : State) (f : PwrSt → PwrSt) : (s.updPwr f).pending = s.pending := rfl
@[simp] theorem State.updPwr_time (s : State) (f : PwrSt → PwrSt) : (s.updPwr f).time = s.time := rfl
@[simp] theorem State.updPwr_free (s : State) (f : PwrSt → PwrSt) : (s.updPwr f).free = s.free := rfl
@[simp] theorem State.updPwr_mem (s : State) (f : PwrSt → PwrSt) : (s.updPwr f).mem = s.mem := rfl
@[simp] theorem State.updPwr_cores (s : State) (f : PwrSt → PwrSt) : (s.updPwr f).cores = s.cores := rfl
@[simp] theorem State.updPwr_ctxs (s : State) (f : PwrSt → PwrSt) : (s.updPwr f).ctxs = s.ctxs := rfl
@[simp] theorem State.updPwr_queues (s : State) (f : PwrSt → PwrSt) : (s.updPwr f).queues = s.queues := rfl
@[simp] theorem State.updPwr_sems (s : State) (f : PwrSt → PwrSt) : (s.updPwr f).sems = s.sems := rfl
@[simp] theorem State.updPwr_dma (s : State) (f : PwrSt → PwrSt) : (s.updPwr f).dma = s.dma := rfl
@[simp] theorem State.updPwr_sails (s : State) (f : PwrSt → PwrSt) : (s.updPwr f).sails = s.sails := rfl
@[simp] theorem State.updPwr_yards (s : State) (f : PwrSt → PwrSt) : (s.updPwr f).yards = s.yards := rfl
@[simp] theorem State.updPwr_groups (s : State) (f : PwrSt → PwrSt) : (s.updPwr f).groups = s.groups := rfl
@[simp] theorem State.updPwr_tiers (s : State) (f : PwrSt → PwrSt) : (s.updPwr f).tiers = s.tiers := rfl
@[simp] theorem State.updPwr_mesh (s : State) (f : PwrSt → PwrSt) : (s.updPwr f).mesh = s.mesh := rfl
@[simp] theorem State.updPwr_rig (s : State) (f : PwrSt → PwrSt) : (s.updPwr f).rig = s.rig := rfl
@[simp] theorem State.updPwr_ryu (s : State) (f : PwrSt → PwrSt) : (s.updPwr f).ryu = s.ryu := rfl
@[simp] theorem State.updPwr_sec (s : State) (f : PwrSt → PwrSt) : (s.updPwr f).sec = s.sec := rfl
@[simp] theorem State.updPwr_rst (s : State) (f : PwrSt → PwrSt) : (s.updPwr f).rst = s.rst := rfl
@[simp] theorem State.updPwr_ttl (s : State) (f : PwrSt → PwrSt) : (s.updPwr f).ttl = s.ttl := rfl
@[simp] theorem State.updPwr_hif (s : State) (f : PwrSt → PwrSt) : (s.updPwr f).hif = s.hif := rfl

/-! ### updRst -/

@[simp] theorem State.updRst_pending (s : State) (f : RstSt → RstSt) : (s.updRst f).pending = s.pending := rfl
@[simp] theorem State.updRst_time (s : State) (f : RstSt → RstSt) : (s.updRst f).time = s.time := rfl
@[simp] theorem State.updRst_free (s : State) (f : RstSt → RstSt) : (s.updRst f).free = s.free := rfl
@[simp] theorem State.updRst_mem (s : State) (f : RstSt → RstSt) : (s.updRst f).mem = s.mem := rfl
@[simp] theorem State.updRst_cores (s : State) (f : RstSt → RstSt) : (s.updRst f).cores = s.cores := rfl
@[simp] theorem State.updRst_ctxs (s : State) (f : RstSt → RstSt) : (s.updRst f).ctxs = s.ctxs := rfl
@[simp] theorem State.updRst_queues (s : State) (f : RstSt → RstSt) : (s.updRst f).queues = s.queues := rfl
@[simp] theorem State.updRst_sems (s : State) (f : RstSt → RstSt) : (s.updRst f).sems = s.sems := rfl
@[simp] theorem State.updRst_dma (s : State) (f : RstSt → RstSt) : (s.updRst f).dma = s.dma := rfl
@[simp] theorem State.updRst_sails (s : State) (f : RstSt → RstSt) : (s.updRst f).sails = s.sails := rfl
@[simp] theorem State.updRst_yards (s : State) (f : RstSt → RstSt) : (s.updRst f).yards = s.yards := rfl
@[simp] theorem State.updRst_groups (s : State) (f : RstSt → RstSt) : (s.updRst f).groups = s.groups := rfl
@[simp] theorem State.updRst_tiers (s : State) (f : RstSt → RstSt) : (s.updRst f).tiers = s.tiers := rfl
@[simp] theorem State.updRst_mesh (s : State) (f : RstSt → RstSt) : (s.updRst f).mesh = s.mesh := rfl
@[simp] theorem State.updRst_rig (s : State) (f : RstSt → RstSt) : (s.updRst f).rig = s.rig := rfl
@[simp] theorem State.updRst_ryu (s : State) (f : RstSt → RstSt) : (s.updRst f).ryu = s.ryu := rfl
@[simp] theorem State.updRst_sec (s : State) (f : RstSt → RstSt) : (s.updRst f).sec = s.sec := rfl
@[simp] theorem State.updRst_ttl (s : State) (f : RstSt → RstSt) : (s.updRst f).ttl = s.ttl := rfl
@[simp] theorem State.updRst_pwr (s : State) (f : RstSt → RstSt) : (s.updRst f).pwr = s.pwr := rfl
@[simp] theorem State.updRst_hif (s : State) (f : RstSt → RstSt) : (s.updRst f).hif = s.hif := rfl

/-! ### updSec -/

@[simp] theorem State.updSec_pending (s : State) (f : SecSt → SecSt) : (s.updSec f).pending = s.pending := rfl
@[simp] theorem State.updSec_time (s : State) (f : SecSt → SecSt) : (s.updSec f).time = s.time := rfl
@[simp] theorem State.updSec_free (s : State) (f : SecSt → SecSt) : (s.updSec f).free = s.free := rfl
@[simp] theorem State.updSec_mem (s : State) (f : SecSt → SecSt) : (s.updSec f).mem = s.mem := rfl
@[simp] theorem State.updSec_cores (s : State) (f : SecSt → SecSt) : (s.updSec f).cores = s.cores := rfl
@[simp] theorem State.updSec_ctxs (s : State) (f : SecSt → SecSt) : (s.updSec f).ctxs = s.ctxs := rfl
@[simp] theorem State.updSec_queues (s : State) (f : SecSt → SecSt) : (s.updSec f).queues = s.queues := rfl
@[simp] theorem State.updSec_sems (s : State) (f : SecSt → SecSt) : (s.updSec f).sems = s.sems := rfl
@[simp] theorem State.updSec_dma (s : State) (f : SecSt → SecSt) : (s.updSec f).dma = s.dma := rfl
@[simp] theorem State.updSec_sails (s : State) (f : SecSt → SecSt) : (s.updSec f).sails = s.sails := rfl
@[simp] theorem State.updSec_yards (s : State) (f : SecSt → SecSt) : (s.updSec f).yards = s.yards := rfl
@[simp] theorem State.updSec_groups (s : State) (f : SecSt → SecSt) : (s.updSec f).groups = s.groups := rfl
@[simp] theorem State.updSec_tiers (s : State) (f : SecSt → SecSt) : (s.updSec f).tiers = s.tiers := rfl
@[simp] theorem State.updSec_mesh (s : State) (f : SecSt → SecSt) : (s.updSec f).mesh = s.mesh := rfl
@[simp] theorem State.updSec_rig (s : State) (f : SecSt → SecSt) : (s.updSec f).rig = s.rig := rfl
@[simp] theorem State.updSec_ryu (s : State) (f : SecSt → SecSt) : (s.updSec f).ryu = s.ryu := rfl
@[simp] theorem State.updSec_rst (s : State) (f : SecSt → SecSt) : (s.updSec f).rst = s.rst := rfl
@[simp] theorem State.updSec_ttl (s : State) (f : SecSt → SecSt) : (s.updSec f).ttl = s.ttl := rfl
@[simp] theorem State.updSec_pwr (s : State) (f : SecSt → SecSt) : (s.updSec f).pwr = s.pwr := rfl
@[simp] theorem State.updSec_hif (s : State) (f : SecSt → SecSt) : (s.updSec f).hif = s.hif := rfl

/-! ### Reading back -/

@[simp] theorem State.core_setCore_self (s : State) (k : Nat) (v : CoreSlot) : (s.setCore k v).core k = v := Tbl.get_set_self _ _ _ _
theorem State.core_setCore_ne (s : State) {k j : Nat} (v : CoreSlot) (h : j ≠ k) : (s.setCore k v).core j = s.core j :=
  Tbl.get_set_ne _ _ _ _ h
@[simp] theorem State.setCore_setCore (s : State) (k : Nat) (v w : CoreSlot) : (s.setCore k v).setCore k w = s.setCore k w := by
  simp [State.setCore]
@[simp] theorem State.ctx_setCtx_self (s : State) (c : Nat) (v : Ctx) : (s.setCtx c v).ctx c = v := Tbl.get_set_self _ _ _ _
theorem State.ctx_setCtx_ne (s : State) {c j : Nat} (v : Ctx) (h : j ≠ c) : (s.setCtx c v).ctx j = s.ctx j :=
  Tbl.get_set_ne _ _ _ _ h
@[simp] theorem State.setCtx_setCtx (s : State) (c : Nat) (v w : Ctx) : (s.setCtx c v).setCtx c w = s.setCtx c w := by
  simp [State.setCtx]
@[simp] theorem State.queue_setQueue_self (s : State) (q : Nat) (v : Queue) : (s.setQueue q v).queue q = v := Tbl.get_set_self _ _ _ _
theorem State.queue_setQueue_ne (s : State) {q j : Nat} (v : Queue) (h : j ≠ q) : (s.setQueue q v).queue j = s.queue j :=
  Tbl.get_set_ne _ _ _ _ h
@[simp] theorem State.setQueue_setQueue (s : State) (q : Nat) (v w : Queue) : (s.setQueue q v).setQueue q w = s.setQueue q w := by
  simp [State.setQueue]
@[simp] theorem State.sem_setSem_self (s : State) (i : Nat) (v : Sem) : (s.setSem i v).sem i = v := Tbl.get_set_self _ _ _ _
theorem State.sem_setSem_ne (s : State) {i j : Nat} (v : Sem) (h : j ≠ i) : (s.setSem i v).sem j = s.sem j :=
  Tbl.get_set_ne _ _ _ _ h
@[simp] theorem State.setSem_setSem (s : State) (i : Nat) (v w : Sem) : (s.setSem i v).setSem i w = s.setSem i w := by
  simp [State.setSem]
@[simp] theorem State.engine_setEngine_self (s : State) (e : Nat) (v : DmaEng) : (s.setEngine e v).engine e = v := Tbl.get_set_self _ _ _ _
theorem State.engine_setEngine_ne (s : State) {e j : Nat} (v : DmaEng) (h : j ≠ e) : (s.setEngine e v).engine j = s.engine j :=
  Tbl.get_set_ne _ _ _ _ h
@[simp] theorem State.setEngine_setEngine (s : State) (e : Nat) (v w : DmaEng) : (s.setEngine e v).setEngine e w = s.setEngine e w := by
  simp [State.setEngine]
@[simp] theorem State.sail_setSail_self (s : State) (i : Nat) (v : Sail) : (s.setSail i v).sail i = v := Tbl.get_set_self _ _ _ _
theorem State.sail_setSail_ne (s : State) {i j : Nat} (v : Sail) (h : j ≠ i) : (s.setSail i v).sail j = s.sail j :=
  Tbl.get_set_ne _ _ _ _ h
@[simp] theorem State.setSail_setSail (s : State) (i : Nat) (v w : Sail) : (s.setSail i v).setSail i w = s.setSail i w := by
  simp [State.setSail]
@[simp] theorem State.yard_setYard_self (s : State) (y : Nat) (v : Yard) : (s.setYard y v).yard y = v := Tbl.get_set_self _ _ _ _
theorem State.yard_setYard_ne (s : State) {y j : Nat} (v : Yard) (h : j ≠ y) : (s.setYard y v).yard j = s.yard j :=
  Tbl.get_set_ne _ _ _ _ h
@[simp] theorem State.setYard_setYard (s : State) (y : Nat) (v w : Yard) : (s.setYard y v).setYard y w = s.setYard y w := by
  simp [State.setYard]
@[simp] theorem State.group_setGroup_self (s : State) (n : Nat) (v : Group) : (s.setGroup n v).group n = v := Tbl.get_set_self _ _ _ _
theorem State.group_setGroup_ne (s : State) {n j : Nat} (v : Group) (h : j ≠ n) : (s.setGroup n v).group j = s.group j :=
  Tbl.get_set_ne _ _ _ _ h
@[simp] theorem State.setGroup_setGroup (s : State) (n : Nat) (v w : Group) : (s.setGroup n v).setGroup n w = s.setGroup n w := by
  simp [State.setGroup]
@[simp] theorem State.slot_setSlot_self (s : State) (k : Nat) (v : KeySlot) : (s.setSlot k v).slot k = v := Tbl.get_set_self _ _ _ _
theorem State.slot_setSlot_ne (s : State) {k j : Nat} (v : KeySlot) (h : j ≠ k) : (s.setSlot k v).slot j = s.slot j :=
  Tbl.get_set_ne _ _ _ _ h
@[simp] theorem State.setSlot_setSlot (s : State) (k : Nat) (v w : KeySlot) : (s.setSlot k v).setSlot k w = s.setSlot k w := by
  simp [State.setSlot]
@[simp] theorem State.port_setPort_self (s : State) (p : Nat) (v : RyuPort) : (s.setPort p v).port p = v := Tbl.get_set_self _ _ _ _
theorem State.port_setPort_ne (s : State) {p j : Nat} (v : RyuPort) (h : j ≠ p) : (s.setPort p v).port j = s.port j :=
  Tbl.get_set_ne _ _ _ _ h
@[simp] theorem State.setPort_setPort (s : State) (p : Nat) (v w : RyuPort) : (s.setPort p v).setPort p w = s.setPort p w := by
  simp [State.setPort]

/-! ### Reads through the updates of other fields -/

@[simp] theorem State.core_setCtx (s : State) (c : Nat) (v : Ctx) (j : Nat) : (s.setCtx c v).core j = s.core j := rfl
@[simp] theorem State.core_updCtx (s : State) (c : Nat) (f : Ctx → Ctx) (j : Nat) : (s.updCtx c f).core j = s.core j := rfl
@[simp] theorem State.core_setQueue (s : State) (q : Nat) (v : Queue) (j : Nat) : (s.setQueue q v).core j = s.core j := rfl
@[simp] theorem State.core_updQueue (s : State) (q : Nat) (f : Queue → Queue) (j : Nat) : (s.updQueue q f).core j = s.core j := rfl
@[simp] theorem State.core_setSem (s : State) (i : Nat) (v : Sem) (j : Nat) : (s.setSem i v).core j = s.core j := rfl
@[simp] theorem State.core_setEngine (s : State) (e : Nat) (v : DmaEng) (j : Nat) : (s.setEngine e v).core j = s.core j := rfl
@[simp] theorem State.core_setSail (s : State) (i : Nat) (v : Sail) (j : Nat) : (s.setSail i v).core j = s.core j := rfl
@[simp] theorem State.core_updSail (s : State) (i : Nat) (f : Sail → Sail) (j : Nat) : (s.updSail i f).core j = s.core j := rfl
@[simp] theorem State.core_setYard (s : State) (y : Nat) (v : Yard) (j : Nat) : (s.setYard y v).core j = s.core j := rfl
@[simp] theorem State.core_updYard (s : State) (y : Nat) (f : Yard → Yard) (j : Nat) : (s.updYard y f).core j = s.core j := rfl
@[simp] theorem State.core_setGroup (s : State) (n : Nat) (v : Group) (j : Nat) : (s.setGroup n v).core j = s.core j := rfl
@[simp] theorem State.core_setSlot (s : State) (k : Nat) (v : KeySlot) (j : Nat) : (s.setSlot k v).core j = s.core j := rfl
@[simp] theorem State.core_setPort (s : State) (p : Nat) (v : RyuPort) (j : Nat) : (s.setPort p v).core j = s.core j := rfl
@[simp] theorem State.core_updRig (s : State) (f : RigSt → RigSt) (j : Nat) : (s.updRig f).core j = s.core j := rfl
@[simp] theorem State.core_updPwr (s : State) (f : PwrSt → PwrSt) (j : Nat) : (s.updPwr f).core j = s.core j := rfl
@[simp] theorem State.core_updRst (s : State) (f : RstSt → RstSt) (j : Nat) : (s.updRst f).core j = s.core j := rfl
@[simp] theorem State.core_updSec (s : State) (f : SecSt → SecSt) (j : Nat) : (s.updSec f).core j = s.core j := rfl
@[simp] theorem State.ctx_setCore (s : State) (k : Nat) (v : CoreSlot) (j : Nat) : (s.setCore k v).ctx j = s.ctx j := rfl
@[simp] theorem State.ctx_setProg (s : State) (k : Nat) (v : Option Prog) (j : Nat) : (s.setProg k v).ctx j = s.ctx j := rfl
@[simp] theorem State.ctx_setQueue (s : State) (q : Nat) (v : Queue) (j : Nat) : (s.setQueue q v).ctx j = s.ctx j := rfl
@[simp] theorem State.ctx_updQueue (s : State) (q : Nat) (f : Queue → Queue) (j : Nat) : (s.updQueue q f).ctx j = s.ctx j := rfl
@[simp] theorem State.ctx_setSem (s : State) (i : Nat) (v : Sem) (j : Nat) : (s.setSem i v).ctx j = s.ctx j := rfl
@[simp] theorem State.ctx_setEngine (s : State) (e : Nat) (v : DmaEng) (j : Nat) : (s.setEngine e v).ctx j = s.ctx j := rfl
@[simp] theorem State.ctx_setSail (s : State) (i : Nat) (v : Sail) (j : Nat) : (s.setSail i v).ctx j = s.ctx j := rfl
@[simp] theorem State.ctx_updSail (s : State) (i : Nat) (f : Sail → Sail) (j : Nat) : (s.updSail i f).ctx j = s.ctx j := rfl
@[simp] theorem State.ctx_setYard (s : State) (y : Nat) (v : Yard) (j : Nat) : (s.setYard y v).ctx j = s.ctx j := rfl
@[simp] theorem State.ctx_updYard (s : State) (y : Nat) (f : Yard → Yard) (j : Nat) : (s.updYard y f).ctx j = s.ctx j := rfl
@[simp] theorem State.ctx_setGroup (s : State) (n : Nat) (v : Group) (j : Nat) : (s.setGroup n v).ctx j = s.ctx j := rfl
@[simp] theorem State.ctx_setSlot (s : State) (k : Nat) (v : KeySlot) (j : Nat) : (s.setSlot k v).ctx j = s.ctx j := rfl
@[simp] theorem State.ctx_setPort (s : State) (p : Nat) (v : RyuPort) (j : Nat) : (s.setPort p v).ctx j = s.ctx j := rfl
@[simp] theorem State.ctx_updRig (s : State) (f : RigSt → RigSt) (j : Nat) : (s.updRig f).ctx j = s.ctx j := rfl
@[simp] theorem State.ctx_updPwr (s : State) (f : PwrSt → PwrSt) (j : Nat) : (s.updPwr f).ctx j = s.ctx j := rfl
@[simp] theorem State.ctx_updRst (s : State) (f : RstSt → RstSt) (j : Nat) : (s.updRst f).ctx j = s.ctx j := rfl
@[simp] theorem State.ctx_updSec (s : State) (f : SecSt → SecSt) (j : Nat) : (s.updSec f).ctx j = s.ctx j := rfl
@[simp] theorem State.queue_setCore (s : State) (k : Nat) (v : CoreSlot) (j : Nat) : (s.setCore k v).queue j = s.queue j := rfl
@[simp] theorem State.queue_setProg (s : State) (k : Nat) (v : Option Prog) (j : Nat) : (s.setProg k v).queue j = s.queue j := rfl
@[simp] theorem State.queue_setCtx (s : State) (c : Nat) (v : Ctx) (j : Nat) : (s.setCtx c v).queue j = s.queue j := rfl
@[simp] theorem State.queue_updCtx (s : State) (c : Nat) (f : Ctx → Ctx) (j : Nat) : (s.updCtx c f).queue j = s.queue j := rfl
@[simp] theorem State.queue_setSem (s : State) (i : Nat) (v : Sem) (j : Nat) : (s.setSem i v).queue j = s.queue j := rfl
@[simp] theorem State.queue_setEngine (s : State) (e : Nat) (v : DmaEng) (j : Nat) : (s.setEngine e v).queue j = s.queue j := rfl
@[simp] theorem State.queue_setSail (s : State) (i : Nat) (v : Sail) (j : Nat) : (s.setSail i v).queue j = s.queue j := rfl
@[simp] theorem State.queue_updSail (s : State) (i : Nat) (f : Sail → Sail) (j : Nat) : (s.updSail i f).queue j = s.queue j := rfl
@[simp] theorem State.queue_setYard (s : State) (y : Nat) (v : Yard) (j : Nat) : (s.setYard y v).queue j = s.queue j := rfl
@[simp] theorem State.queue_updYard (s : State) (y : Nat) (f : Yard → Yard) (j : Nat) : (s.updYard y f).queue j = s.queue j := rfl
@[simp] theorem State.queue_setGroup (s : State) (n : Nat) (v : Group) (j : Nat) : (s.setGroup n v).queue j = s.queue j := rfl
@[simp] theorem State.queue_setSlot (s : State) (k : Nat) (v : KeySlot) (j : Nat) : (s.setSlot k v).queue j = s.queue j := rfl
@[simp] theorem State.queue_setPort (s : State) (p : Nat) (v : RyuPort) (j : Nat) : (s.setPort p v).queue j = s.queue j := rfl
@[simp] theorem State.queue_updRig (s : State) (f : RigSt → RigSt) (j : Nat) : (s.updRig f).queue j = s.queue j := rfl
@[simp] theorem State.queue_updPwr (s : State) (f : PwrSt → PwrSt) (j : Nat) : (s.updPwr f).queue j = s.queue j := rfl
@[simp] theorem State.queue_updRst (s : State) (f : RstSt → RstSt) (j : Nat) : (s.updRst f).queue j = s.queue j := rfl
@[simp] theorem State.queue_updSec (s : State) (f : SecSt → SecSt) (j : Nat) : (s.updSec f).queue j = s.queue j := rfl
@[simp] theorem State.sem_setCore (s : State) (k : Nat) (v : CoreSlot) (j : Nat) : (s.setCore k v).sem j = s.sem j := rfl
@[simp] theorem State.sem_setProg (s : State) (k : Nat) (v : Option Prog) (j : Nat) : (s.setProg k v).sem j = s.sem j := rfl
@[simp] theorem State.sem_setCtx (s : State) (c : Nat) (v : Ctx) (j : Nat) : (s.setCtx c v).sem j = s.sem j := rfl
@[simp] theorem State.sem_updCtx (s : State) (c : Nat) (f : Ctx → Ctx) (j : Nat) : (s.updCtx c f).sem j = s.sem j := rfl
@[simp] theorem State.sem_setQueue (s : State) (q : Nat) (v : Queue) (j : Nat) : (s.setQueue q v).sem j = s.sem j := rfl
@[simp] theorem State.sem_updQueue (s : State) (q : Nat) (f : Queue → Queue) (j : Nat) : (s.updQueue q f).sem j = s.sem j := rfl
@[simp] theorem State.sem_setEngine (s : State) (e : Nat) (v : DmaEng) (j : Nat) : (s.setEngine e v).sem j = s.sem j := rfl
@[simp] theorem State.sem_setSail (s : State) (i : Nat) (v : Sail) (j : Nat) : (s.setSail i v).sem j = s.sem j := rfl
@[simp] theorem State.sem_updSail (s : State) (i : Nat) (f : Sail → Sail) (j : Nat) : (s.updSail i f).sem j = s.sem j := rfl
@[simp] theorem State.sem_setYard (s : State) (y : Nat) (v : Yard) (j : Nat) : (s.setYard y v).sem j = s.sem j := rfl
@[simp] theorem State.sem_updYard (s : State) (y : Nat) (f : Yard → Yard) (j : Nat) : (s.updYard y f).sem j = s.sem j := rfl
@[simp] theorem State.sem_setGroup (s : State) (n : Nat) (v : Group) (j : Nat) : (s.setGroup n v).sem j = s.sem j := rfl
@[simp] theorem State.sem_setSlot (s : State) (k : Nat) (v : KeySlot) (j : Nat) : (s.setSlot k v).sem j = s.sem j := rfl
@[simp] theorem State.sem_setPort (s : State) (p : Nat) (v : RyuPort) (j : Nat) : (s.setPort p v).sem j = s.sem j := rfl
@[simp] theorem State.sem_updRig (s : State) (f : RigSt → RigSt) (j : Nat) : (s.updRig f).sem j = s.sem j := rfl
@[simp] theorem State.sem_updPwr (s : State) (f : PwrSt → PwrSt) (j : Nat) : (s.updPwr f).sem j = s.sem j := rfl
@[simp] theorem State.sem_updRst (s : State) (f : RstSt → RstSt) (j : Nat) : (s.updRst f).sem j = s.sem j := rfl
@[simp] theorem State.sem_updSec (s : State) (f : SecSt → SecSt) (j : Nat) : (s.updSec f).sem j = s.sem j := rfl
@[simp] theorem State.engine_setCore (s : State) (k : Nat) (v : CoreSlot) (j : Nat) : (s.setCore k v).engine j = s.engine j := rfl
@[simp] theorem State.engine_setProg (s : State) (k : Nat) (v : Option Prog) (j : Nat) : (s.setProg k v).engine j = s.engine j := rfl
@[simp] theorem State.engine_setCtx (s : State) (c : Nat) (v : Ctx) (j : Nat) : (s.setCtx c v).engine j = s.engine j := rfl
@[simp] theorem State.engine_updCtx (s : State) (c : Nat) (f : Ctx → Ctx) (j : Nat) : (s.updCtx c f).engine j = s.engine j := rfl
@[simp] theorem State.engine_setQueue (s : State) (q : Nat) (v : Queue) (j : Nat) : (s.setQueue q v).engine j = s.engine j := rfl
@[simp] theorem State.engine_updQueue (s : State) (q : Nat) (f : Queue → Queue) (j : Nat) : (s.updQueue q f).engine j = s.engine j := rfl
@[simp] theorem State.engine_setSem (s : State) (i : Nat) (v : Sem) (j : Nat) : (s.setSem i v).engine j = s.engine j := rfl
@[simp] theorem State.engine_setSail (s : State) (i : Nat) (v : Sail) (j : Nat) : (s.setSail i v).engine j = s.engine j := rfl
@[simp] theorem State.engine_updSail (s : State) (i : Nat) (f : Sail → Sail) (j : Nat) : (s.updSail i f).engine j = s.engine j := rfl
@[simp] theorem State.engine_setYard (s : State) (y : Nat) (v : Yard) (j : Nat) : (s.setYard y v).engine j = s.engine j := rfl
@[simp] theorem State.engine_updYard (s : State) (y : Nat) (f : Yard → Yard) (j : Nat) : (s.updYard y f).engine j = s.engine j := rfl
@[simp] theorem State.engine_setGroup (s : State) (n : Nat) (v : Group) (j : Nat) : (s.setGroup n v).engine j = s.engine j := rfl
@[simp] theorem State.engine_setSlot (s : State) (k : Nat) (v : KeySlot) (j : Nat) : (s.setSlot k v).engine j = s.engine j := rfl
@[simp] theorem State.engine_setPort (s : State) (p : Nat) (v : RyuPort) (j : Nat) : (s.setPort p v).engine j = s.engine j := rfl
@[simp] theorem State.engine_updRig (s : State) (f : RigSt → RigSt) (j : Nat) : (s.updRig f).engine j = s.engine j := rfl
@[simp] theorem State.engine_updPwr (s : State) (f : PwrSt → PwrSt) (j : Nat) : (s.updPwr f).engine j = s.engine j := rfl
@[simp] theorem State.engine_updRst (s : State) (f : RstSt → RstSt) (j : Nat) : (s.updRst f).engine j = s.engine j := rfl
@[simp] theorem State.engine_updSec (s : State) (f : SecSt → SecSt) (j : Nat) : (s.updSec f).engine j = s.engine j := rfl
@[simp] theorem State.sail_setCore (s : State) (k : Nat) (v : CoreSlot) (j : Nat) : (s.setCore k v).sail j = s.sail j := rfl
@[simp] theorem State.sail_setProg (s : State) (k : Nat) (v : Option Prog) (j : Nat) : (s.setProg k v).sail j = s.sail j := rfl
@[simp] theorem State.sail_setCtx (s : State) (c : Nat) (v : Ctx) (j : Nat) : (s.setCtx c v).sail j = s.sail j := rfl
@[simp] theorem State.sail_updCtx (s : State) (c : Nat) (f : Ctx → Ctx) (j : Nat) : (s.updCtx c f).sail j = s.sail j := rfl
@[simp] theorem State.sail_setQueue (s : State) (q : Nat) (v : Queue) (j : Nat) : (s.setQueue q v).sail j = s.sail j := rfl
@[simp] theorem State.sail_updQueue (s : State) (q : Nat) (f : Queue → Queue) (j : Nat) : (s.updQueue q f).sail j = s.sail j := rfl
@[simp] theorem State.sail_setSem (s : State) (i : Nat) (v : Sem) (j : Nat) : (s.setSem i v).sail j = s.sail j := rfl
@[simp] theorem State.sail_setEngine (s : State) (e : Nat) (v : DmaEng) (j : Nat) : (s.setEngine e v).sail j = s.sail j := rfl
@[simp] theorem State.sail_setYard (s : State) (y : Nat) (v : Yard) (j : Nat) : (s.setYard y v).sail j = s.sail j := rfl
@[simp] theorem State.sail_updYard (s : State) (y : Nat) (f : Yard → Yard) (j : Nat) : (s.updYard y f).sail j = s.sail j := rfl
@[simp] theorem State.sail_setGroup (s : State) (n : Nat) (v : Group) (j : Nat) : (s.setGroup n v).sail j = s.sail j := rfl
@[simp] theorem State.sail_setSlot (s : State) (k : Nat) (v : KeySlot) (j : Nat) : (s.setSlot k v).sail j = s.sail j := rfl
@[simp] theorem State.sail_setPort (s : State) (p : Nat) (v : RyuPort) (j : Nat) : (s.setPort p v).sail j = s.sail j := rfl
@[simp] theorem State.sail_updRig (s : State) (f : RigSt → RigSt) (j : Nat) : (s.updRig f).sail j = s.sail j := rfl
@[simp] theorem State.sail_updPwr (s : State) (f : PwrSt → PwrSt) (j : Nat) : (s.updPwr f).sail j = s.sail j := rfl
@[simp] theorem State.sail_updRst (s : State) (f : RstSt → RstSt) (j : Nat) : (s.updRst f).sail j = s.sail j := rfl
@[simp] theorem State.sail_updSec (s : State) (f : SecSt → SecSt) (j : Nat) : (s.updSec f).sail j = s.sail j := rfl
@[simp] theorem State.yard_setCore (s : State) (k : Nat) (v : CoreSlot) (j : Nat) : (s.setCore k v).yard j = s.yard j := rfl
@[simp] theorem State.yard_setProg (s : State) (k : Nat) (v : Option Prog) (j : Nat) : (s.setProg k v).yard j = s.yard j := rfl
@[simp] theorem State.yard_setCtx (s : State) (c : Nat) (v : Ctx) (j : Nat) : (s.setCtx c v).yard j = s.yard j := rfl
@[simp] theorem State.yard_updCtx (s : State) (c : Nat) (f : Ctx → Ctx) (j : Nat) : (s.updCtx c f).yard j = s.yard j := rfl
@[simp] theorem State.yard_setQueue (s : State) (q : Nat) (v : Queue) (j : Nat) : (s.setQueue q v).yard j = s.yard j := rfl
@[simp] theorem State.yard_updQueue (s : State) (q : Nat) (f : Queue → Queue) (j : Nat) : (s.updQueue q f).yard j = s.yard j := rfl
@[simp] theorem State.yard_setSem (s : State) (i : Nat) (v : Sem) (j : Nat) : (s.setSem i v).yard j = s.yard j := rfl
@[simp] theorem State.yard_setEngine (s : State) (e : Nat) (v : DmaEng) (j : Nat) : (s.setEngine e v).yard j = s.yard j := rfl
@[simp] theorem State.yard_setSail (s : State) (i : Nat) (v : Sail) (j : Nat) : (s.setSail i v).yard j = s.yard j := rfl
@[simp] theorem State.yard_updSail (s : State) (i : Nat) (f : Sail → Sail) (j : Nat) : (s.updSail i f).yard j = s.yard j := rfl
@[simp] theorem State.yard_setGroup (s : State) (n : Nat) (v : Group) (j : Nat) : (s.setGroup n v).yard j = s.yard j := rfl
@[simp] theorem State.yard_setSlot (s : State) (k : Nat) (v : KeySlot) (j : Nat) : (s.setSlot k v).yard j = s.yard j := rfl
@[simp] theorem State.yard_setPort (s : State) (p : Nat) (v : RyuPort) (j : Nat) : (s.setPort p v).yard j = s.yard j := rfl
@[simp] theorem State.yard_updRig (s : State) (f : RigSt → RigSt) (j : Nat) : (s.updRig f).yard j = s.yard j := rfl
@[simp] theorem State.yard_updPwr (s : State) (f : PwrSt → PwrSt) (j : Nat) : (s.updPwr f).yard j = s.yard j := rfl
@[simp] theorem State.yard_updRst (s : State) (f : RstSt → RstSt) (j : Nat) : (s.updRst f).yard j = s.yard j := rfl
@[simp] theorem State.yard_updSec (s : State) (f : SecSt → SecSt) (j : Nat) : (s.updSec f).yard j = s.yard j := rfl
@[simp] theorem State.group_setCore (s : State) (k : Nat) (v : CoreSlot) (j : Nat) : (s.setCore k v).group j = s.group j := rfl
@[simp] theorem State.group_setProg (s : State) (k : Nat) (v : Option Prog) (j : Nat) : (s.setProg k v).group j = s.group j := rfl
@[simp] theorem State.group_setCtx (s : State) (c : Nat) (v : Ctx) (j : Nat) : (s.setCtx c v).group j = s.group j := rfl
@[simp] theorem State.group_updCtx (s : State) (c : Nat) (f : Ctx → Ctx) (j : Nat) : (s.updCtx c f).group j = s.group j := rfl
@[simp] theorem State.group_setQueue (s : State) (q : Nat) (v : Queue) (j : Nat) : (s.setQueue q v).group j = s.group j := rfl
@[simp] theorem State.group_updQueue (s : State) (q : Nat) (f : Queue → Queue) (j : Nat) : (s.updQueue q f).group j = s.group j := rfl
@[simp] theorem State.group_setSem (s : State) (i : Nat) (v : Sem) (j : Nat) : (s.setSem i v).group j = s.group j := rfl
@[simp] theorem State.group_setEngine (s : State) (e : Nat) (v : DmaEng) (j : Nat) : (s.setEngine e v).group j = s.group j := rfl
@[simp] theorem State.group_setSail (s : State) (i : Nat) (v : Sail) (j : Nat) : (s.setSail i v).group j = s.group j := rfl
@[simp] theorem State.group_updSail (s : State) (i : Nat) (f : Sail → Sail) (j : Nat) : (s.updSail i f).group j = s.group j := rfl
@[simp] theorem State.group_setYard (s : State) (y : Nat) (v : Yard) (j : Nat) : (s.setYard y v).group j = s.group j := rfl
@[simp] theorem State.group_updYard (s : State) (y : Nat) (f : Yard → Yard) (j : Nat) : (s.updYard y f).group j = s.group j := rfl
@[simp] theorem State.group_setSlot (s : State) (k : Nat) (v : KeySlot) (j : Nat) : (s.setSlot k v).group j = s.group j := rfl
@[simp] theorem State.group_setPort (s : State) (p : Nat) (v : RyuPort) (j : Nat) : (s.setPort p v).group j = s.group j := rfl
@[simp] theorem State.group_updRig (s : State) (f : RigSt → RigSt) (j : Nat) : (s.updRig f).group j = s.group j := rfl
@[simp] theorem State.group_updPwr (s : State) (f : PwrSt → PwrSt) (j : Nat) : (s.updPwr f).group j = s.group j := rfl
@[simp] theorem State.group_updRst (s : State) (f : RstSt → RstSt) (j : Nat) : (s.updRst f).group j = s.group j := rfl
@[simp] theorem State.group_updSec (s : State) (f : SecSt → SecSt) (j : Nat) : (s.updSec f).group j = s.group j := rfl
@[simp] theorem State.slot_setCore (s : State) (k : Nat) (v : CoreSlot) (j : Nat) : (s.setCore k v).slot j = s.slot j := rfl
@[simp] theorem State.slot_setProg (s : State) (k : Nat) (v : Option Prog) (j : Nat) : (s.setProg k v).slot j = s.slot j := rfl
@[simp] theorem State.slot_setCtx (s : State) (c : Nat) (v : Ctx) (j : Nat) : (s.setCtx c v).slot j = s.slot j := rfl
@[simp] theorem State.slot_updCtx (s : State) (c : Nat) (f : Ctx → Ctx) (j : Nat) : (s.updCtx c f).slot j = s.slot j := rfl
@[simp] theorem State.slot_setQueue (s : State) (q : Nat) (v : Queue) (j : Nat) : (s.setQueue q v).slot j = s.slot j := rfl
@[simp] theorem State.slot_updQueue (s : State) (q : Nat) (f : Queue → Queue) (j : Nat) : (s.updQueue q f).slot j = s.slot j := rfl
@[simp] theorem State.slot_setSem (s : State) (i : Nat) (v : Sem) (j : Nat) : (s.setSem i v).slot j = s.slot j := rfl
@[simp] theorem State.slot_setEngine (s : State) (e : Nat) (v : DmaEng) (j : Nat) : (s.setEngine e v).slot j = s.slot j := rfl
@[simp] theorem State.slot_setSail (s : State) (i : Nat) (v : Sail) (j : Nat) : (s.setSail i v).slot j = s.slot j := rfl
@[simp] theorem State.slot_updSail (s : State) (i : Nat) (f : Sail → Sail) (j : Nat) : (s.updSail i f).slot j = s.slot j := rfl
@[simp] theorem State.slot_setYard (s : State) (y : Nat) (v : Yard) (j : Nat) : (s.setYard y v).slot j = s.slot j := rfl
@[simp] theorem State.slot_updYard (s : State) (y : Nat) (f : Yard → Yard) (j : Nat) : (s.updYard y f).slot j = s.slot j := rfl
@[simp] theorem State.slot_setGroup (s : State) (n : Nat) (v : Group) (j : Nat) : (s.setGroup n v).slot j = s.slot j := rfl
@[simp] theorem State.slot_setPort (s : State) (p : Nat) (v : RyuPort) (j : Nat) : (s.setPort p v).slot j = s.slot j := rfl
@[simp] theorem State.slot_updRig (s : State) (f : RigSt → RigSt) (j : Nat) : (s.updRig f).slot j = s.slot j := rfl
@[simp] theorem State.slot_updPwr (s : State) (f : PwrSt → PwrSt) (j : Nat) : (s.updPwr f).slot j = s.slot j := rfl
@[simp] theorem State.slot_updRst (s : State) (f : RstSt → RstSt) (j : Nat) : (s.updRst f).slot j = s.slot j := rfl
@[simp] theorem State.port_setCore (s : State) (k : Nat) (v : CoreSlot) (j : Nat) : (s.setCore k v).port j = s.port j := rfl
@[simp] theorem State.port_setProg (s : State) (k : Nat) (v : Option Prog) (j : Nat) : (s.setProg k v).port j = s.port j := rfl
@[simp] theorem State.port_setCtx (s : State) (c : Nat) (v : Ctx) (j : Nat) : (s.setCtx c v).port j = s.port j := rfl
@[simp] theorem State.port_updCtx (s : State) (c : Nat) (f : Ctx → Ctx) (j : Nat) : (s.updCtx c f).port j = s.port j := rfl
@[simp] theorem State.port_setQueue (s : State) (q : Nat) (v : Queue) (j : Nat) : (s.setQueue q v).port j = s.port j := rfl
@[simp] theorem State.port_updQueue (s : State) (q : Nat) (f : Queue → Queue) (j : Nat) : (s.updQueue q f).port j = s.port j := rfl
@[simp] theorem State.port_setSem (s : State) (i : Nat) (v : Sem) (j : Nat) : (s.setSem i v).port j = s.port j := rfl
@[simp] theorem State.port_setEngine (s : State) (e : Nat) (v : DmaEng) (j : Nat) : (s.setEngine e v).port j = s.port j := rfl
@[simp] theorem State.port_setSail (s : State) (i : Nat) (v : Sail) (j : Nat) : (s.setSail i v).port j = s.port j := rfl
@[simp] theorem State.port_updSail (s : State) (i : Nat) (f : Sail → Sail) (j : Nat) : (s.updSail i f).port j = s.port j := rfl
@[simp] theorem State.port_setYard (s : State) (y : Nat) (v : Yard) (j : Nat) : (s.setYard y v).port j = s.port j := rfl
@[simp] theorem State.port_updYard (s : State) (y : Nat) (f : Yard → Yard) (j : Nat) : (s.updYard y f).port j = s.port j := rfl
@[simp] theorem State.port_setGroup (s : State) (n : Nat) (v : Group) (j : Nat) : (s.setGroup n v).port j = s.port j := rfl
@[simp] theorem State.port_setSlot (s : State) (k : Nat) (v : KeySlot) (j : Nat) : (s.setSlot k v).port j = s.port j := rfl
@[simp] theorem State.port_updRig (s : State) (f : RigSt → RigSt) (j : Nat) : (s.updRig f).port j = s.port j := rfl
@[simp] theorem State.port_updPwr (s : State) (f : PwrSt → PwrSt) (j : Nat) : (s.updPwr f).port j = s.port j := rfl
@[simp] theorem State.port_updRst (s : State) (f : RstSt → RstSt) (j : Nat) : (s.updRst f).port j = s.port j := rfl
@[simp] theorem State.port_updSec (s : State) (f : SecSt → SecSt) (j : Nat) : (s.updSec f).port j = s.port j := rfl

@[simp] theorem State.prog_setProg_self (s : State) (k : Nat) (p : Option Prog) : (s.setProg k p).prog k = p := by
  simp [State.prog, State.setProg]

theorem State.prog_setProg_ne (s : State) {k j : Nat} (p : Option Prog) (h : j ≠ k) : (s.setProg k p).prog j = s.prog j := by
  simp only [State.prog, State.setProg, State.core_setCore_ne s _ h]

@[simp] theorem State.setProg_setProg (s : State) (k : Nat) (p q : Option Prog) : (s.setProg k p).setProg k q = s.setProg k q := by
  simp [State.setProg]

@[simp] theorem State.updCtx_ctx_self (s : State) (c : Nat) (f : Ctx → Ctx) : (s.updCtx c f).ctx c = f (s.ctx c) := by
  simp [State.updCtx]

theorem State.updCtx_ctx_ne (s : State) {c j : Nat} (f : Ctx → Ctx) (h : j ≠ c) : (s.updCtx c f).ctx j = s.ctx j :=
  State.ctx_setCtx_ne s _ h

@[simp] theorem State.updQueue_queue_self (s : State) (q : Nat) (f : Queue → Queue) : (s.updQueue q f).queue q = f (s.queue q) := by
  simp [State.updQueue]

theorem State.updQueue_queue_ne (s : State) {q j : Nat} (f : Queue → Queue) (h : j ≠ q) : (s.updQueue q f).queue j = s.queue j :=
  State.queue_setQueue_ne s _ h

@[simp] theorem State.updSail_sail_self (s : State) (i : Nat) (f : Sail → Sail) : (s.updSail i f).sail i = f (s.sail i) := by
  simp [State.updSail]

theorem State.updSail_sail_ne (s : State) {i j : Nat} (f : Sail → Sail) (h : j ≠ i) : (s.updSail i f).sail j = s.sail j :=
  State.sail_setSail_ne s _ h

@[simp] theorem State.updYard_yard_self (s : State) (y : Nat) (f : Yard → Yard) : (s.updYard y f).yard y = f (s.yard y) := by
  simp [State.updYard]

theorem State.updYard_yard_ne (s : State) {y j : Nat} (f : Yard → Yard) (h : j ≠ y) : (s.updYard y f).yard j = s.yard j :=
  State.yard_setYard_ne s _ h

/-! ### The wrappers of commands -/

theorem timeCmd_of (s : State) (f : State → State) (hp : (f s).pending = s.pending) (hr : (f s).rig = s.rig) :
    timeCmd s f = .next (f s) := by
  unfold timeCmd
  rw [← hp, ← hr]

theorem unitCmd_eq (s : State) (f : State → State) :
    unitCmd s f = .next { f s with pending := s.pending, rig := s.rig, time := s.time } := rfl

/-- A command whose effect leaves the queue, the rig and the counter alone is that effect. -/
theorem unitCmd_of (s : State) (f : State → State) (hp : (f s).pending = s.pending) (hr : (f s).rig = s.rig)
    (ht : (f s).time = s.time) : unitCmd s f = .next (f s) := by
  rw [unitCmd_eq, ← hp, ← hr, ← ht]

theorem rigCmd_of (s : State) (f : State → State) (hp : (f s).pending = s.pending) (ht : (f s).time = s.time) :
    rigCmd s f = .next (f s) := by
  unfold rigCmd
  rw [← hp, ← ht]

theorem sysCmd_of (s : State) (f : State → State) (hp : (f s).pending = s.pending) : sysCmd s f = .next (f s) := by
  unfold sysCmd
  rw [← hp]

end Sys2Proof.Machine
end

