-- ==== Sys2Proof/Laws/Core.lean ====
section
/-! SUPPORT. What the issue of a core instruction does (R51, R64): one lemma per outcome, which later proofs cite in place of
unfolding it. -/

namespace Sys2Proof.Machine

open Sys2Proof

variable {s t : State} {c : CoreRef} {p : Prog} {g : Pred} {i : Instr}
  {illegal : State → Prog → Bool} {eff : State → Nat → Prog → State}

theorem issueState_runs (h : Runs s c p t) : issueState c g i illegal eff s = issueOn s c p g i illegal eff := by
  unfold issueState
  rw [if_pos ⟨h.cluster, h.core⟩, h.resident]
  simp [h.issues, h.clocked]

/-- An instruction whose word stands at the PC is judged, then tested against its predicate (R64, R465). -/
theorem issueOn_coded (h : Runs s c p t) (hc : Coded s c p t i) : issueOn s c p g i illegal eff =
    if illegal t p then coreFault t c.key p .illegalInstruction
    else if p.allows g then countIssue (eff t c.key p) c.key
    else countIssue (t.setProg c.key (some p.advance)) c.key := by
  obtain ⟨key, hf, hw⟩ := hc
  unfold issueOn
  rw [if_neg (by have := h.notOverdue; omega)]
  simp only [hf, hw]

/-- A word that spells no instruction raises ILLEGAL_INSTRUCTION (R62). -/
theorem issueOn_misspelt (h : Runs s c p t) {key : Nat} (hf : fetch s c.key p = (t, .ok key))
    (hw : speltBy c i (wordsAt t c.key p.ctx p.pc.toNat key) = .illegal) :
    issueOn s c p g i illegal eff = coreFault t c.key p .illegalInstruction := by
  unfold issueOn
  rw [if_neg (by have := h.notOverdue; omega)]
  simp only [hf, hw]

/-- A core whose words at the PC spell another instruction does nothing. -/
theorem issueOn_other (h : Runs s c p t) {key : Nat} (hf : fetch s c.key p = (t, .ok key))
    (hw : speltBy c i (wordsAt t c.key p.ctx p.pc.toNat key) = .other) : issueOn s c p g i illegal eff = s := by
  unfold issueOn
  rw [if_neg (by have := h.notOverdue; omega)]
  simp only [hf, hw]

/-- An allowed, legal instruction has its effect on what the fetch left, and counts as issued unless it waits. -/
theorem issue_runs (h : Runs s c p t) (hc : Coded s c p t i) (hl : illegal t p = false) (ha : p.allows g = true) :
    issue s c g i illegal eff =
      .next { countIssue (eff t c.key p) c.key with pending := s.pending, rig := s.rig, time := s.time } := by
  unfold issue
  rw [unitCmd_eq, issueState_runs h, issueOn_coded h hc]
  simp [hl, ha]

/-- An instruction that its predicate does not allow only goes on (R61). -/
theorem issue_skips (h : Runs s c p t) (hc : Coded s c p t i) (hl : illegal t p = false) (ha : p.allows g = false) :
    issue s c g i illegal eff =
      .next { countIssue (t.setProg c.key (some p.advance)) c.key with pending := s.pending, rig := s.rig, time := s.time } := by
  unfold issue
  rw [unitCmd_eq, issueState_runs h, issueOn_coded h hc]
  simp [hl, ha]

/-- An illegal instruction raises ILLEGAL_INSTRUCTION whatever its predicate (R64). -/
theorem issue_illegal (h : Runs s c p t) (hc : Coded s c p t i) (hl : illegal t p = true) :
    issue s c g i illegal eff =
      .next { coreFault t c.key p .illegalInstruction with pending := s.pending, rig := s.rig, time := s.time } := by
  unfold issue
  rw [unitCmd_eq, issueState_runs h, issueOn_coded h hc]
  simp [hl]

theorem countIssue_setProg (u : State) (k : Nat) (q : Prog) (hw : q.waiting = none) :
    countIssue (u.setProg k (some q)) k =
      u.setCore k { u.core k with prog := some q, progress := (u.core k).progress + 1 } := by
  unfold countIssue
  rw [State.prog_setProg_self]
  simp [hw, bumpCore, State.setProg]

/-- The outcome when the effect only replaces the program, by one that does not wait. -/
theorem issue_prog (h : Runs s c p t) (hc : Coded s c p t i) (hl : illegal t p = false) (ha : p.allows g = true) {u : State} {q : Prog}
    (he : eff t c.key p = u.setProg c.key (some q)) (hw : q.waiting = none) :
    issue s c g i illegal eff = .next (coreAfter s u c.key q) := by
  rw [issue_runs h hc hl ha, he, countIssue_setProg _ _ _ hw]
  rfl

@[simp] theorem Prog.advance_waiting (p : Prog) : p.advance.waiting = none := rfl
@[simp] theorem Prog.jump_waiting (p : Prog) (x : BitVec 56) : (p.jump x).waiting = none := rfl
@[simp] theorem Prog.setS_pc (p : Prog) (r : BitVec 5) (v : Word) : (p.setS r v).pc = p.pc := by unfold Prog.setS; split <;> rfl
@[simp] theorem Prog.setS_loops (p : Prog) (r : BitVec 5) (v : Word) : (p.setS r v).loops = p.loops := by
  unfold Prog.setS; split <;> rfl
@[simp] theorem Prog.setP_pc (p : Prog) (r : BitVec 3) (b : Bool) : (p.setP r b).pc = p.pc := by unfold Prog.setP; split <;> rfl
@[simp] theorem Prog.setP_loops (p : Prog) (r : BitVec 3) (b : Bool) : (p.setP r b).loops = p.loops := by
  unfold Prog.setP; split <;> rfl

/-- Going on, when no loop body ends at the instruction (R66). -/
theorem Prog.advance_eq (p : Prog) : p.advance = p.goesOn (stepLoops p.pc p.loops).1 (stepLoops p.pc p.loops).2 := rfl

/-- An instruction that only changes its program. -/
theorem issue_plain (h : Runs s c p t) (hc : Coded s c p t i) (hl : illegal t p = false) (ha : p.allows g = true) (f : Prog → Prog) :
    issue s c g i illegal (plain f) = .next (coreAfter s t c.key (f p).advance) :=
  issue_prog h hc hl ha rfl rfl

end Sys2Proof.Machine
end

