-- ==== Sys2Proof/Laws/Exec.lean ====
section
/-! SUPPORT. The dispatch, one equation per command. -/

namespace Sys2Proof.Machine

open Sys2Proof

variable (s : State)

@[simp] theorem exec_add (c : CoreRef) (g : Pred) (f : AluForm) : exec (.add c g f) s = execAdd c g f s := rfl
@[simp] theorem exec_sub (c : CoreRef) (g : Pred) (f : AluForm) : exec (.sub c g f) s = execSub c g f s := rfl
@[simp] theorem exec_mul (c : CoreRef) (g : Pred) (f : AluForm) : exec (.mul c g f) s = execMul c g f s := rfl
@[simp] theorem exec_mulhu (c : CoreRef) (g : Pred) (f : AluForm) : exec (.mulhu c g f) s = execMulhu c g f s := rfl
@[simp] theorem exec_divu (c : CoreRef) (g : Pred) (f : AluForm) : exec (.divu c g f) s = execDivu c g f s := rfl
@[simp] theorem exec_remu (c : CoreRef) (g : Pred) (f : AluForm) : exec (.remu c g f) s = execRemu c g f s := rfl
@[simp] theorem exec_and (c : CoreRef) (g : Pred) (f : AluForm) : exec (.and c g f) s = execAnd c g f s := rfl
@[simp] theorem exec_or (c : CoreRef) (g : Pred) (f : AluForm) : exec (.or c g f) s = execOr c g f s := rfl
@[simp] theorem exec_xor (c : CoreRef) (g : Pred) (f : AluForm) : exec (.xor c g f) s = execXor c g f s := rfl
@[simp] theorem exec_sll (c : CoreRef) (g : Pred) (f : AluForm) : exec (.sll c g f) s = execSll c g f s := rfl
@[simp] theorem exec_srl (c : CoreRef) (g : Pred) (f : AluForm) : exec (.srl c g f) s = execSrl c g f s := rfl
@[simp] theorem exec_sra (c : CoreRef) (g : Pred) (f : AluForm) : exec (.sra c g f) s = execSra c g f s := rfl
@[simp] theorem exec_min (c : CoreRef) (g : Pred) (f : AluForm) : exec (.min c g f) s = execMin c g f s := rfl
@[simp] theorem exec_max (c : CoreRef) (g : Pred) (f : AluForm) : exec (.max c g f) s = execMax c g f s := rfl
@[simp] theorem exec_minu (c : CoreRef) (g : Pred) (f : AluForm) : exec (.minu c g f) s = execMinu c g f s := rfl
@[simp] theorem exec_maxu (c : CoreRef) (g : Pred) (f : AluForm) : exec (.maxu c g f) s = execMaxu c g f s := rfl
@[simp] theorem exec_ceq (c : CoreRef) (g : Pred) (f : AluForm) : exec (.ceq c g f) s = execCeq c g f s := rfl
@[simp] theorem exec_cne (c : CoreRef) (g : Pred) (f : AluForm) : exec (.cne c g f) s = execCne c g f s := rfl
@[simp] theorem exec_clt (c : CoreRef) (g : Pred) (f : AluForm) : exec (.clt c g f) s = execClt c g f s := rfl
@[simp] theorem exec_cltu (c : CoreRef) (g : Pred) (f : AluForm) : exec (.cltu c g f) s = execCltu c g f s := rfl
@[simp] theorem exec_cge (c : CoreRef) (g : Pred) (f : AluForm) : exec (.cge c g f) s = execCge c g f s := rfl
@[simp] theorem exec_cgeu (c : CoreRef) (g : Pred) (f : AluForm) : exec (.cgeu c g f) s = execCgeu c g f s := rfl
@[simp] theorem exec_pand (c : CoreRef) (g : Pred) (f : AluForm) : exec (.pand c g f) s = execPand c g f s := rfl
@[simp] theorem exec_por (c : CoreRef) (g : Pred) (f : AluForm) : exec (.por c g f) s = execPor c g f s := rfl
@[simp] theorem exec_pnot (c : CoreRef) (g : Pred) (f : AluForm) : exec (.pnot c g f) s = execPnot c g f s := rfl
@[simp] theorem exec_li (c : CoreRef) (g : Pred) (f : AluForm) : exec (.li c g f) s = execLi c g f s := rfl
@[simp] theorem exec_lih (c : CoreRef) (g : Pred) (f : AluForm) : exec (.lih c g f) s = execLih c g f s := rfl
@[simp] theorem exec_nop (c : CoreRef) (g : Pred) (f : CtrlFields) : exec (.nop c g f) s = execNop c g f s := rfl
@[simp] theorem exec_br (c : CoreRef) (g : Pred) (f : CtrlFields) : exec (.br c g f) s = execBr c g f s := rfl
@[simp] theorem exec_brr (c : CoreRef) (g : Pred) (f : CtrlFields) : exec (.brr c g f) s = execBrr c g f s := rfl
@[simp] theorem exec_call (c : CoreRef) (g : Pred) (f : CtrlFields) : exec (.call c g f) s = execCall c g f s := rfl
@[simp] theorem exec_ret (c : CoreRef) (g : Pred) (f : CtrlFields) : exec (.ret c g f) s = execRet c g f s := rfl
@[simp] theorem exec_loop (c : CoreRef) (g : Pred) (f : CtrlFields) : exec (.loop c g f) s = execLoop c g f s := rfl
@[simp] theorem exec_yield (c : CoreRef) (g : Pred) (f : CtrlFields) : exec (.yield c g f) s = execYield c g f s := rfl
@[simp] theorem exec_halt (c : CoreRef) (g : Pred) (f : CtrlFields) : exec (.halt c g f) s = execHalt c g f s := rfl
@[simp] theorem exec_ld8u (c : CoreRef) (g : Pred) (f : SmemFields) : exec (.ld8u c g f) s = execLd8u c g f s := rfl
@[simp] theorem exec_ld16u (c : CoreRef) (g : Pred) (f : SmemFields) : exec (.ld16u c g f) s = execLd16u c g f s := rfl
@[simp] theorem exec_ld32u (c : CoreRef) (g : Pred) (f : SmemFields) : exec (.ld32u c g f) s = execLd32u c g f s := rfl
@[simp] theorem exec_ld64 (c : CoreRef) (g : Pred) (f : SmemFields) : exec (.ld64 c g f) s = execLd64 c g f s := rfl
@[simp] theorem exec_ld8s (c : CoreRef) (g : Pred) (f : SmemFields) : exec (.ld8s c g f) s = execLd8s c g f s := rfl
@[simp] theorem exec_ld16s (c : CoreRef) (g : Pred) (f : SmemFields) : exec (.ld16s c g f) s = execLd16s c g f s := rfl
@[simp] theorem exec_ld32s (c : CoreRef) (g : Pred) (f : SmemFields) : exec (.ld32s c g f) s = execLd32s c g f s := rfl
@[simp] theorem exec_st8 (c : CoreRef) (g : Pred) (f : SmemFields) : exec (.st8 c g f) s = execSt8 c g f s := rfl
@[simp] theorem exec_st16 (c : CoreRef) (g : Pred) (f : SmemFields) : exec (.st16 c g f) s = execSt16 c g f s := rfl
@[simp] theorem exec_st32 (c : CoreRef) (g : Pred) (f : SmemFields) : exec (.st32 c g f) s = execSt32 c g f s := rfl
@[simp] theorem exec_st64 (c : CoreRef) (g : Pred) (f : SmemFields) : exec (.st64 c g f) s = execSt64 c g f s := rfl
@[simp] theorem exec_vadd (c : CoreRef) (g : Pred) (f : ValuFields) : exec (.vadd c g f) s = execVadd c g f s := rfl
@[simp] theorem exec_vsub (c : CoreRef) (g : Pred) (f : ValuFields) : exec (.vsub c g f) s = execVsub c g f s := rfl
@[simp] theorem exec_vmul (c : CoreRef) (g : Pred) (f : ValuFields) : exec (.vmul c g f) s = execVmul c g f s := rfl
@[simp] theorem exec_vfma (c : CoreRef) (g : Pred) (f : ValuFields) : exec (.vfma c g f) s = execVfma c g f s := rfl
@[simp] theorem exec_vmin (c : CoreRef) (g : Pred) (f : ValuFields) : exec (.vmin c g f) s = execVmin c g f s := rfl
@[simp] theorem exec_vmax (c : CoreRef) (g : Pred) (f : ValuFields) : exec (.vmax c g f) s = execVmax c g f s := rfl
@[simp] theorem exec_vdiv (c : CoreRef) (g : Pred) (f : ValuFields) : exec (.vdiv c g f) s = execVdiv c g f s := rfl
@[simp] theorem exec_vrcp (c : CoreRef) (g : Pred) (f : ValuFields) : exec (.vrcp c g f) s = execVrcp c g f s := rfl
@[simp] theorem exec_vrsqrt (c : CoreRef) (g : Pred) (f : ValuFields) : exec (.vrsqrt c g f) s = execVrsqrt c g f s := rfl
@[simp] theorem exec_vexp2 (c : CoreRef) (g : Pred) (f : ValuFields) : exec (.vexp2 c g f) s = execVexp2 c g f s := rfl
@[simp] theorem exec_vlog2 (c : CoreRef) (g : Pred) (f : ValuFields) : exec (.vlog2 c g f) s = execVlog2 c g f s := rfl
@[simp] theorem exec_vand (c : CoreRef) (g : Pred) (f : ValuFields) : exec (.vand c g f) s = execVand c g f s := rfl
@[simp] theorem exec_vor (c : CoreRef) (g : Pred) (f : ValuFields) : exec (.vor c g f) s = execVor c g f s := rfl
@[simp] theorem exec_vxor (c : CoreRef) (g : Pred) (f : ValuFields) : exec (.vxor c g f) s = execVxor c g f s := rfl
@[simp] theorem exec_vshl (c : CoreRef) (g : Pred) (f : ValuFields) : exec (.vshl c g f) s = execVshl c g f s := rfl
@[simp] theorem exec_vshr (c : CoreRef) (g : Pred) (f : ValuFields) : exec (.vshr c g f) s = execVshr c g f s := rfl
@[simp] theorem exec_vbcast (c : CoreRef) (g : Pred) (f : ValuFields) : exec (.vbcast c g f) s = execVbcast c g f s := rfl
@[simp] theorem exec_vredsum (c : CoreRef) (g : Pred) (f : ValuFields) : exec (.vredsum c g f) s = execVredsum c g f s := rfl
@[simp] theorem exec_vredmax (c : CoreRef) (g : Pred) (f : ValuFields) : exec (.vredmax c g f) s = execVredmax c g f s := rfl
@[simp] theorem exec_vmov (c : CoreRef) (g : Pred) (f : ValuFields) : exec (.vmov c g f) s = execVmov c g f s := rfl
@[simp] theorem exec_vsel (c : CoreRef) (g : Pred) (f : ValuFields) : exec (.vsel c g f) s = execVsel c g f s := rfl
@[simp] theorem exec_vld (c : CoreRef) (g : Pred) (f : VmemFields) : exec (.vld c g f) s = execVld c g f s := rfl
@[simp] theorem exec_vst (c : CoreRef) (g : Pred) (f : VmemFields) : exec (.vst c g f) s = execVst c g f s := rfl
@[simp] theorem exec_vlds (c : CoreRef) (g : Pred) (f : VmemFields) : exec (.vlds c g f) s = execVlds c g f s := rfl
@[simp] theorem exec_vsts (c : CoreRef) (g : Pred) (f : VmemFields) : exec (.vsts c g f) s = execVsts c g f s := rfl
@[simp] theorem exec_vgath (c : CoreRef) (g : Pred) (f : VmemFields) : exec (.vgath c g f) s = execVgath c g f s := rfl
@[simp] theorem exec_vscat (c : CoreRef) (g : Pred) (f : VmemFields) : exec (.vscat c g f) s = execVscat c g f s := rfl
@[simp] theorem exec_vcvt (c : CoreRef) (g : Pred) (f : VcvtFields) : exec (.vcvt c g f) s = execVcvt c g f s := rfl
@[simp] theorem exec_vmxq (c : CoreRef) (g : Pred) (f : VcvtFields) : exec (.vmxq c g f) s = execVmxq c g f s := rfl
@[simp] theorem exec_vseed (c : CoreRef) (g : Pred) (f : VcvtFields) : exec (.vseed c g f) s = execVseed c g f s := rfl
@[simp] theorem exec_vseedr (c : CoreRef) (g : Pred) (f : VcvtFields) : exec (.vseedr c g f) s = execVseedr c g f s := rfl
@[simp] theorem exec_mma (c : CoreRef) (g : Pred) (f : MatFields) : exec (.mma c g f) s = execMma c g f s := rfl
@[simp] theorem exec_mzero (c : CoreRef) (g : Pred) (f : MatFields) : exec (.mzero c g f) s = execMzero c g f s := rfl
@[simp] theorem exec_mld (c : CoreRef) (g : Pred) (f : MatFields) : exec (.mld c g f) s = execMld c g f s := rfl
@[simp] theorem exec_mst (c : CoreRef) (g : Pred) (f : MatFields) : exec (.mst c g f) s = execMst c g f s := rfl
@[simp] theorem exec_send (c : CoreRef) (g : Pred) (f : StrmFields) : exec (.send c g f) s = execSend c g f s := rfl
@[simp] theorem exec_recv (c : CoreRef) (g : Pred) (f : StrmFields) : exec (.recv c g f) s = execRecv c g f s := rfl
@[simp] theorem exec_req (c : CoreRef) (g : Pred) (f : StrmFields) : exec (.req c g f) s = execReq c g f s := rfl
@[simp] theorem exec_sstat (c : CoreRef) (g : Pred) (f : StrmFields) : exec (.sstat c g f) s = execSstat c g f s := rfl
@[simp] theorem exec_cbmov (c : CoreRef) (g : Pred) (f : XferFields) : exec (.cbmov c g f) s = execCbmov c g f s := rfl
@[simp] theorem exec_dmasub (c : CoreRef) (g : Pred) (f : XferFields) : exec (.dmasub c g f) s = execDmasub c g f s := rfl
@[simp] theorem exec_fence (c : CoreRef) (g : Pred) (f : SyncFields) : exec (.fence c g f) s = execFence c g f s := rfl
@[simp] theorem exec_waite (c : CoreRef) (g : Pred) (f : SyncFields) : exec (.waite c g f) s = execWaite c g f s := rfl
@[simp] theorem exec_sete (c : CoreRef) (g : Pred) (f : SyncFields) : exec (.sete c g f) s = execSete c g f s := rfl
@[simp] theorem exec_adde (c : CoreRef) (g : Pred) (f : SyncFields) : exec (.adde c g f) s = execAdde c g f s := rfl
@[simp] theorem exec_semacq (c : CoreRef) (g : Pred) (f : SyncFields) : exec (.semacq c g f) s = execSemacq c g f s := rfl
@[simp] theorem exec_semtry (c : CoreRef) (g : Pred) (f : SyncFields) : exec (.semtry c g f) s = execSemtry c g f s := rfl
@[simp] theorem exec_semrel (c : CoreRef) (g : Pred) (f : SyncFields) : exec (.semrel c g f) s = execSemrel c g f s := rfl
@[simp] theorem exec_csrr (c : CoreRef) (g : Pred) (f : SysFields) : exec (.csrr c g f) s = execCsrr c g f s := rfl
@[simp] theorem exec_csrw (c : CoreRef) (g : Pred) (f : SysFields) : exec (.csrw c g f) s = execCsrw c g f s := rfl
@[simp] theorem exec_flagr (c : CoreRef) (g : Pred) (f : SysFields) : exec (.flagr c g f) s = execFlagr c g f s := rfl
@[simp] theorem exec_flagc (c : CoreRef) (g : Pred) (f : SysFields) : exec (.flagc c g f) s = execFlagc c g f s := rfl
@[simp] theorem exec_time (c : CoreRef) (g : Pred) (f : SysFields) : exec (.time c g f) s = execTime c g f s := rfl
@[simp] theorem exec_post (c : CoreRef) (u : AsyncUnit) : exec (.post c u) s = execPost c u s := rfl
@[simp] theorem exec_waitingInstruction (c : CoreRef) : exec (.waitingInstruction c) s = execWaitingInstruction c s := rfl
@[simp] theorem exec_yieldOverdue (c : CoreRef) : exec (.yieldOverdue c) s = execYieldOverdue c s := rfl
@[simp] theorem exec_preemptAtYieldPoint (c : CoreRef) : exec (.preemptAtYieldPoint c) s = execPreemptAtYieldPoint c s := rfl
@[simp] theorem exec_contextSaveComplete (c : CoreRef) : exec (.contextSaveComplete c) s = execContextSaveComplete c s := rfl
@[simp] theorem exec_pool (yard : Nat) (engine : Nat) : exec (.pool yard engine) s = execPool yard engine s := rfl
@[simp] theorem exec_gather (yard : Nat) (engine : Nat) : exec (.gather yard engine) s = execGather yard engine s := rfl
@[simp] theorem exec_decode (yard : Nat) (engine : Nat) : exec (.decode yard engine) s = execDecode yard engine s := rfl
@[simp] theorem exec_cgBegin (yard : Nat) (req : Nat) : exec (.cgBegin yard req) s = execCgBegin yard req s := rfl
@[simp] theorem exec_update (yard : Nat) (req : Nat) : exec (.update yard req) s = execUpdate yard req s := rfl
@[simp] theorem exec_cgCommit (yard : Nat) (req : Nat) : exec (.cgCommit yard req) s = execCgCommit yard req s := rfl
@[simp] theorem exec_cgAbort (yard : Nat) (req : Nat) : exec (.cgAbort yard req) s = execCgAbort yard req s := rfl
@[simp] theorem exec_tblsync (yard : Nat) (req : Nat) : exec (.tblsync yard req) s = execTblsync yard req s := rfl
@[simp] theorem exec_yseed (yard : Nat) (req : Nat) : exec (.yseed yard req) s = execYseed yard req s := rfl
@[simp] theorem exec_cgBeginQuotaGrant (yard : Nat) (sail : Nat) : exec (.cgBeginQuotaGrant yard sail) s = execCgBeginQuotaGrant yard sail s := rfl
@[simp] theorem exec_engineTakesRequest (yard : Nat) (sail : Nat) : exec (.engineTakesRequest yard sail) s = execEngineTakesRequest yard sail s := rfl
@[simp] theorem exec_rowFetchComplete (yard : Nat) (engine : Nat) (k : Nat) : exec (.rowFetchComplete yard engine k) s = execRowFetchComplete yard engine k s := rfl
@[simp] theorem exec_fetchPortRead (yard : Nat) (engine : Nat) (k : Nat) : exec (.fetchPortRead yard engine k) s = execFetchPortRead yard engine k s := rfl
@[simp] theorem exec_cgAction (handle : Nat) (idx : Nat) : exec (.cgAction handle idx) s = execCgAction handle idx s := rfl
@[simp] theorem exec_intentLogDurable (handle : Nat) (idx : Nat) : exec (.intentLogDurable handle idx) s = execIntentLogDurable handle idx s := rfl
@[simp] theorem exec_commitPoint (handle : Nat) : exec (.commitPoint handle) s = execCommitPoint handle s := rfl
@[simp] theorem exec_cgApply (handle : Nat) (yard : Nat) : exec (.cgApply handle yard) s = execCgApply handle yard s := rfl
@[simp] theorem exec_groupRetire (handle : Nat) : exec (.groupRetire handle) s = execGroupRetire handle s := rfl
@[simp] theorem exec_lockReleasedResume (yard : Nat) (row : Nat) : exec (.lockReleasedResume yard row) s = execLockReleasedResume yard row s := rfl
@[simp] theorem exec_holdTimerExpiry (handle : Nat) : exec (.holdTimerExpiry handle) s = execHoldTimerExpiry handle s := rfl
@[simp] theorem exec_backgroundWindow (r : BudgetUnit) : exec (.backgroundWindow r) s = execBackgroundWindow r s := rfl
@[simp] theorem exec_yrdSailPeakRead (fn : HostFn) (yard : Nat) (sail : Nat) : exec (.yrdSailPeakRead fn yard sail) s = execYrdSailPeakRead fn yard sail s := rfl
@[simp] theorem exec_meshSlot (router : Nat) : exec (.meshSlot router) s = execMeshSlot router s := rfl
@[simp] theorem exec_meshRtrClr (fn : HostFn) (v : Word) : exec (.meshRtrClr fn v) s = execMeshRtrClr fn v s := rfl
@[simp] theorem exec_dieLinkLoss (router : Nat) (dir : Dir) : exec (.dieLinkLoss router dir) s = execDieLinkLoss router dir s := rfl
@[simp] theorem exec_rangeMap (q : Nat) (n : Nat) : exec (.rangeMap q n) s = execRangeMap q n s := rfl
@[simp] theorem exec_rangeUnmap (q : Nat) (n : Nat) : exec (.rangeUnmap q n) s = execRangeUnmap q n s := rfl
@[simp] theorem exec_rangeModify (q : Nat) (n : Nat) : exec (.rangeModify q n) s = execRangeModify q n s := rfl
@[simp] theorem exec_rangeSync (q : Nat) (n : Nat) : exec (.rangeSync q n) s = execRangeSync q n s := rfl
@[simp] theorem exec_rangeDrainEnd (ctx : Nat) : exec (.rangeDrainEnd ctx) s = execRangeDrainEnd ctx s := rfl
@[simp] theorem exec_migrationComplete (ctx : Nat) (vstart : Nat) (page : Nat) : exec (.migrationComplete ctx vstart page) s = execMigrationComplete ctx vstart page s := rfl
@[simp] theorem exec_accessTimerExpiry (a : AccessRef) : exec (.accessTimerExpiry a) s = execAccessTimerExpiry a s := rfl
@[simp] theorem exec_prodRead (yard : Nat) (slot : Nat) : exec (.prodRead yard slot) s = execProdRead yard slot s := rfl
@[simp] theorem exec_portTraining (port : Nat) (t : TrainResult) : exec (.portTraining port t) s = execPortTraining port t s := rfl
@[simp] theorem exec_linkLoss (port : Nat) (retrained : Bool) : exec (.linkLoss port retrained) s = execLinkLoss port retrained s := rfl
@[simp] theorem exec_ident (port : Nat) (node : Nat) (peerPort : Nat) (digest : BitVec 32) : exec (.ident port node peerPort digest) s = execIdent port node peerPort digest s := rfl
@[simp] theorem exec_link (port : Nat) (b : LinkBlock) : exec (.link port b) s = execLink port b s := rfl
@[simp] theorem exec_ackTimerExpiry (port : Nat) : exec (.ackTimerExpiry port) s = execAckTimerExpiry port s := rfl
@[simp] theorem exec_rd (port : Nat) (m : RyuMsg) : exec (.rd port m) s = execRd port m s := rfl
@[simp] theorem exec_wr (port : Nat) (m : RyuMsg) : exec (.wr port m) s = execWr port m s := rfl
@[simp] theorem exec_lkup (port : Nat) (m : RyuMsg) : exec (.lkup port m) s = execLkup port m s := rfl
@[simp] theorem exec_hint (port : Nat) (m : RyuMsg) : exec (.hint port m) s = execHint port m s := rfl
@[simp] theorem exec_resp (port : Nat) (m : RyuMsg) : exec (.resp port m) s = execResp port m s := rfl
@[simp] theorem exec_ing (port : Nat) (m : RyuMsg) : exec (.ing port m) s = execIng port m s := rfl
@[simp] theorem exec_impOpen (port : Nat) (m : RyuMsg) : exec (.impOpen port m) s = execImpOpen port m s := rfl
@[simp] theorem exec_impAck (port : Nat) (m : RyuMsg) : exec (.impAck port m) s = execImpAck port m s := rfl
@[simp] theorem exec_impClose (port : Nat) (m : RyuMsg) : exec (.impClose port m) s = execImpClose port m s := rfl
@[simp] theorem exec_remoteTimeout (tag : Nat) : exec (.remoteTimeout tag) s = execRemoteTimeout tag s := rfl
@[simp] theorem exec_consRead (stream : Nat) : exec (.consRead stream) s = execConsRead stream s := rfl
@[simp] theorem exec_ph1Start (m : CleatMsg) : exec (.ph1Start m) s = execPh1Start m s := rfl
@[simp] theorem exec_mirrorPut (m : CleatMsg) : exec (.mirrorPut m) s = execMirrorPut m s := rfl
@[simp] theorem exec_mirrorAck (m : CleatMsg) : exec (.mirrorAck m) s = execMirrorAck m s := rfl
@[simp] theorem exec_commit (m : CleatMsg) : exec (.commit m) s = execCommit m s := rfl
@[simp] theorem exec_commitAck (m : CleatMsg) : exec (.commitAck m) s = execCommitAck m s := rfl
@[simp] theorem exec_offer (m : CleatMsg) : exec (.offer m) s = execOffer m s := rfl
@[simp] theorem exec_accept (m : CleatMsg) : exec (.accept m) s = execAccept m s := rfl
@[simp] theorem exec_ack (m : CleatMsg) : exec (.ack m) s = execAck m s := rfl
@[simp] theorem exec_decline (m : CleatMsg) : exec (.decline m) s = execDecline m s := rfl
@[simp] theorem exec_stale (m : CleatMsg) : exec (.stale m) s = execStale m s := rfl
@[simp] theorem exec_retire (m : CleatMsg) : exec (.retire m) s = execRetire m s := rfl
@[simp] theorem exec_cleatTimerExpiry (id : Word) : exec (.cleatTimerExpiry id) s = execCleatTimerExpiry id s := rfl
@[simp] theorem exec_fmAssign (h : FmHdr) (node : Nat) (domain : Nat) (manager : Nat) (time : Option Word) : exec (.fmAssign h node domain manager time) s = execFmAssign h node domain manager time s := rfl
@[simp] theorem exec_fmRoute (h : FmHdr) (first : Nat) (count : Nat) (mask : BitVec 32) (hops : Nat) : exec (.fmRoute h first count mask hops) s = execFmRoute h first count mask hops s := rfl
@[simp] theorem exec_fmTime (h : FmHdr) (sent : Word) (adjust : FmTime) : exec (.fmTime h sent adjust) s = execFmTime h sent adjust s := rfl
@[simp] theorem exec_fmFreeze (h : FmHdr) (id : Word) (epoch : BitVec 32) : exec (.fmFreeze h id epoch) s = execFmFreeze h id epoch s := rfl
@[simp] theorem exec_fmRuling (h : FmHdr) (r : Ruling) : exec (.fmRuling h r) s = execFmRuling h r s := rfl
@[simp] theorem exec_fmPlace (h : FmHdr) (p : Placement) : exec (.fmPlace h p) s = execFmPlace h p s := rfl
@[simp] theorem exec_fmPeerState (h : FmHdr) (node : Nat) (st : PeerState) (sails : List Nat) : exec (.fmPeerState h node st sails) s = execFmPeerState h node st sails s := rfl
@[simp] theorem exec_fmAck (h : FmHdr) (arg : Word) : exec (.fmAck h arg) s = execFmAck h arg s := rfl
@[simp] theorem exec_ryuClr (fn : HostFn) (v : Word) : exec (.ryuClr fn v) s = execRyuClr fn v s := rfl
@[simp] theorem exec_load (port : Nat) : exec (.load port) s = execLoad port s := rfl
@[simp] theorem exec_loadEnd (port : Nat) : exec (.loadEnd port) s = execLoadEnd port s := rfl
@[simp] theorem exec_swap (port : Nat) : exec (.swap port) s = execSwap port s := rfl
@[simp] theorem exec_discard (port : Nat) : exec (.discard port) s = execDiscard port s := rfl
@[simp] theorem exec_drain : exec .drain s = execDrain s := rfl
@[simp] theorem exec_scrub (failed : List ScrubRef) : exec (.scrub failed) s = execScrub failed s := rfl
@[simp] theorem exec_cut : exec .cut s = execCut s := rfl
@[simp] theorem exec_release : exec .release s = execRelease s := rfl
@[simp] theorem exec_quiesceLimitExpiry (q : Nat) (n : Nat) : exec (.quiesceLimitExpiry q n) s = execQuiesceLimitExpiry q n s := rfl
@[simp] theorem exec_doorbell (fn : HostFn) (q : Nat) (tail : BitVec 32) : exec (.doorbell fn q tail) s = execDoorbell fn q tail s := rfl
@[simp] theorem exec_overrunClear (fn : HostFn) (q : Nat) : exec (.overrunClear fn q) s = execOverrunClear fn q s := rfl
@[simp] theorem exec_qbCqHead (fn : HostFn) (q : Nat) (v : BitVec 32) : exec (.qbCqHead fn q v) s = execQbCqHead fn q v s := rfl
@[simp] theorem exec_commandFetch (q : Nat) : exec (.commandFetch q) s = execCommandFetch q s := rfl
@[simp] theorem exec_commandStart (q : Nat) : exec (.commandStart q) s = execCommandStart q s := rfl
@[simp] theorem exec_completionRecord (q : Nat) (n : Nat) : exec (.completionRecord q n) s = execCompletionRecord q n s := rfl
@[simp] theorem exec_enable (fn : HostFn) (q : Nat) : exec (.enable fn q) s = execEnable fn q s := rfl
@[simp] theorem exec_disable (fn : HostFn) (q : Nat) : exec (.disable fn q) s = execDisable fn q s := rfl
@[simp] theorem exec_qbFenceSignal (fn : HostFn) (q : Nat) (v : Word) : exec (.qbFenceSignal fn q v) s = execQbFenceSignal fn q v s := rfl
@[simp] theorem exec_create (fn : HostFn) (sail : Nat) (ctx : Nat) : exec (.create fn sail ctx) s = execCreate fn sail ctx s := rfl
@[simp] theorem exec_destroy (fn : HostFn) (sail : Nat) (ctx : Nat) : exec (.destroy fn sail ctx) s = execDestroy fn sail ctx s := rfl
@[simp] theorem exec_reset (fn : HostFn) (sail : Nat) (ctx : Nat) : exec (.reset fn sail ctx) s = execReset fn sail ctx s := rfl
@[simp] theorem exec_resume (fn : HostFn) (sail : Nat) (ctx : Nat) : exec (.resume fn sail ctx) s = execResume fn sail ctx s := rfl
@[simp] theorem exec_vfFunctionLevelReset (port : Nat) (vf : Nat) : exec (.vfFunctionLevelReset port vf) s = execVfFunctionLevelReset port vf s := rfl
@[simp] theorem exec_pfFunctionLevelReset (port : Nat) : exec (.pfFunctionLevelReset port) s = execPfFunctionLevelReset port s := rfl
@[simp] theorem exec_doeDiscovery (fn : HostFn) (index : Nat) : exec (.doeDiscovery fn index) s = execDoeDiscovery fn index s := rfl
@[simp] theorem exec_nopCommand (q : Nat) (n : Nat) : exec (.nopCommand q n) s = execNopCommand q n s := rfl
@[simp] theorem exec_run (q : Nat) (n : Nat) : exec (.run q n) s = execRun q n s := rfl
@[simp] theorem exec_dma (q : Nat) (n : Nat) : exec (.dma q n) s = execDma q n s := rfl
@[simp] theorem exec_semInit (q : Nat) (n : Nat) : exec (.semInit q n) s = execSemInit q n s := rfl
@[simp] theorem exec_semRelease (q : Nat) (n : Nat) : exec (.semRelease q n) s = execSemRelease q n s := rfl
@[simp] theorem exec_tableSync (q : Nat) (n : Nat) : exec (.tableSync q n) s = execTableSync q n s := rfl
@[simp] theorem exec_memPrefetch (q : Nat) (n : Nat) : exec (.memPrefetch q n) s = execMemPrefetch q n s := rfl
@[simp] theorem exec_memAdvise (q : Nat) (n : Nat) : exec (.memAdvise q n) s = execMemAdvise q n s := rfl
@[simp] theorem exec_orderSet (q : Nat) (n : Nat) : exec (.orderSet q n) s = execOrderSet q n s := rfl
@[simp] theorem exec_orderClear (q : Nat) (n : Nat) : exec (.orderClear q n) s = execOrderClear q n s := rfl
@[simp] theorem exec_dirtyHarvest (q : Nat) (n : Nat) : exec (.dirtyHarvest q n) s = execDirtyHarvest q n s := rfl
@[simp] theorem exec_exportCreate (q : Nat) (n : Nat) : exec (.exportCreate q n) s = execExportCreate q n s := rfl
@[simp] theorem exec_exportDestroy (q : Nat) (n : Nat) : exec (.exportDestroy q n) s = execExportDestroy q n s := rfl
@[simp] theorem exec_importOpen (q : Nat) (n : Nat) : exec (.importOpen q n) s = execImportOpen q n s := rfl
@[simp] theorem exec_importClose (q : Nat) (n : Nat) : exec (.importClose q n) s = execImportClose q n s := rfl
@[simp] theorem exec_ingOpen (q : Nat) (n : Nat) : exec (.ingOpen q n) s = execIngOpen q n s := rfl
@[simp] theorem exec_ingClose (q : Nat) (n : Nat) : exec (.ingClose q n) s = execIngClose q n s := rfl
@[simp] theorem exec_dispatch (q : Nat) (n : Nat) : exec (.dispatch q n) s = execDispatch q n s := rfl
@[simp] theorem exec_seqSubmit (q : Nat) (n : Nat) : exec (.seqSubmit q n) s = execSeqSubmit q n s := rfl
@[simp] theorem exec_sharedCreate (q : Nat) (n : Nat) : exec (.sharedCreate q n) s = execSharedCreate q n s := rfl
@[simp] theorem exec_sharedRelease (q : Nat) (n : Nat) : exec (.sharedRelease q n) s = execSharedRelease q n s := rfl
@[simp] theorem exec_dmaDescriptorStart (cluster : Nat) (eng : Nat) : exec (.dmaDescriptorStart cluster eng) s = execDmaDescriptorStart cluster eng s := rfl
@[simp] theorem exec_dmaDescriptorComplete (cluster : Nat) (eng : Nat) (k : Nat) (ctx : Nat) : exec (.dmaDescriptorComplete cluster eng k ctx) s = execDmaDescriptorComplete cluster eng k ctx s := rfl
@[simp] theorem exec_dmaRingRecord (cluster : Nat) (eng : Nat) : exec (.dmaRingRecord cluster eng) s = execDmaRingRecord cluster eng s := rfl
@[simp] theorem exec_quantumExpiry (c : CoreRef) : exec (.quantumExpiry c) s = execQuantumExpiry c s := rfl
@[simp] theorem exec_holdLimitExpiry (ctx : Nat) : exec (.holdLimitExpiry ctx) s = execHoldLimitExpiry ctx s := rfl
@[simp] theorem exec_batchStepBoundary (sail : Nat) : exec (.batchStepBoundary sail) s = execBatchStepBoundary sail s := rfl
@[simp] theorem exec_reefWindow (rclass : Nat) (index : Nat) : exec (.reefWindow rclass index) s = execReefWindow rclass index s := rfl
@[simp] theorem exec_confCounterWindow (sail : Nat) : exec (.confCounterWindow sail) s = execConfCounterWindow sail s := rfl
@[simp] theorem exec_getReport (fn : HostFn) (sail : Nat) (nonce : BitVec 256) : exec (.getReport fn sail nonce) s = execGetReport fn sail nonce s := rfl
@[simp] theorem exec_getCert (fn : HostFn) : exec (.getCert fn) s = execGetCert fn s := rfl
@[simp] theorem exec_keyDeliver (fn : HostFn) (bytes : List Byte) (package : List Byte) : exec (.keyDeliver fn bytes package) s = execKeyDeliver fn bytes package s := rfl
@[simp] theorem exec_keyRevoke (fn : HostFn) (sail : Nat) (killCode : BitVec 256) : exec (.keyRevoke fn sail killCode) s = execKeyRevoke fn sail killCode s := rfl
@[simp] theorem exec_drainBoundExpiry (sail : Nat) : exec (.drainBoundExpiry sail) s = execDrainBoundExpiry sail s := rfl
@[simp] theorem exec_bottomTreeBuild : exec .bottomTreeBuild s = execBottomTreeBuild s := rfl
@[simp] theorem exec_transition (fn : HostFn) (block : Nat) : exec (.transition fn block) s = execTransition fn block s := rfl
@[simp] theorem exec_opkeyEnroll (fn : HostFn) : exec (.opkeyEnroll fn) s = execOpkeyEnroll fn s := rfl
@[simp] theorem exec_opkeyRotate (fn : HostFn) (block : Nat) : exec (.opkeyRotate fn block) s = execOpkeyRotate fn block s := rfl
@[simp] theorem exec_userRead (fn : HostFn) (block : Nat) : exec (.userRead fn block) s = execUserRead fn block s := rfl
@[simp] theorem exec_userWrite (fn : HostFn) (block : Nat) : exec (.userWrite fn block) s = execUserWrite fn block s := rfl
@[simp] theorem exec_bypass : exec .bypass s = execBypass s := rfl
@[simp] theorem exec_idcode : exec .idcode s = execIdcode s := rfl
@[simp] theorem exec_samplePreload (preload : List Bool) : exec (.samplePreload preload) s = execSamplePreload preload s := rfl
@[simp] theorem exec_extest : exec .extest s = execExtest s := rfl
@[simp] theorem exec_dbgChallenge : exec .dbgChallenge s = execDbgChallenge s := rfl
@[simp] theorem exec_dbgResponse (level : Nat) (sig : List Byte) : exec (.dbgResponse level sig) s = execDbgResponse level sig s := rfl
@[simp] theorem exec_dbgAccess (a : DebugAccess) : exec (.dbgAccess a) s = execDbgAccess a s := rfl
@[simp] theorem exec_dbgReset : exec .dbgReset s = execDbgReset s := rfl
@[simp] theorem exec_powerOn : exec .powerOn s = execPowerOn s := rfl
@[simp] theorem exec_perst (port : Nat) (lowNs : Nat) (band : Bool) : exec (.perst port lowNs band) s = execPerst port lowNs band s := rfl
@[simp] theorem exec_trayResetN (lowNs : Nat) (band : Bool) : exec (.trayResetN lowNs band) s = execTrayResetN lowNs band s := rfl
@[simp] theorem exec_resetDeassertion (p : ResetPin) (highNs : Nat) : exec (.resetDeassertion p highNs) s = execResetDeassertion p highNs s := rfl
@[simp] theorem exec_softwareWarm (fn : HostFn) (v : Word) : exec (.softwareWarm fn v) s = execSoftwareWarm fn v s := rfl
@[simp] theorem exec_softwareCompute (fn : HostFn) (v : Word) : exec (.softwareCompute fn v) s = execSoftwareCompute fn v s := rfl
@[simp] theorem exec_softwareSail (fn : HostFn) (v : Word) : exec (.softwareSail fn v) s = execSoftwareSail fn v s := rfl
@[simp] theorem exec_blockQuiesce (fn : HostFn) (v : Bool) : exec (.blockQuiesce fn v) s = execBlockQuiesce fn v s := rfl
@[simp] theorem exec_blockReset (fn : HostFn) : exec (.blockReset fn) s = execBlockReset fn s := rfl
@[simp] theorem exec_blockResetComplete : exec .blockResetComplete s = execBlockResetComplete s := rfl
@[simp] theorem exec_bootBegin (fn : HostFn) (len : Nat) : exec (.bootBegin fn len) s = execBootBegin fn len s := rfl
@[simp] theorem exec_bootData (fn : HostFn) (off : Nat) (data : List Byte) : exec (.bootData fn off data) s = execBootData fn off data s := rfl
@[simp] theorem exec_bootEnd (fn : HostFn) (body : List Byte) : exec (.bootEnd fn body) s = execBootEnd fn body s := rfl
@[simp] theorem exec_bootState (fn : HostFn) : exec (.bootState fn) s = execBootState fn s := rfl
@[simp] theorem exec_shutdownGo (fn : HostFn) : exec (.shutdownGo fn) s = execShutdownGo fn s := rfl
@[simp] theorem exec_selfTestComplete (results : List TestEntry) (goldenBad : Bool) : exec (.selfTestComplete results goldenBad) s = execSelfTestComplete results goldenBad s := rfl
@[simp] theorem exec_backgroundTestComplete (results : List TestEntry) (goldenBad : Bool) : exec (.backgroundTestComplete results goldenBad) s = execBackgroundTestComplete results goldenBad s := rfl
@[simp] theorem exec_thermTrip (sensor : Nat) (temp : Int) : exec (.thermTrip sensor temp) s = execThermTrip sensor temp s := rfl
@[simp] theorem exec_powerLoss (cause : PowerLossCause) : exec (.powerLoss cause) s = execPowerLoss cause s := rfl
@[simp] theorem exec_telltaleWindowClose (kind : Nat) (index : Nat) : exec (.telltaleWindowClose kind index) s = execTelltaleWindowClose kind index s := rfl
@[simp] theorem exec_fwBeat : exec .fwBeat s = execFwBeat s := rfl
@[simp] theorem exec_stepBoundExpiry (step : Nat) : exec (.stepBoundExpiry step) s = execStepBoundExpiry step s := rfl
@[simp] theorem exec_suspectReplayEnd (ctx : Nat) (v : ReplayVerdict) : exec (.suspectReplayEnd ctx v) s = execSuspectReplayEnd ctx v s := rfl
@[simp] theorem exec_samplingTimeout : exec .samplingTimeout s = execSamplingTimeout s := rfl
@[simp] theorem exec_channelTrainingLoss (gddr : Bool) (chan : Nat) (retrained : Bool) : exec (.channelTrainingLoss gddr chan retrained) s = execChannelTrainingLoss gddr chan retrained s := rfl
@[simp] theorem exec_cxlLinkLoss (port : Nat) (retrained : Bool) : exec (.cxlLinkLoss port retrained) s = execCxlLinkLoss port retrained s := rfl
@[simp] theorem exec_hostLinkDown (port : Nat) : exec (.hostLinkDown port) s = execHostLinkDown port s := rfl
@[simp] theorem exec_mastheadFault (memory : Bool) : exec (.mastheadFault memory) s = execMastheadFault memory s := rfl
@[simp] theorem exec_hostReadTimeout (a : HostReadRef) : exec (.hostReadTimeout a) s = execHostReadTimeout a s := rfl
@[simp] theorem exec_trimInterval (m : TrimMeasure) : exec (.trimInterval m) s = execTrimInterval m s := rfl
@[simp] theorem exec_powerSample (deciWatts : Nat) (centiVolts : Nat) : exec (.powerSample deciWatts centiVolts) s = execPowerSample deciWatts centiVolts s := rfl
@[simp] theorem exec_droopFlagSet (isl : Island) : exec (.droopFlagSet isl) s = execDroopFlagSet isl s := rfl
@[simp] theorem exec_droopFlagClear (isl : Island) : exec (.droopFlagClear isl) s = execDroopFlagClear isl s := rfl
@[simp] theorem exec_pointSwitch (cluster : Nat) : exec (.pointSwitch cluster) s = execPointSwitch cluster s := rfl
@[simp] theorem exec_undervoltage (isl : Island) : exec (.undervoltage isl) s = execUndervoltage isl s := rfl
@[simp] theorem exec_thermalRead (readings : List (Nat × Int)) : exec (.thermalRead readings) s = execThermalRead readings s := rfl
@[simp] theorem exec_energyAttribution (items : List EnergyItem) : exec (.energyAttribution items) s = execEnergyAttribution items s := rfl
@[simp] theorem exec_status (pec : Bool) : exec (.status pec) s = execStatus pec s := rfl
@[simp] theorem exec_alertCause (pec : Bool) : exec (.alertCause pec) s = execAlertCause pec s := rfl
@[simp] theorem exec_alertCauseClear (pec : Bool) (v : BitVec 16) : exec (.alertCauseClear pec v) s = execAlertCauseClear pec v s := rfl
@[simp] theorem exec_trayCap (pec : Bool) (w : Option (BitVec 16)) : exec (.trayCap pec w) s = execTrayCap pec w s := rfl
@[simp] theorem exec_inputPower (pec : Bool) : exec (.inputPower pec) s = execInputPower pec s := rfl
@[simp] theorem exec_inputVoltage (pec : Bool) : exec (.inputVoltage pec) s = execInputVoltage pec s := rfl
@[simp] theorem exec_hottest (pec : Bool) : exec (.hottest pec) s = execHottest pec s := rfl
@[simp] theorem exec_portMode (pec : Bool) (w : Option Byte) : exec (.portMode pec w) s = execPortMode pec w s := rfl
@[simp] theorem exec_shutdown (pec : Bool) (v : Byte) : exec (.shutdown pec v) s = execShutdown pec v s := rfl
@[simp] theorem exec_smbusIdent (pec : Bool) : exec (.smbusIdent pec) s = execSmbusIdent pec s := rfl
@[simp] theorem exec_inputFault (pec : Bool) : exec (.inputFault pec) s = execInputFault pec s := rfl
@[simp] theorem exec_inputFaultClear (pec : Bool) (v : BitVec 16) : exec (.inputFaultClear pec v) s = execInputFaultClear pec v s := rfl
@[simp] theorem exec_smbusTimeout (pin : Nat) : exec (.smbusTimeout pin) s = execSmbusTimeout pin s := rfl
@[simp] theorem exec_cablePresence (port : Nat) (present : Bool) : exec (.cablePresence port present) s = execCablePresence port present s := rfl
@[simp] theorem exec_portTrainAttempt (port : Nat) (t : Option TrainResult) : exec (.portTrainAttempt port t) s = execPortTrainAttempt port t s := rfl
@[simp] theorem exec_cageShort (port : Nat) : exec (.cageShort port) s = execCageShort port s := rfl
@[simp] theorem exec_inputOvervoltage : exec .inputOvervoltage s = execInputOvervoltage s := rfl
@[simp] theorem exec_reversedPolarity : exec .reversedPolarity s = execReversedPolarity s := rfl
@[simp] theorem exec_sidebandFault (pin : Nat) : exec (.sidebandFault pin) s = execSidebandFault pin s := rfl
@[simp] theorem exec_registerWrite (fn : HostFn) (bar : Nat) (off : Nat) (width : Nat) (v : Word) : exec (.registerWrite fn bar off width v) s = execRegisterWrite fn bar off width v s := rfl
@[simp] theorem exec_blockSlot (port : Nat) (rx : Option RxBlock) : exec (.blockSlot port rx) s = execBlockSlot port rx s := rfl
@[simp] theorem exec_uncorrectableCodeword (port : Nat) (fec : Bool) : exec (.uncorrectableCodeword port fec) s = execUncorrectableCodeword port fec s := rfl
@[simp] theorem exec_cxlViral (port : Nat) : exec (.cxlViral port) s = execCxlViral port s := rfl

end Sys2Proof.Machine
end

