-- ==== Sys2Proof/WellFormed.lean ====
section
/-! DEFINITION. Well-formed commands: every operand names a unit that the block has (R8, R13, R98,
R141, R208). A command that names no unit of the block changes nothing.
Choices of the model here: log entry 60 (DESIGN CHOICE). -/

namespace Sys2Proof

/-- R8, R173: 64 clusters of 34 logical cores. -/
def CoreRef.wf (c : CoreRef) : Bool := decide (c.cluster < 64) && decide (c.core < 34)

/-- R288, R290: two ports, 64 virtual functions each. -/
def HostFn.wf : HostFn → Bool
  | .pf p => decide (p < 2)
  | .sec p => decide (p < 2)
  | .vf p k => decide (p < 2) && decide (1 ≤ k) && decide (k ≤ 64)

/-- The units with a background budget (R137, R349). -/
def BudgetUnit.wf : BudgetUnit → Bool
  | .dramChannel c => decide (c < 128)
  | .way y w => decide (y < 16) && decide (w < 16)
  | .log e => decide (e < 1024)
  | .yard y => decide (y < 16)
  | .gddrChannel c => decide (c < 64)
  | .cxlPort p => decide (p < 2)
  | .ryuPort p => decide (p < 32)
  | .masthead => true

def AccessRef.wf : AccessRef → Bool
  | .row y e _ => decide (y < 16) && decide (e < 32)
  | .migration c _ _ => decide (c < 2048)

def HostReadRef.wf : HostReadRef → Bool
  | .command q n => decide (q < 8192) && decide (n < 2 ^ 32)
  | .dma c e _ => decide (c < 64) && decide (e < 4)
  | .row y e _ => decide (y < 16) && decide (e < 32)
  | .request y _ => decide (y < 16)

/-- A clock island (R433). -/
def Island.wf : Island → Bool
  | .core c p => decide (c < 64) && decide (p < 36)
  | .router r => decide (r < 2465)
  | .yard y => decide (y < 16)
  | .other _ => true

/-- A cleat message comes on a port, or from the device itself (port 32), on one of 16 leases. -/
def CleatMsg.ok (m : CleatMsg) : Bool :=
  decide (m.port ≤ 32) && decide (m.src < 65536) && decide (m.dst < 65536) && decide (m.lease < 16)

def FmHdr.ok (h : FmHdr) : Bool := decide (h.port < 32) && decide (h.src < 65536) && decide (h.dst < 65536)

/-- Whether a command names only units that the block has. -/
def Instr.wf (i : Instr) : Bool :=
  match i with
  | .add c _ _ | .sub c _ _ | .mul c _ _ | .mulhu c _ _ | .divu c _ _ | .remu c _ _ | .and c _ _
  | .or c _ _ | .xor c _ _ | .sll c _ _ | .srl c _ _ | .sra c _ _ | .min c _ _ | .max c _ _
  | .minu c _ _ | .maxu c _ _ | .ceq c _ _ | .cne c _ _ | .clt c _ _ | .cltu c _ _ | .cge c _ _
  | .cgeu c _ _ | .pand c _ _ | .por c _ _ | .pnot c _ _ | .li c _ _ | .lih c _ _ | .nop c _ _
  | .br c _ _ | .brr c _ _ | .call c _ _ | .ret c _ _ | .loop c _ _ | .yield c _ _ | .halt c _ _
  | .ld8u c _ _ | .ld16u c _ _ | .ld32u c _ _ | .ld64 c _ _ | .ld8s c _ _ | .ld16s c _ _
  | .ld32s c _ _ | .st8 c _ _ | .st16 c _ _ | .st32 c _ _ | .st64 c _ _ | .vadd c _ _
  | .vsub c _ _ | .vmul c _ _ | .vfma c _ _ | .vmin c _ _ | .vmax c _ _ | .vdiv c _ _
  | .vrcp c _ _ | .vrsqrt c _ _ | .vexp2 c _ _ | .vlog2 c _ _ | .vand c _ _ | .vor c _ _
  | .vxor c _ _ | .vshl c _ _ | .vshr c _ _ | .vbcast c _ _ | .vredsum c _ _ | .vredmax c _ _
  | .vmov c _ _ | .vsel c _ _ | .vld c _ _ | .vst c _ _ | .vlds c _ _ | .vsts c _ _ | .vgath c _ _
  | .vscat c _ _ | .vcvt c _ _ | .vmxq c _ _ | .vseed c _ _ | .vseedr c _ _ | .mma c _ _
  | .mzero c _ _ | .mld c _ _ | .mst c _ _ | .send c _ _ | .recv c _ _ | .req c _ _ | .sstat c _ _
  | .cbmov c _ _ | .dmasub c _ _ | .fence c _ _ | .waite c _ _ | .sete c _ _ | .adde c _ _
  | .semacq c _ _ | .semtry c _ _ | .semrel c _ _ | .csrr c _ _ | .csrw c _ _ | .flagr c _ _
  | .flagc c _ _ | .time c _ _ | .post c _ | .waitingInstruction c | .yieldOverdue c
  | .preemptAtYieldPoint c | .contextSaveComplete c | .quantumExpiry c => c.wf
  | .pool yard engine | .gather yard engine | .decode yard engine
  | .rowFetchComplete yard engine _ | .fetchPortRead yard engine _ => decide (yard < 16) && decide (engine < 32)
  | .cgBegin yard _ | .update yard _ | .cgCommit yard _ | .cgAbort yard _ | .tblsync yard _
  | .yseed yard _ | .lockReleasedResume yard _ => decide (yard < 16)
  | .cgBeginQuotaGrant yard sail | .engineTakesRequest yard sail => decide (yard < 16) && decide (sail < 64)
  | .cgAction handle idx | .intentLogDurable handle idx => decide (handle < 512) && decide (idx < 64)
  | .commitPoint handle | .groupRetire handle | .holdTimerExpiry handle => decide (handle < 512)
  | .cgApply handle yard => decide (handle < 512) && decide (yard < 16)
  | .ph1Start m | .mirrorPut m | .mirrorAck m | .commit m | .commitAck m | .offer m | .accept m | .ack m
  | .decline m | .stale m | .retire m => m.ok
  | .cleatTimerExpiry _ | .drain | .scrub _ | .cut | .release | .reefWindow _ _
  | .bottomTreeBuild | .bypass | .idcode | .samplePreload _ | .extest | .dbgChallenge
  | .dbgResponse _ _ | .dbgAccess _ | .dbgReset | .powerOn | .trayResetN _ _
  | .resetDeassertion _ _ | .blockResetComplete | .selfTestComplete _ _
  | .backgroundTestComplete _ _ | .thermTrip _ _ | .powerLoss _ | .telltaleWindowClose _ _
  | .fwBeat | .stepBoundExpiry _ | .samplingTimeout
  | .mastheadFault _ | .trimInterval _ | .powerSample _ _
  | .thermalRead _ | .energyAttribution _ | .status _
  | .alertCause _ | .alertCauseClear _ _ | .trayCap _ _ | .inputPower _ | .inputVoltage _
  | .hottest _ | .portMode _ _ | .shutdown _ _ | .smbusIdent _ | .inputFault _
  | .inputFaultClear _ _ | .inputOvervoltage | .reversedPolarity => true
  | .yrdSailPeakRead fn yard sail => fn.wf && decide (yard < 16) && decide (sail < 64)
  | .meshSlot router | .dieLinkLoss router _ => decide (router < 2465)
  | .meshRtrClr fn _ | .ryuClr fn _ | .doeDiscovery fn _ | .getCert fn | .keyDeliver fn _ _
  | .transition fn _ | .opkeyEnroll fn | .opkeyRotate fn _ | .softwareWarm fn _
  | .softwareCompute fn _ | .softwareSail fn _ | .blockQuiesce fn _ | .blockReset fn
  | .bootBegin fn _ | .bootData fn _ _ | .bootEnd fn _ | .bootState fn | .shutdownGo fn => fn.wf
  | .rangeMap q n | .rangeUnmap q n | .rangeModify q n | .rangeSync q n | .quiesceLimitExpiry q n
  | .completionRecord q n | .nopCommand q n | .run q n | .dma q n | .semInit q n | .semRelease q n
  | .tableSync q n | .memPrefetch q n | .memAdvise q n | .orderSet q n | .orderClear q n
  | .dirtyHarvest q n | .exportCreate q n | .exportDestroy q n | .importOpen q n
  | .importClose q n | .ingOpen q n | .ingClose q n | .dispatch q n | .seqSubmit q n
  | .sharedCreate q n | .sharedRelease q n => decide (q < 8192) && decide (n < 2 ^ 32)
  | .rangeDrainEnd ctx | .migrationComplete ctx _ _ | .holdLimitExpiry ctx
  | .suspectReplayEnd ctx _ => decide (ctx < 2048)
  | .prodRead yard slot => decide (yard < 16) && decide (slot < 2048)
  | .portTraining port _ | .linkLoss port _ | .link port _ | .ackTimerExpiry port | .rd port _
  | .wr port _ | .lkup port _ | .hint port _ | .resp port _ | .ing port _ | .impOpen port _
  | .impAck port _ | .impClose port _ | .cablePresence port _ | .portTrainAttempt port _
  | .cageShort port | .blockSlot port _ | .uncorrectableCodeword port _ => decide (port < 32)
  | .ident port node _ _ => decide (port < 32) && decide (node < 65536)
  | .remoteTimeout tag => decide (tag < 32768)
  | .consRead stream => decide (stream < 256)
  | .fmAssign h node _ manager _ => h.ok && decide (node < 65535) && decide (manager < 65536)
  | .fmPeerState h node _ _ => h.ok && decide (node < 65536)
  | .fmRoute h _ _ _ _ | .fmTime h _ _ | .fmFreeze h _ _ | .fmRuling h _ | .fmPlace h _ | .fmAck h _ => h.ok
  | .load port | .loadEnd port | .swap port | .discard port | .pfFunctionLevelReset port | .perst port _ _
  | .cxlLinkLoss port _ | .hostLinkDown port | .cxlViral port => decide (port < 2)
  | .doorbell fn q _ | .overrunClear fn q | .qbCqHead fn q _ | .enable fn q | .disable fn q
  | .qbFenceSignal fn q _ => fn.wf && decide (q < 8192)
  | .commandFetch q | .commandStart q => decide (q < 8192)
  | .create fn sail ctx | .destroy fn sail ctx | .reset fn sail ctx | .resume fn sail ctx =>
    fn.wf && decide (sail < 64) && decide (ctx < 2048)
  | .vfFunctionLevelReset port vf => decide (port < 2) && decide (1 ≤ vf) && decide (vf ≤ 64)
  | .dmaDescriptorStart cluster eng | .dmaDescriptorComplete cluster eng _ _
  | .dmaRingRecord cluster eng => decide (cluster < 64) && decide (eng < 4)
  | .batchStepBoundary sail | .confCounterWindow sail | .drainBoundExpiry sail => decide (sail < 64)
  | .getReport fn sail _ => fn.wf && (decide (sail < 64) || sail == 0xFFFF)
  | .keyRevoke fn sail _ => fn.wf && decide (sail < 64)
  | .userRead fn block | .userWrite fn block => fn.wf && decide (block < 1024)
  | .pointSwitch cluster => decide (cluster < 64)
  | .smbusTimeout pin | .sidebandFault pin => decide (pin < 16)
  | .registerWrite fn bar _ _ _ => fn.wf && decide (bar < 6)
  | .backgroundWindow r => r.wf
  | .accessTimerExpiry a => a.wf
  | .hostReadTimeout a => a.wf
  | .channelTrainingLoss gddr chan _ => decide (chan < if gddr then 64 else 128)
  | .droopFlagSet i | .droopFlagClear i | .undervoltage i => i.wf

end Sys2Proof
end

