-- ==== Sys2Proof/Tests/Slice0.lean ====
section
/-! SUPPORT. Witnesses of the obligations' hypotheses, with what a command does there, on one small block; the check of
well-formed commands refuses an ill-formed term of each kind. -/

namespace Sys2Proof.Machine.T

open Sys2Proof Sys2Proof.Machine

set_option Elab.async false

/-! ### A small block -/

/-- One sail that owns cluster 0, two DRAM channels, two lookup engines and an update engine of yard 0. -/
def desc0 : SailDesc :=
  { role := 0, conf := false, memKey := 1, linkKey := 2, leaseRef := 0, ctxFirst := 0, ctxCount := 4, qFirst := 0, qCount := 4,
    semFirst := 0, semCount := 4, seqFirst := 0, seqCount := 4, vf0 := 1, vf1 := 0, cgQuota := 2, cgHold := 100, devTags := 4,
    cleats := 2, exports := 2, imports := 2, ingest := 2, migYard := 0, migEn := true, cxl0 := 1, cxl1 := 0, trimWeight := 1,
    saveBase := 0, saveLen := 9 }

def rig0 : Rig :=
  { serial := 5, base := 0, period := 64, target := 0, created := 0, digest := 0, dir := [], sails := [(0, desc0)],
    cores := [(0, { phys := List.range 34, spare0 := 34, spare1 := 35, owner := 0x40 })],
    owner := [(0, 0x40), (1, 0x40), (128, 0x40), (192, 0x40), (4288, 0x40), (4544, 0x40), (4545, 0x40), (5056, 0x40), (5184, 0x40)],
    quotas := [], fetch := [], remoteEntries := [], logs := [{ addr := 0x20000, sail := 0, yard := 0, log2 := 16 }],
    sched := [],
    streams := [
      { srcRouter := 0, srcTag := 1, dstRouter := 1, dstTag := 2, sail := 0, request := false, quota := 4, dmax := 64, gap := 1 },
      { srcRouter := 1, srcTag := 1, dstRouter := 0, dstTag := 2, sail := 0, request := false, quota := 4, dmax := 64, gap := 1 },
      { srcRouter := 0, srcTag := 3, dstRouter := 2304, dstTag := 0, sail := 0, request := true, quota := 2, dmax := 64, gap := 1 }],
    links := [], reef := [],
    telltale := [], budget := [] }

/-- 2^20 bytes from virtual address 2^20 on, at the start of DRAM channel 0. -/
def range0 : RangeE :=
  { vstart := 0x100000, pages := 256, target := 0xFFFF000000000000, r := true, w := true, x := true, dlog := false, mig := false,
    pool := false, shared := false, direct := false, pmap := 0, dmap := 0 }

def prog0 : Prog :=
  { ctx := 0, q := 0, n := 0, lcore := 0, ncore := 1, pc := 0x100000, s := Vector.replicate 32 0, p := 1,
    v := Vector.replicate 32 0, acc := Vector.replicate 4 { tag := .fp32, el := [] }, e := Vector.replicate 16 0, loops := [],
    gens := Vector.replicate 64 0, live := 8, cycle := 0, yieldCount := 0, vecQ := [], matQ := [], strmQ := [], recvs := [], xferQ := [],
    reqs := [], errs := [], waiting := none, stopped := false, atYield := false }

/-- The block in operation under `rig0`, with an ACTIVE context and program `p` on core 0. -/
def small (p : Prog) : State :=
  { State.reset with
    rig := { RigSt.reset with active := some rig0, highSerial := 5 }
    ctxs := [(0, { Ctx.empty with st := .active, ranges := [range0] })]
    sails := [(0, { Sail.empty with state := 1 })]
    cores := [(0, { CoreSlot.empty with prog := some p })] }

def c0 : CoreRef := ⟨0, 0⟩
def always : Pred := ⟨0, false⟩

def after (o : Out) : State :=
  match o with
  | .next t => t
  | _ => State.reset

/-! ### Witnesses: core programs -/

/-- `s` with the word of instruction `i` at the PC of the program on core 0. -/
def coded (i : Instr) (s : State) : State :=
  match encodeWord i with
  | none => s
  | some w =>
    let a := ((s.prog 0).map (fun p => p.pc.toNat - 0x100000)).getD 0
    { s with mem := (writeBytes s a (leBytes 8 w.toNat)).mem }

/-- Instruction `i` is issued where its word stands at the PC. -/
def run (i : Instr) (s : State) : Out := exec i (coded i s)

/-- Program `p` on core 0 stands at the word of `i`, which it executes next: the hypotheses of every statement about an instruction. -/
def Issues (i : Instr) (p : Prog) : Prop :=
  let s := coded i (small p)
  Runs s c0 p (fetch s 0 p).1 ∧ Coded s c0 p (fetch s 0 p).1 i

def issuesNow (i : Instr) (p : Prog) : Bool :=
  let s := coded i (small p)
  let f := fetch s 0 p
  (s.core 0).issues p && decide (p.yieldCount < 32768) && !coreStopped s 0 && f.2 == .ok 0 &&
    speltBy c0 i (wordsAt f.1 0 p.ctx p.pc.toNat 0) == .this

theorem issues (i : Instr) (p : Prog) (h : issuesNow i p = true) : Issues i p := by
  simp only [issuesNow, Bool.and_eq_true, decide_eq_true_eq, Bool.not_eq_true', beq_iff_eq] at h
  obtain ⟨⟨⟨⟨h1, h2⟩, h3⟩, h4⟩, h5⟩ := h
  have hf : fetch (coded i (small p)) 0 p = ((fetch (coded i (small p)) 0 p).1, .ok 0) := Prod.ext rfl h4
  refine ⟨⟨by decide, by decide, ?_, h1, h2, h3, ⟨0, hf⟩⟩, ⟨0, hf, h5⟩⟩
  unfold coded
  split <;> rfl

theorem issues_nop : Issues (.nop c0 always ⟨0, 0, 0, 0⟩) prog0 := issues _ _ (by decide +kernel)

/-- The program on core 0 after a command. -/
def progAfter (i : Instr) (p : Prog) : Option Prog := (after (run i (small p))).prog 0

/-- ScalarOperations, CoreStateRegisters: the hypotheses hold, and ADD wraps modulo 2^64. -/
theorem test_add_wraps : prog0.allows always = true ∧
    (progAfter (.add c0 always (.imm 5 0 (-1))) prog0).map (fun p => (p.sreg 5, p.pc)) = some (BitVec.allOnes 64, 0x100008) ∧
    (progAfter (.add c0 always (.imm 0 0 (-1))) prog0).map (fun p => p.sreg 0) = some 0 := by decide +kernel

theorem test_compare : (progAfter (.clt c0 always (.imm 3 0 1)) prog0).map (fun p => p.preg 3) = some true ∧
    (progAfter (.cltu c0 always (.imm 3 0 (-1))) prog0).map (fun p => p.preg 3) = some true ∧
    (progAfter (.pnot c0 always (.reg 4 0 0 0)) prog0).map (fun p => p.preg 4) = some false := by decide +kernel

theorem test_illegal : (after (run (.add c0 always (.reg 5 0 0 1)) (small prog0))).ctx 0 =
    { (small prog0).ctx 0 with cf := { cause := 0x01, lcore := 0, status := 0x50, valid := true, more := false, pc := 0x100000 } } := by
  decide +kernel

def looping : Prog := { prog0 with loops := [⟨0x100000, 0x100008, 2⟩] }

/-- ControlAndLoops: a branch that stays in the body of a loop, at its last instruction. -/
theorem witness_branch : Issues (.br c0 always ⟨0, 0, 0, 1⟩) looping ∧ looping.allows always = true ∧
    (∀ l ∈ looping.loops, l.first.toNat ≤ (looping.pc + 8 * (1 : BitVec 32).signExtend 56).toNat ∧
      (looping.pc + 8 * (1 : BitVec 32).signExtend 56).toNat ≤ l.last.toNat) ∧
    (progAfter (.br c0 always ⟨0, 0, 0, 1⟩) looping).map (·.pc) = some 0x100008 :=
  ⟨issues _ _ (by decide +kernel), by decide, by decide +kernel, by decide +kernel⟩

def jumping : Prog := { prog0 with s := prog0.s.set 3 0x100010, loops := [] }

theorem witness_jump : Issues (.brr c0 always ⟨3, 0, 0, 0⟩) jumping ∧ (jumping.sreg 3).toNat % 8 = 0 ∧
    (∀ l ∈ jumping.loops, l.first.toNat ≤ 0x100010 ∧ 0x100010 ≤ l.last.toNat) ∧
    (progAfter (.brr c0 always ⟨3, 0, 0, 0⟩) jumping).map (·.pc) = some 0x100010 :=
  ⟨issues _ _ (by decide +kernel), by decide +kernel, by decide +kernel, by decide +kernel⟩

def three : Prog := { prog0 with loops := [⟨0x100000, 0x200000, 9⟩, ⟨0x100000, 0x200000, 9⟩, ⟨0x100000, 0x200000, 9⟩] }

theorem witness_loop : Issues (.loop c0 always ⟨0, 0, 0, 1⟩) three ∧ 1 ≤ (1 : BitVec 32).toInt ∧ three.loops.length < 4 ∧
    (progAfter (.loop c0 always ⟨0, 0, 0, 1⟩) three).map (fun p => (p.loops.length, p.pc)) = some (3, 0x100010) ∧
    stepLoops 0x200000 three.loops = (0x100000, ⟨0x100000, 0x200000, 8⟩ :: three.loops.tail) ∧
    stepLoops 0x200000 [⟨0x100000, 0x200000, 1⟩] = (0x200008, []) :=
  ⟨issues _ _ (by decide +kernel), by decide +kernel, by decide, by decide +kernel, by decide +kernel, by decide +kernel⟩

/-- ControlAndLoops: each breach of R66 faults. -/
theorem witness_control_breaches :
    let bad := fun (i : Instr) (p : Prog) => ((after (run i (small p))).ctx 0).cf.cause
    bad (.loop c0 always ⟨0, 0, 0, 0⟩) prog0 = 0x01 ∧ bad (.loop c0 always ⟨0, 0, 0, 1⟩) { three with loops := three.loops ++ looping.loops } = 0x01 ∧
    bad (.yield c0 always ⟨0, 0, 129, 0⟩) prog0 = 0x01 ∧ bad (.br c0 always ⟨0, 0, 0, 2⟩) looping = 0x01 ∧
    bad (.ret c0 always ⟨0, 0, 0, 0⟩) looping = 0x01 ∧
    bad (.brr c0 always ⟨3, 0, 0, 0⟩) { prog0 with s := prog0.s.set 3 0x100004 } = 0x02 := by decide +kernel

theorem witness_yield_halt : (128 : BitVec 8).toNat ≤ 128 ∧ prog0.idle = true ∧
    (progAfter (.yield c0 always ⟨0, 0, 128, 0⟩) prog0).map (fun p => (p.live, p.atYield)) = some (128, true) ∧
    (progAfter (.halt c0 always ⟨0, 0, 0, 0⟩) prog0) = none := by decide +kernel

/-- PredicateOff: a legal ADD writes nothing, and an illegal ADD faults all the same. -/
theorem witness_predicate_off : Issues (.add c0 ⟨3, false⟩ (.imm 1 1 9)) prog0 ∧ prog0.allows ⟨3, false⟩ = false ∧
    (progAfter (.add c0 ⟨3, false⟩ (.imm 1 1 9)) prog0).map (fun p => (p.sreg 1, p.pc)) = some (0, 0x100008) ∧
    ((after (run (.add c0 ⟨3, false⟩ (.reg 1 1 1 5)) (small prog0))).ctx 0).cf.cause = 0x01 :=
  ⟨issues _ _ (by decide +kernel), by decide, by decide +kernel, by decide +kernel⟩

/-- CoreFaultRecord: both values of VALID. -/
theorem witness_fault_record : ((small prog0).ctx 0).cf.valid = false ∧
    ((recordCoreFault (small prog0) 0 .poison 3 8).ctx 0).cf.valid = true ∧
    ((recordCoreFault (recordCoreFault (small prog0) 0 .poison 3 8) 0 .misaligned 4 16).ctx 0).cf =
      { cause := 0x09, lcore := 3, status := 0x23, valid := true, more := true, pc := 8 } := by decide +kernel

/-- ScalarMemory: s3 holds the address, s4 the value. -/
def storing (a : Word) : Prog := { prog0 with s := (prog0.s.set 3 a).set 4 0x1122334455667788 }

theorem witness_scalar_memory : Issues (.st64 c0 always ⟨4, 3, 0, 0⟩) (storing 0x7FFF8) ∧
    ((storing 0x7FFF8).sreg 3).toNat % 8 = 0 ∧ ((storing 0x7FFF8).sreg 3).toNat + 8 = 0x80000 ∧
    ((drainVec (small (storing 0x7FFF8)) 0).prog 0).isSome = true ∧ ((drainVec (small (storing 0x7FFF8)) 0).spadBase 0).isSome = true ∧
    (∀ b ∈ (small prog0).spadBase 0, anyPoison (small (storing 0x7FFF8)) (b + 0x7FFF8) 8 = false ∧
      anyPoison (poisonSpan (small (storing 0x7FFF8)) (b + 0x7FFF8) 8) (b + 0x7FFF8) 8 = true) :=
  ⟨issues _ _ (by decide +kernel), by decide +kernel, by decide +kernel, by decide +kernel, by decide +kernel, by decide +kernel⟩

theorem test_store_then_load :
    ((after (run (.ld16s c0 always ⟨6, 3, 0, 0⟩) (after (run (.st64 c0 always ⟨4, 3, 0, 0⟩) (small (storing 0x7FFF8)))))).prog 0).map
      (fun p => p.sreg 6) = some 0x7788 := by decide +kernel

theorem test_load_faults :
    ((after (run (.ld64 c0 always ⟨6, 3, 0, 0⟩) (small (storing 0x7FFFC)))).ctx 0).cf.cause = 0x02 ∧
    ((after (run (.ld64 c0 always ⟨6, 3, 0, 0⟩) (small (storing 0x80000)))).ctx 0).cf.cause = 0x03 := by decide +kernel

def vecProg (n : Nat) (w : VecWork) : Prog := { prog0 with vecQ := List.replicate n { work := w, pc := 8 } }
def intAdd : ValuFields := ⟨2, 0, 1, 0, 0xE, 0, false, 0⟩

/-- QueuedIssue: a vector queue with a place left, and a full one. -/
theorem witness_vector_issue : Issues (.vadd c0 always intAdd) (vecProg 7 (.alu .add intAdd 0)) ∧
    Issues (.vadd c0 always intAdd) (vecProg 8 (.alu .add intAdd 0)) ∧
    (∃ x ∈ valuOps, intAdd.fmt ∈ x.2.2.1) ∧ intAdd.rsv = 0 ∧ intAdd.rm.toNat < 2 ∧
    cvtLegal ⟨2, 0, 0, 1, 2, false, 0, 0, 0⟩ = true ∧
    (progAfter (.vadd c0 always intAdd) (vecProg 7 (.alu .add intAdd 0))).map (fun p => (p.vecQ.length, p.waiting.isSome)) = some (8, false) ∧
    (progAfter (.vadd c0 always intAdd) (vecProg 8 (.alu .add intAdd 0))).map (fun p => (p.vecQ.length, p.waiting.isSome)) = some (8, true) :=
  ⟨issues _ _ (by decide +kernel), issues _ _ (by decide +kernel), by decide +kernel, by decide,
   by decide, by decide +kernel, by decide +kernel, by decide +kernel⟩

def adding : Prog := { vecProg 1 (.alu .add intAdd 0) with v := (prog0.v.set 0 0xFFFFFFFF).set 1 2 }

/-- VectorResults: INT32 addition wraps in each lane. -/
theorem witness_vector_result : VecReady (small adding) c0 adding (.alu .add intAdd 0) [] ∧ Fmt.ofCode intAdd.fmt = some .int32 ∧
    (progAfter (.post c0 .vector) adding).map (fun p => (laneOf (p.vreg 2) 0, p.vecQ.length)) = some (1, 0) :=
  ⟨⟨rfl, rfl, ⟨8, rfl⟩⟩, rfl, by decide +kernel⟩

def vmemF : VmemFields := ⟨2, 3, 4, 0, 0⟩
def loading (base : Word) : Prog := { prog0 with s := (prog0.s.set 3 base).set 4 4 }

/-- QueuedIssue: the spans of a VLD that ends with the scratchpad, of one that is misaligned, of one that does not fit. -/
theorem witness_vector_memory : (∀ a ∈ vmemSpans .vld 0x7FF00 4 0, a.1.toNat % a.2.2 = 0 ∧ a.1.toNat + a.2.1 = 0x80000) ∧
    (∃ a ∈ vmemSpans .vld 0x7FF10 4 0, a.1.toNat % a.2.2 ≠ 0) ∧ (∃ a ∈ vmemSpans .vlds 0x7FF10 4 0, 0x80000 < a.1.toNat + a.2.1) ∧
    Issues (.vld c0 always vmemF) (loading 0x7FF00) ∧
    ((drainVec (small (loading 0x7FF00)) 0).prog 0).isSome = true ∧
    (progAfter (.vld c0 always vmemF) (loading 0x7FF00)).map (fun p => p.vecQ.length) = some 1 ∧
    ((after (run (.vld c0 always vmemF) (small (loading 0x7FF10)))).ctx 0).cf.cause = 0x02 ∧
    ((after (run (.vlds c0 always vmemF) (small (loading 0x7FF10)))).ctx 0).cf.cause = 0x03 :=
  ⟨by decide +kernel, by decide +kernel, by decide +kernel, issues _ _ (by decide +kernel), by decide +kernel,
   by decide +kernel, by decide +kernel, by decide +kernel⟩

def storingV : Prog := { vecProg 1 (.mem .vsts vmemF 0 0) with v := prog0.v.set 2 (BitVec.ofNat 2048 (5 + 2 ^ 2016 * 9)) }

/-- VectorMemoryEffect: lanes that all store to one place; the highest lane stands. -/
theorem witness_vector_store : VecReady (small storingV) c0 storingV (.mem .vsts vmemF 0 0) [] ∧
    (∀ a ∈ vmemSpans .vsts 0 0 (storingV.vreg 4), a.1.toNat + a.2.1 ≤ 0x80000) ∧ (small storingV).spadBase 0 = some (spadKey 0) ∧
    readNat (after (run (.post c0 .vector) (small storingV))) (spadKey 0) 4 = 9 :=
  ⟨⟨rfl, rfl, ⟨8, rfl⟩⟩, by decide +kernel, by decide +kernel, by decide +kernel⟩

def cvtF : VcvtFields := ⟨2, 0, 0, 1, 0, false, 0, 0, 0⟩
def mxqF : VcvtFields := ⟨2, 0, 0, 5, 0, false, 0, 6, 0⟩

/-- VectorConversions: each of the four instructions with its work at the head of the queue; 1.0 as BF16. -/
theorem witness_conversions : Fmt.ofCode cvtF.sf = some .fp32 ∧ Fmt.ofCode cvtF.df = some .bf16 ∧ cvtListed .fp32 .bf16 = true ∧ cvtF.rm ≠ 3 ∧
    VecReady (small (vecProg 1 (.cvt cvtF))) c0 (vecProg 1 (.cvt cvtF)) (.cvt cvtF) [] ∧
    (∃ df, Fmt.ofCode mxqF.df = some df ∧ df.isMx = true) ∧
    VecReady (small (vecProg 1 (.mxq mxqF))) c0 (vecProg 1 (.mxq mxqF)) (.mxq mxqF) [] ∧
    VecReady (small (vecProg 1 (.seed cvtF))) c0 (vecProg 1 (.seed cvtF)) (.seed cvtF) [] ∧
    VecReady (small (vecProg 1 (.seedr cvtF))) c0 (vecProg 1 (.seedr cvtF)) (.seedr cvtF) [] ∧
    (progAfter (.post c0 .vector) { vecProg 1 (.cvt cvtF) with v := prog0.v.set 0 0x3F800000 }).map (fun p => p.vreg 2) = some 0x3F80 ∧
    (progAfter (.post c0 .vector) (vecProg 1 (.seed cvtF))).map (fun p => p.gen 3) = some 0x9E3779BC := by
  refine ⟨rfl, rfl, rfl, by decide, ⟨rfl, rfl, ⟨8, rfl⟩⟩, by decide +kernel, ⟨rfl, rfl, ⟨8, rfl⟩⟩, ⟨rfl, rfl, ⟨8, rfl⟩⟩, ⟨rfl, rfl, ⟨8, rfl⟩⟩, ?_, ?_⟩ <;>
    decide +kernel

def matF : MatFields := ⟨1, 5, 6, 7, true, 2, true, 0, 0, false, 0⟩
/-- Descriptors of two INT8 operands at 0 and at 0x1000, K in s7. -/
def mmaProg : Prog := { prog0 with s := ((prog0.s.set 5 (BitVec.ofNat 64 (9 * 2 ^ 38))).set 6 (BitVec.ofNat 64 (9 * 2 ^ 38 + 0x1000))).set 7 32 }
def matProg (w : MatWork) (n : Nat) : Prog := { mmaProg with matQ := List.replicate n { work := w, pc := 8 } }

theorem witness_matrix_issue : Issues (.mma c0 always matF) (matProg (.mzero matF) 1) ∧
    Issues (.mma c0 always matF) (matProg (.mzero matF) 2) ∧ matF.rsv = 0 ∧ matF.z = true ∧
    mstLegal .fp32 0 = true ∧ badSpace 0 = false ∧
    (progAfter (.mma c0 always matF) (matProg (.mzero matF) 1)).map (fun p => (p.matQ.length, p.waiting.isSome)) = some (2, false) ∧
    (progAfter (.mma c0 always matF) (matProg (.mzero matF) 2)).map (fun p => (p.matQ.length, p.waiting.isSome)) = some (2, true) :=
  ⟨issues _ _ (by decide +kernel), issues _ _ (by decide +kernel), by decide, by decide, by decide,
   by decide, by decide +kernel, by decide +kernel⟩

/-- MatrixResults: an MMA of two INT8 operands with K = 32, its spans clean; an MST of INT32 elements as they are; an MST to MX4. -/
theorem witness_matrix_result :
    let w := MatWork.mma matF (BitVec.ofNat 64 (9 * 2 ^ 38)) (BitVec.ofNat 64 (9 * 2 ^ 38 + 0x1000)) 32
    let st := MatWork.mst { matF with fmt := 0xE } 0x2000 0
    let mx := MatWork.mst { matF with fmt := 5 } 0x2000 0x4000
    let pi := { matProg st 1 with acc := prog0.acc.set 1 { tag := .int32, el := [(0, 7)] } }
    MatReady (small (matProg w 1)) c0 (matProg w 1) w [] ∧ (small (matProg w 1)).spadBase 0 = some (spadKey 0) ∧
    (matDesc (BitVec.ofNat 64 (9 * 2 ^ 38))).fmt = some .int8 ∧ pairTag .int8 .int8 = some .int32 ∧
    descBad (matDesc (BitVec.ofNat 64 (9 * 2 ^ 38 + 0x1000))) .int8 32 = false ∧ kLegal .int8 .int8 32 = true ∧
    (∀ x ∈ descSpans (matDesc (BitVec.ofNat 64 (9 * 2 ^ 38 + 0x1000))) .int8 32, anyPoison (small (matProg w 1)) (spadKey 0 + x.1) x.2 = false) ∧
    MatReady (small (matProg (.mzero matF) 1)) c0 (matProg (.mzero matF) 1) (.mzero matF) [] ∧ tagOf matF.fmt = some .fp32 ∧
    MatReady (small (matProg (.mld matF 0x7F000) 1)) c0 (matProg (.mld matF 0x7F000) 1) (.mld matF 0x7F000) [] ∧
    (0x7F000 : Word).toNat + 4096 ≤ 0x80000 ∧
    MatReady (small pi) c0 pi st [] ∧ fullRange (small pi) pi 0x2000 (128 * Fmt.int32.width) = none ∧
    fullKey (small pi) 0 pi 0x2000 = some (spadKey 0 + 0x2000) ∧
    MatReady (small (matProg mx 1)) c0 (matProg mx 1) mx [] ∧ Fmt.mx4.isMx = true ∧
    fullRange (small (matProg mx 1)) (matProg mx 1) 0x4000 32 = none := by
  refine ⟨⟨rfl, rfl, ⟨8, rfl⟩⟩, ?_, ?_, ?_, ?_, ?_, ?_, ⟨rfl, rfl, ⟨8, rfl⟩⟩, ?_, ⟨rfl, rfl, ⟨8, rfl⟩⟩, ?_, ⟨rfl, rfl, ⟨8, rfl⟩⟩, ?_, ?_, ⟨rfl, rfl, ⟨8, rfl⟩⟩, ?_, ?_⟩ <;>
    decide +kernel

/-- A term of an MMA: 32 products of 3 and -2. -/
theorem test_mma :
    let d : OperandData := { fmt := .int8, el := (2 ^ 8192 - 1) / 255 * 3, plane1 := 0, scale := 0 }
    (mmaElem .int32 d { d with el := (2 ^ 8192 - 1) / 255 * 0xFE } 32 0 0 0).1.toInt = -192 := by decide +kernel

def strmF (st : BitVec 4) : StrmFields := ⟨st, 3, 4, 4, 1, true, 0⟩
/-- s3 an address, s4 a length or destination. -/
def strmProg (a n : Word) (l : List (Queued StrmWork)) : Prog := { prog0 with s := (prog0.s.set 3 a).set 4 n, strmQ := l }

/-- QueuedIssue: SEND and RECV on bound streams with the largest length that fits, a stream without an entry, a full queue. -/
theorem witness_stream_issue :
    let p := strmProg 0 0x80000 []
    let full := strmProg 0 0x80000 (List.replicate 16 { work := .send (strmF 1) 0 32 0, pc := 8 })
    Issues (.send c0 always (strmF 1)) p ∧ Issues (.send c0 always (strmF 1)) full ∧
    (sendDef (small p) 0 1).isSome = true ∧ (recvDef (small p) 0 2).isSome = true ∧ sendDef (small p) 0 7 = none ∧ badSpace (p.sreg 3) = false ∧
    fullRange (small p) p 0 0x80000 = none ∧ (fullRange (small p) p 32 0x80000).isSome = true ∧ (small p).coreRouter 0 = some 0 ∧
    (progAfter (.send c0 always (strmF 1)) p).map (fun p => p.strmQ.length) = some 1 ∧
    (progAfter (.recv c0 always (strmF 2)) p).map (fun p => (p.strmQ.length, p.recvs.length)) = some (0, 1) ∧
    (progAfter (.send c0 always (strmF 1)) full).map (fun p => p.waiting.isSome) = some true ∧
    ((after (run (.send c0 always (strmF 7)) (small p))).ctx 0).cf.cause = 0x06 := by
  refine ⟨issues _ _ (by decide +kernel), issues _ _ (by decide +kernel), ?_⟩
  decide +kernel

def frame0 : Frame := { sail := 0, srcTag := 1, first := true, last := true, poison := false, half := false, crc := 0, payload := List.replicate 64 0xAB }

/-- StreamEffect: a send whose bytes are all sent, a receive whose buffer is full, and one for which a frame waits. -/
theorem witness_stream_effect :
    let sent := strmProg 0 0 [{ work := .send (strmF 1) 0 32 32, pc := 8 }]
    let filled := { prog0 with recvs := [{ f := strmF 2, a := 0, len := 32, filled := 32 }] }
    let half := { prog0 with recvs := [{ f := strmF 2, a := 0, len := 128, filled := 0 }] }
    let v := { small half with mesh := { MeshSt.reset with rx := [(2, [frame0])], grant := [(2, 64)] } }
    (small sent).prog 0 = some sent ∧ (progAfter (.post c0 (.send 1)) sent).map (fun p => (p.strmQ.length, p.event 1)) = some (0, 1) ∧
    (small filled).mesh.rx.get [] 2 = [] ∧ wanted filled 2 ≤ (small filled).mesh.grant.get 0 2 ∧
    (progAfter (.post c0 (.recv 2)) filled).map (fun p => (p.recvs.length, p.event 1)) = some (0, 1) ∧
    v.mesh.rx.get [] (tagKey 0 2) = [frame0] ∧ 128 ≤ 64 + v.mesh.grant.get 0 (tagKey 0 2) ∧ frame0.payload.length = 64 ∧ fullKey v 0 half 0 = some (spadKey 0) ∧
    readB (after (run (.post c0 (.recv 2)) v)) (spadKey 0 + 63) = 0xAB := by decide +kernel

/-- A POOL record for table 0 with no IDs. -/
def poolRecord : List Byte := leBytes 32 1

/-- A program whose request with tag 0 is entry 0 of yard 0. -/
def asker : Prog :=
  { prog0 with reqs := [{ tag := 0, seq := 0, st := 3, dst := 0x100, evt := 1, post := true, ret := none, marks := [], at_ := .yard 0 0 }] }

/-- RequestIssue: a request on the stream of yard 0. -/
theorem witness_request :
    let p := strmProg 0 0x100 []
    let v := store (small p) (spadKey 0) poolRecord
    (reqDef (small p) 0 3).isSome = true ∧ reqDef (small p) 0 1 = none ∧ (p.sreg 3).toNat % 32 = 0 ∧ recordLen (reqHdr poolRecord) = 32 ∧
    fullRange (small p) p 0x100 1 = none ∧ freeReqTag (small p) 0 = some 0 ∧ lookupEngines (small p) 0 0 = [0, 1] ∧ anyPoison v (spadKey 0) 32 = false ∧
    ((after (run (.req c0 always (strmF 3)) v)).prog 0).map (fun p => p.reqs.map (·.at_)) = some [.mesh] ∧
    (((after (run (.req c0 always (strmF 3)) v)).mesh.iface.get [] 3).map (·.bytes)).flatten = poolRecord ∧
    ((serveRequest (small asker) 2304 { sail := 0, lc := 0, tag := 0, seq := 0, held := none, ret := none } asker poolRecord).yard 0).reqs.map
      (fun r => (r.id, r.sail)) = [(0, 0)] := by decide +kernel

def ready (st : Status) : ReqOut :=
  { tag := 0, seq := 0, st := 3, dst := 0x100, evt := 1, post := true, ret := some (st, leBytes 32 5), marks := [], at_ := .endpoint }

/-- RequestReturn: a return that is DONE, one that is not, and SSTAT of its stream. -/
theorem witness_return :
    let p := { prog0 with reqs := [ready .done] }
    let bad := { prog0 with reqs := [ready .malformed] }
    let err := { prog0 with errs := [{ st := 3, status := .malformed }] }
    (small p).prog 0 = some p ∧ fullRange (small p) p 0x100 32 = none ∧ fullKey (small p) 0 p 0x100 = some (spadKey 0 + 0x100) ∧
    (progAfter (.post c0 (.req 3)) p).map (fun p => (p.reqs.length, p.event 1)) = some (0, 1) ∧
    readB (after (run (.post c0 (.req 3)) (small p))) (spadKey 0 + 0x100) = 5 ∧
    (progAfter (.post c0 (.req 3)) bad).map (fun p => p.errs.map (·.status)) = some [.malformed] ∧
    (progAfter (.sstat c0 always (strmF 3)) err).map (fun p => (p.sreg 3, p.errs.length)) = some (0x50, 0) := by decide +kernel

def xferF : XferFields := ⟨3, 4, 5, 1, true, 0, 0⟩
def xferProg (d a l : Word) (q : List (Queued XferWork)) : Prog := { prog0 with s := ((prog0.s.set 3 d).set 4 a).set 5 l, xferQ := q }

/-- Transfers: the longest CBMOV, a full queue, the two completions. -/
theorem witness_transfers :
    let p := xferProg 0x20000 0 65536 []
    let full := xferProg 0x20000 0 65536 (List.replicate 4 { work := .dmasub xferF 0, pc := 8 })
    let move := xferProg 0 0 0 [{ work := .cbmov xferF 0x100 0 32, pc := 8 }]
    let sub := xferProg 0 0 0 [{ work := .dmasub xferF 0, pc := 8 }]
    Issues (.cbmov c0 always xferF) p ∧ Issues (.cbmov c0 always xferF) full ∧ fullRange (small p) p 0 65536 = none ∧
    fullRange (small p) p 0x20000 65536 = none ∧ (fullRange (small p) p 0x70020 65536).isSome = true ∧
    (progAfter (.cbmov c0 always xferF) p).map (fun p => p.xferQ.length) = some 1 ∧
    (progAfter (.cbmov c0 always xferF) full).map (fun p => p.waiting.isSome) = some true ∧
    (progAfter (.dmasub c0 always xferF) p).map (fun p => p.xferQ.length) = some 1 ∧
    readB (after (run (.post c0 .transfer) (store (small move) (spadKey 0) [7]))) (spadKey 0 + 0x100) = 7 ∧
    ((after (run (.post c0 .transfer) (small sub))).engine 0).descs.map (fun d => (d.id, d.phase)) = [(0, .accepted)] := by
  refine ⟨issues _ _ (by decide +kernel), issues _ _ (by decide +kernel), ?_⟩
  decide +kernel

def syncF : SyncFields := ⟨3, 1, 0x8, 5, 0⟩

/-- FencesAndEvents: a fence that is met and one that is not, an event that has reached its target and one that has not. -/
theorem witness_fences :
    let busy := xferProg 0 0 0 [{ work := .dmasub xferF 0, pc := 8 }]
    let at5 := { prog0 with e := prog0.e.set 1 5 }
    (progAfter (.fence c0 always syncF) prog0).map (fun p => p.waiting.isSome) = some false ∧
    (progAfter (.fence c0 always syncF) busy).map (fun p => p.waiting.isSome) = some true ∧
    (progAfter (.waite c0 always syncF) at5).map (fun p => p.waiting.isSome) = some false ∧
    (progAfter (.waite c0 always syncF) prog0).map (fun p => p.waiting.isSome) = some true ∧
    (progAfter (.adde c0 always syncF) at5).map (fun p => p.event 1) = some 10 ∧
    (progAfter (.sete c0 always syncF) at5).map (fun p => p.event 1) = some 5 := by decide +kernel

/-- SemaphoreRules: semaphore 0 belongs to the sail, semaphore 4 does not; with VALUE 5 the acquire is granted, with 4 it waits. -/
theorem witness_semaphores :
    let v := fun (n : Nat) => (small prog0).setSem 0 { value := n, max := 10, hold := 100, ovf := 0, waiters := [] }
    let other := { prog0 with s := prog0.s.set 3 4 }
    (v 5).ctxSail 0 = some 0 ∧ (v 5).semSail 0 = some 0 ∧ (v 5).semSail 4 = none ∧ ((v 5).ctx 0).semRev = false ∧
    ((after (run (.semacq c0 always syncF) (v 5))).sem 0).value = 0 ∧ ((after (run (.semacq c0 always syncF) (v 5))).ctx 0).holds = [⟨0, 5⟩] ∧
    ((after (run (.semacq c0 always syncF) (v 4))).sem 0).waiters.length = 1 ∧
    ((after (run (.semtry c0 always syncF) (v 4))).prog 0).map (fun p => p.preg 1) = some false ∧
    ((after (run (.semrel c0 always syncF) (v 10))).sem 0).ovf = 5 ∧
    ((after (run (.semacq c0 always syncF) (small other))).ctx 0).cf.cause = 0x0A := by decide +kernel

def sysF (csr : BitVec 12) : SysFields := ⟨6, 3, csr, 0⟩

/-- CoreStateRegisters: registers that exist at the ends of their ranges, and numbers beside them. -/
theorem witness_csr :
    (progAfter (.csrr c0 always (sysF 4)) prog0).map (fun p => p.sreg 6) = some 32768 ∧
    (progAfter (.csrr c0 always (sysF 0x1F)) prog0).map (fun p => p.sreg 6) = some 0 ∧
    ((after (run (.csrr c0 always (sysF 7)) (small prog0))).ctx 0).cf.cause = 0x01 ∧
    (progAfter (.csrw c0 always (sysF 3)) { prog0 with s := prog0.s.set 3 128 }).map (·.live) = some 128 ∧
    ((after (run (.csrw c0 always (sysF 0x20)) (small prog0))).ctx 0).cf.cause = 0x01 ∧
    (progAfter (.flagr c0 always (sysF 0)) prog0).map (fun p => p.sreg 6) = some 0 ∧
    ((after (run (.flagc c0 always (sysF 0)) (small prog0))).ctx 0).arith = 0 ∧
    (progAfter (.time c0 always (sysF 0)) prog0).map (fun p => p.sreg 6) = some 0 := by decide +kernel

def waitsFor (w : WaitFor) : Prog := { prog0 with waiting := some { why := w, i := .fence c0 always syncF } }
def asked (p : Prog) : State := (small p).setCore 0 { CoreSlot.empty with prog := some p, preempt := some 0 }

/-- WaitsAndYields: granted, waiting at a semaphore, a fence that is met now; a pre-emption request; the hold limit. -/
theorem witness_waits :
    (progAfter (.waitingInstruction c0) (waitsFor .granted)).map (fun p => (p.pc, p.waiting.isSome)) = some (0x100008, false) ∧
    (progAfter (.waitingInstruction c0) (waitsFor (.sem 0 1))).map (fun p => p.waiting.isSome) = some true ∧
    onCore (.fence c0 always syncF) = some c0 ∧
    ((after (exec (.waitingInstruction c0) (coded (.fence c0 always syncF) (small (waitsFor (.fence 8)))))).prog 0).map
      (fun p => (p.pc, p.waiting.isSome)) = some (0x100008, false) ∧
    (WaitFor.fence 8).isYield = true ∧ holdLimit (asked prog0) 0 = none ∧
    ((after (run (.waitingInstruction c0) (asked (waitsFor (.fence 8))))).prog 0).map (fun p => p.waiting.isSome) = some true ∧
    ((after (exec (.yieldOverdue c0) (small { prog0 with yieldCount := 32768 }))).ctx 0).cf.cause = 0x07 ∧
    ((after (exec (.yieldOverdue c0) (small { prog0 with yieldCount := 32767 }))).ctx 0).cf.valid = false ∧
    ((after (run (.preemptAtYieldPoint c0) (asked (waitsFor (.fence 8))))).core 0).saving = true ∧
    (let v := ((asked prog0).setSem 0 { value := 0, max := 9, hold := 100, ovf := 0, waiters := [] }).updCtx 0 (fun x => { x with holds := [⟨0, 1⟩] })
     requestOf { v with time := 100000 } 0 = some 0 ∧ holdLimit v 0 = some 100000 ∧
     ((after (exec (.holdLimitExpiry 0) { v with time := 100000 })).ctx 0).semRev = true ∧
     ((after (exec (.holdLimitExpiry 0) { v with time := 99999 })).ctx 0).semRev = false) := by decide +kernel

/-- ContextSave: the end of a save of core 0 into slot 0. -/
theorem witness_save :
    let v := (small prog0).setCore 0 { CoreSlot.empty with prog := some prog0, saving := true }
    v.clusterSail 0 = some 0 ∧ v.prog 0 = some prog0 ∧ v.spadBase 0 = some (spadKey 0) ∧ (v.sail 0).saved = [] ∧ prog0.live.toNat ≤ 128 ∧
    saveSlot v 0 0 + 589824 ≤ 2 ^ 48 := by decide +kernel

/-! ### Witnesses: yards and commit groups -/

/-- A table of four rows of 32 FP32 values at 0x100100. -/
def table0 : List Byte :=
  leBytes 8 0x100100 ++ leBytes 8 (4 + 32 * 2 ^ 40) ++ leBytes 8 0 ++ leBytes 8 (128 + 2 ^ 16) ++ leBytes 32 0

/-- A POOL record for row 2 of table 0. -/
def pool2 : List Byte := leBytes 8 (1 + 2 ^ 27 + 2 ^ 32) ++ leBytes 24 0 ++ leBytes 32 2

def yreq (record : List Byte) : YReq :=
  { id := 0, sail := 0, ctx := 0, q := 0, n := 0, from_ := .core 0 0 3, record := record, phase := .waiting, desc := [], rows := [],
    comb := 0, acc := [], out := [], keyGen := 0, spans := [] }

/-- The tag of the endpoint in yard 0 of the request stream of core 0. -/
def key0 : Nat := tagKey 2304 0

/-- Request `r` in yard 0; the context's table 0 is `table0`, whose row 2 begins with 1.0. -/
def yarded (r : YReq) : State :=
  let s := (small asker).updCtx 0 (fun x => { x with tblBase := 0x140000, tblCount := 1 })
  let s := (store (store s 0x40000 table0) 0x200 [0, 0, 0x80, 0x3F]).setYard 0 { Yard.empty with reqs := [r], nextReq := 1 }
  { s with mesh := { s.mesh with eps := [(key0, [{ sail := 0, lc := 0, tag := 0, seq := 0, held := none, ret := none }])] } }

def onEngine (r : YReq) : State := setEngineOf (yarded { r with phase := .engine 0 }) 0 0 (fun x => { x with cur := some 0 })

theorem from_core (r : YReq) (h : r.from_ = .core 0 0 3) (hi : r.id = 0) : FromCore (yarded r) 0 0 r 0 0 key0 := by
  obtain ⟨_, _, _, _, _, _, _, _, _, _, _, _, _, _, _⟩ := r
  simp only at h hi
  subst h hi
  exact ⟨rfl, ⟨3, rfl⟩, rfl⟩

/-- LookupRows: the request is the oldest, engine 0 is the lowest free one. -/
theorem witness_lookup_taken : ((yarded (yreq pool2)).yard 0).reqs.map (·.id) = [0] ∧
    oldestWaiting (yarded (yreq pool2)) 0 0 (fun _ => true) = some (yreq pool2) ∧
    (freeEngines (yarded (yreq pool2)) 0 0).filter (fun e => !reservedFrom (yarded (yreq pool2)) 3 e 0) = [0, 1] ∧
    (engineOf ((after (exec (.engineTakesRequest 0 0) (yarded (yreq pool2)))).yard 0) 0).cur = some 0 := by decide +kernel

/-- LookupRows: on its engine the request lists row 2. -/
theorem witness_lookup_begins :
    let s := onEngine (yreq pool2)
    let r := { yreq pool2 with phase := .engine 0 }
    let d := useDesc s 0 0 0 (reqUse s 0 0 0) 0
    (engineOf (s.yard 0) 0).cur = some 0 ∧ s.yreq 0 0 = some r ∧ headerOk r.record = true ∧ d.2 = .ok table0 ∧ descOk table0 = true ∧
    lookupRows (reqHdr pool2) (tableOf table0) pool2 = some [some 2] ∧
    (judgeSpans d.1 (reqUse s 0 0 0) (judgedSpans (tableOf table0) (rowReq (tableOf table0) 0 (some 2)))).2 = none ∧
    ((after (exec (.pool 0 0) s)).yreq 0 0).map (fun r => r.rows.map (·.va)) = some [0x100200] := by decide +kernel

theorem witness_lookup_local : tableRemote (onEngine (yreq pool2)) (reqUse (onEngine (yreq pool2)) 0 0 0) (tableOf table0) = .ok none := rfl

def rowed (data : List Byte) : YReq :=
  { yreq pool2 with
    phase := .engine 0, desc := table0, rows := [{ rowReq (tableOf table0) 0 (some 2) with data := data }]
    acc := List.replicate 32 0x80000000 }

/-- LookupRows, PoolsAndTables: the row is open and not read, or read; its arrival completes the request. -/
theorem witness_row :
    let s := onEngine (rowed [])
    let v := onEngine (rowed (readBytes s 0x200 128))
    (openRow s 0 0 0).isSome = true ∧ (openRow v 0 0 0).map (fun x => x.2.data.length) = some 128 ∧
    locate s (useNow s 0) 0x100200 .read = .loc 0x200 range0 ∧ rowLocked s 0 0x200 = false ∧
    (rowValues (tableOf table0) (readBytes s 0x200 128)).1.length = 32 ∧
    ((after (exec (.rowFetchComplete 0 0 0) v)).yreq 0 0).map (fun r => (r.phase, r.out.take 4)) = some (.returned, [0, 0, 0x80, 0x3F]) := by
  decide +kernel

/-- PoolsAndTables: a granule is missed, and hit when it is read again. -/
theorem witness_table_cache :
    let s := yarded (yreq pool2)
    let g := readGranule s 0 0 0 1 0x200 0
    sailWays s 0 0 = [0] ∧ lineOf (s.yard 0) [0] (lpaOf s 0x200) = none ∧ anyPoison s 0x200 64 = false ∧
    (lineOf (g.1.yard 0) [0] (lpaOf s 0x200)).isSome = true ∧ g.2.1.take 4 = [0, 0, 0x80, 0x3F] ∧
    (((readGranule g.1 0 0 0 1 0x200 0).1.yard 0).cnt.get YardCounters.zero 0).hits = 1 := by decide +kernel

def tblsync : List Byte := leBytes 32 0x20
def yseed : List Byte := leBytes 8 0x21 ++ leBytes 8 0 ++ leBytes 8 0 ++ leBytes 8 77

/-- A request that engine 0 has taken. -/
def taken (record : List Byte) : YReq := { yreq record with phase := .engine 0 }

/-- YardServices: the two requests, the counter's read, a window that begins. -/
theorem witness_yard_services : FromCore (yarded (taken tblsync)) 0 0 (taken tblsync) 0 0 key0 ∧
    waitingOp (yarded (taken tblsync)) 0 0 0x20 = some (taken tblsync) ∧ headerOk tblsync = true ∧
    waitingOp (yarded (taken yseed)) 0 0 0x21 = some (taken yseed) ∧ headerOk yseed = true ∧ updEngines (yarded (taken yseed)) 0 0 = [0] ∧
    updGen (after (exec (.yseed 0 0) (yarded (taken yseed)))) 0 0 0 = 77 ∧ (small prog0).reaches (.pf 0) 0 = true ∧
    (small prog0).reaches (.vf 0 1) 0 = true ∧ { small prog0 with time := 10000 }.tiers.budget.get 0 (budgetKey .masthead) < 1 :=
  ⟨from_core _ rfl rfl, by decide +kernel, by decide +kernel, by decide +kernel, by decide +kernel, by decide +kernel, by decide +kernel,
   by decide +kernel, by decide +kernel, by decide +kernel⟩

def cgBegin : List Byte := leBytes 32 0x10
def cgCommit : List Byte := leBytes 32 0x12
def cgAbort : List Byte := leBytes 32 0x13
/-- An UPDATE of row 2 in group 0 with 32 FP32 gradients of 0. -/
def update2 : List Byte := leBytes 8 (0x11 + 2 ^ 27 + 2 ^ 37) ++ leBytes 8 2 ++ leBytes 8 0 ++ leBytes 8 0 ++ leBytes 192 0

def group0 : Group := { Group.empty with st := .open_, begun := 0 }
def grouped (g : Group) (record : List Byte) : State := (yarded (taken record)).setGroup 0 g

/-- GroupsGrow: a group is opened below the quota of 2, and waits at it. -/
theorem witness_group_begin : FromCore (yarded (taken cgBegin)) 0 0 (taken cgBegin) 0 0 key0 ∧
    waitingOp (yarded (taken cgBegin)) 0 0 0x10 = some (taken cgBegin) ∧ headerOk cgBegin = true ∧ cgQuota (small prog0) 0 = 2 ∧
    freeHandle (grouped group0 cgBegin) = some 1 ∧ openGroups (grouped group0 cgBegin) 0 = 1 ∧
    ((after (exec (.cgBegin 0 0) (grouped group0 cgBegin))).group 1).st = .open_ ∧
    openGroups ((grouped group0 cgBegin).setGroup 1 group0) 0 = 2 ∧
    ((after (exec (.cgBegin 0 0) ((grouped group0 cgBegin).setGroup 1 group0))).yreq 0 0).map (·.phase) = some .quota :=
  ⟨from_core _ rfl rfl, by decide +kernel, by decide +kernel, by decide +kernel, by decide +kernel, by decide +kernel, by decide +kernel,
   by decide +kernel, by decide +kernel⟩

def action0 (st : ActSt) : Action :=
  { idx := 0, req := 0, row := 2, rowVa := 0x100200, rowLpa := 0x200, stateVa := 0, stateLpa := 0, home := 0,
    newRow := [1, 2], newState := [], logBytes := 0, keyGen := 0, st := st }

/-- GroupsGrow: an UPDATE is judged good; an action finds its row unlocked and room in the log. -/
theorem witness_group_grows :
    let s := grouped group0 update2
    let v := grouped { group0 with actions := [action0 .forwarded] } update2
    waitingOp s 0 0 0x11 = some (taken update2) ∧ groupRefusal s 0 0 update2 = none ∧ headerOk update2 = true ∧
    (match (judgeUpdate s (taken update2)).2 with
      | .go l k rl stl home => l == table0 && k == 2 && rl == 0x200 && stl == 0 && home == 0
      | _ => false) = true ∧
    ((after (exec (.update 0 0) s)).group 0).actions.length = 1 ∧
    lockHolder v 0 0x200 = none ∧ 64 + pad64 128 ≤ actionRoom v 0 0 ∧ actionEngine v 0 0 2 = 0 := by decide +kernel

/-- GroupsGrow, GroupsEnd: a logged action becomes durable; a group commits, aborts, passes its commit point, is applied and retires;
the hold timer dooms it. -/
theorem witness_group_ends :
    let logged := grouped { group0 with actions := [action0 .logged] } update2
    let done := { group0 with actions := [action0 .durable], commitReq := some 0, ended := true }
    let fixed := { group0 with actions := [action0 .durable], st := .committed, ended := true }
    let locked := (grouped fixed cgCommit).updYard 0 (fun x => { x with locks := [(0x200, 1)] })
    let late := { grouped group0 cgCommit with time := 100000 }
    ((after (exec (.intentLogDurable 0 0) logged)).group 0).actions.map (·.st) = [.durable] ∧
    waitingOp (grouped group0 cgCommit) 0 0 0x12 = some (taken cgCommit) ∧ groupRefusal (grouped group0 cgCommit) 0 0 cgCommit = none ∧
    ((after (exec (.cgCommit 0 0) (grouped group0 cgCommit))).group 0).commitReq = some 0 ∧
    ((after (exec (.cgAbort 0 0) (grouped group0 cgAbort))).group 0).st = .aborted ∧
    ((after (exec (.commitPoint 0) (grouped done cgCommit))).group 0).st = .committed ∧
    ((after (exec (.commitPoint 0) (grouped { done with st := .doomed } cgCommit))).group 0).st = .aborted ∧
    lockHolder locked 0 0x200 = some 0 ∧ readB (after (exec (.cgApply 0 0) locked)) 0x201 = 2 ∧
    (after (exec (.groupRetire 0) (grouped { group0 with st := .aborted } cgCommit))).group 0 = { Group.empty with gen := 1 } ∧
    cgHold late 0 = 100 ∧ ((after (exec (.holdTimerExpiry 0) late)).group 0).st = .doomed := by decide +kernel

/-! ### Witnesses: queues of commands, ranges, the memory tiers -/

/-- A command of 64 bytes. -/
def cmdOf (l : List Byte) : CmdRec :=
  { n := 0, raw := BitVec.ofNat 512 (leNat l), stamp := 0, phase := .started, xlat := none, readyAt := 0, startAt := 0, endAt := 0,
    wait := 0, energyNj := 0, aux := 0, parts := 0, firstErr := none, haltErr := none, noReplay := false, replayed := false }

/-- `s` with command `k` started at the head of queue 0 of context 0, which the PF of port 0 enabled, and the host link up. -/
def withCmd (s : State) (k : CmdRec) : State :=
  let s := s.setQueue 0 { Queue.empty with st := .active, fn := some (.pf 0), tail := 1, head := 1, cmds := [k] }
  { s with hif := { s.hif with ports := Vector.replicate 2 { linkUp := true, width := 16, speed := 6 } } }

/-- The command whose opcode and bytes 8 on are given. -/
def opBytes (op : Nat) (l : List Byte) : List Byte := leBytes 8 op ++ l

def queued (op : Nat) (l : List Byte) : State := withCmd (small prog0) (cmdOf (opBytes op l))

def phaseOf (o : Out) : Option CmdPhase := ((after o).cmd 0 0).map (·.phase)

/-- ProgramStart: a ready RUN of two cores; the second copy is number 1. -/
theorem witness_program_start :
    let k := { cmdOf (opBytes 1 (leBytes 8 0x100000)) with phase := .ready }
    let s := withCmd { small prog0 with cores := [] } k
    let r : ReadyRun := { pass := 0, ctx := 0, q := 0, n := 0, restore := false, cores := [0, 1] }
    s.cmd 0 0 = some k ∧ coreFree s 0 0 = true ∧ coreFree s 0 1 = true ∧ reservedCore s 0 0 = false ∧ reservedCore s 1 0 = false ∧
    ((placeRun s 0 r).prog 1).map (fun p => (p.pc, p.sreg 1, p.sreg 2)) = some (0x100000, 1, 2) := by decide +kernel

/-- An entry for one page at 0x300000, and one that ends beyond 2^56. -/
def entry1 : List Byte := leBytes 8 0x300000 ++ leBytes 8 1 ++ leBytes 8 (0xFFFF * 2 ^ 48 + 0x10000) ++ leBytes 8 3 ++ leBytes 32 0
def entryBad : List Byte := leBytes 8 0x300001 ++ leBytes 8 1 ++ leBytes 8 (0xFFFF * 2 ^ 48 + 0x10000) ++ leBytes 8 3 ++ leBytes 32 0
def entryOther : List Byte :=
  leBytes 8 0x300000 ++ leBytes 8 1 ++ leBytes 8 (0xFFFF * 2 ^ 48 + 4 * 2 ^ 31) ++ leBytes 8 3 ++ leBytes 32 0

def rangeCmd (op : Nat) (l : List Byte) : State := store (queued op (leBytes 8 0x5000)) (busKey 0 0x5000) l

/-- RangeCommands: an entry that is mapped, one of a bad form, one of another's memory; MODIFY, UNMAP, SYNC. -/
theorem witness_ranges :
    (rangeCmd 0x10 entry1).ctxSail 0 = some 0 ∧ busRead (rangeCmd 0x10 entry1) 0 0x5000 64 = some entry1 ∧
    (startedAs (rangeCmd 0x10 entry1) 0 0 0x10).isSome = true ∧
    phaseOf (exec (.rangeMap 0 0) (rangeCmd 0x10 entry1)) = some .executing ∧
    ((after (exec (.rangeMap 0 0) (rangeCmd 0x10 entry1))).ctx 0).ranges.length = 2 ∧
    phaseOf (exec (.rangeMap 0 0) (rangeCmd 0x10 entryBad)) = some (.completed .malformed) ∧
    phaseOf (exec (.rangeMap 0 0) (rangeCmd 0x10 entryOther)) = some (.completed .faultPermission) ∧
    ((after (exec (.rangeModify 0 0) (rangeCmd 0x12 (leBytes 8 0x100000 ++ (entry1.drop 8))))).ctx 0).ranges.map (·.pages) = [1] ∧
    ((after (exec (.rangeUnmap 0 0) (queued 0x11 (leBytes 8 0x100000)))).ctx 0).ranges = [] ∧
    ((after (exec (.rangeSync 0 0) (queued 0x13 []))).ctx 0).drain.isSome = true := by decide +kernel

/-- RangeCommands: the drain of a command that nothing older holds up, and one that a command of the old epoch does. -/
theorem witness_drain :
    let s := after (exec (.rangeSync 0 0) (queued 0x13 []))
    let idle := { s with cores := [] }
    let d := (idle.ctx 0).drain.getD { q := 1, n := 1, at_ := 0, mseq := 0, spans := [], lines := [], sync := false, newRefs := [] }
    let old := idle.setQueue 0 { idle.queue 0 with
      cmds := (idle.queue 0).cmds ++ [{ (cmdOf []) with n := 1, phase := .executing, xlat := some 0 }] }
    oldEpochEmpty idle 0 d = true ∧ phaseOf (exec (.rangeDrainEnd 0) idle) = some (.completed .done) ∧
    oldEpochEmpty old 0 d = false ∧ phaseOf (exec (.rangeDrainEnd 0) old) = some .executing := by decide +kernel

def logged : RangeE := { range0 with dlog := true, dmap := 0x180000 }

/-- RangeCommands: one word is harvested; a shared object is created and released. -/
theorem witness_harvest_shared :
    let h := store ((queued 0x18 (leBytes 8 0x100000 ++ leBytes 8 0 ++ leBytes 8 1 ++ leBytes 8 0x110000)).updCtx 0
      (fun x => { x with ranges := [logged] })) 0x80000 [5]
    let k := queued 0x30 (leBytes 8 (0xFFFF * 2 ^ 48 + 0x8000) ++ leBytes 8 2)
    let ro := k.updCtx 0 (fun x => { x with ranges := [{ range0 with w := false }] })
    let rel := (queued 0x31 (leBytes 2 3)).updSail 0 (fun x => { x with shared := [(3, { base := 0, pages := 1, hostRef := true, refs := 0 })] })
    phaseOf (exec (.dirtyHarvest 0 0) h) = some (.completed .done) ∧
    readNat (after (exec (.dirtyHarvest 0 0) h)) 0x10000 8 = 5 ∧ readNat (after (exec (.dirtyHarvest 0 0) h)) 0x80000 8 = 2 ^ 16 ∧
    phaseOf (exec (.sharedCreate 0 0) ro) = some (.completed .done) ∧
    ((after (exec (.sharedCreate 0 0) ro)).sail 0).shared.map (·.2.pages) = [2] ∧
    phaseOf (exec (.sharedRelease 0 0) rel) = some (.completed .done) ∧
    ((after (exec (.sharedRelease 0 0) rel)).sail 0).shared = [] := by decide +kernel

/-- A MIG range of one page in DRAM, whose page map stands at 0x180000, and a pool of two pages in DRAM. -/
def migRange : RangeE :=
  { range0 with vstart := 0x400000, pages := 16, target := 0xFFFF000000200000, mig := true, pmap := 0x180000 }
def poolRange : RangeE := { range0 with vstart := 0x500000, pages := 32, target := 0xFFFF000000300000, pool := true }

def migrating (k : CmdRec) : State :=
  (withCmd (small prog0) k).updCtx 0 (fun x => { x with ranges := [range0, migRange, poolRange] })

/-- MemoryTiers: a migration that has come to its end, and what its target and pool are. -/
theorem witness_migration :
    let s := migrating (cmdOf [])
    let m := { Migration.fresh s (useNow s 0) migRange 0 1 false false with begun := true }
    let s := s.updCtx 0 (fun x => { x with migs := [m] })
    (s.ctx 0).migs.find? (fun m => m.isFor 0x400000 0) = some m ∧ m.keyGen = s.memGen ((s.ctxSail 0).getD 64) ∧ m.wb ≤ m.asked ∧ m.wb ≤ m.got ∧
    poolKey s (migUse s 0 m) m.poolPage = some 0x310000 ∧ (match pageAt s m.range 0 with
      | .key k => k == 0x200000
      | _ => false) = true ∧
    mapAt s (migUse s 0 m) m.range.pmap = .key 0x80000 := by decide +kernel

/-- MemoryTiers: MEM_PREFETCH of a page that is resident, and of one that is not; advice 0, 3, 5 and 6. -/
theorem witness_advice :
    let at_ := fun (op a : Nat) => cmdOf (opBytes op (leBytes 8 0x400000 ++ leBytes 8 65536 ++ leBytes 1 a))
    let res := fun (k : CmdRec) => store (migrating k) 0x80000 (leBytes 8 0x105)
    (match adviceSpan (startXlat (migrating (at_ 0x14 1)) 0 0) (useOfCmd (startXlat (migrating (at_ 0x14 1)) 0 0) 0 0) (at_ 0x14 1) with
      | .ok x => x.2 == [0]
      | .error _ => false) = true ∧
    phaseOf (exec (.memPrefetch 0 0) (res (at_ 0x14 0))) = some (.completed .done) ∧
    phaseOf (exec (.memPrefetch 0 0) (migrating (at_ 0x14 1))) = some (.completed .done) ∧
    ((after (exec (.memPrefetch 0 0) (migrating (at_ 0x14 1)))).ctx 0).migs.length = 1 ∧
    phaseOf (exec (.memPrefetch 0 0) (migrating (at_ 0x14 0))) = some .started ∧
    phaseOf (exec (.memAdvise 0 0) (res (at_ 0x15 0))) = some (.completed .done) ∧
    readNat (after (exec (.memAdvise 0 0) (res (at_ 0x15 3)))) 0x80000 8 = 0x101 ∧
    ((after (exec (.memAdvise 0 0) (migrating (at_ 0x15 5)))).ctx 0).drain.isSome = true ∧
    phaseOf (exec (.memAdvise 0 0) (migrating (at_ 0x15 6))) = some (.completed .malformed) := by decide +kernel

/-- An order descriptor: table 0, LOG2 12, LEAD 64, ring at 0x110000, PROD at 0x112000. -/
def order0 : List Byte := leBytes 8 (12 * 2 ^ 16 + 64 * 2 ^ 32) ++ leBytes 8 0x110000 ++ leBytes 8 0x112000 ++ leBytes 40 0

/-- MemoryTiers: a slot in the quota; a due read of a PROD of 3 by a slot that has fetched none. -/
theorem witness_orders :
    let quota := fun (s : State) => { s with rig := { s.rig with active := some { rig0 with quotas := [(1536, 2)] } } }
    let q := queued 0x16 (leBytes 8 0x5000 ++ leBytes 1 0 ++ leBytes 1 1)
    let good := quota (store q (busKey 0 0x5000) order0)
    let clear := quota (queued 0x17 (leBytes 8 0x5000 ++ leBytes 1 0 ++ leBytes 1 1))
    1 < min 32 (orderQuota good 0 0) ∧ orderOk order0 = true ∧ orderOk (leBytes 64 (2 ^ 511)) = false ∧
    phaseOf (exec (.orderSet 0 0) good) = some (.completed .done) ∧ phaseOf (exec (.orderSet 0 0) (quota q)) = some (.completed .malformed) ∧
    phaseOf (exec (.orderClear 0 0) clear) = some (.completed .done) := by decide +kernel

/-- A block whose order slot 0 of sail 0 in yard 0 is `order0`, with PROD 1 and the ID 2 in its ring. -/
def ordered : State :=
  let s := { yarded (yreq pool2) with time := 5000 }
  setOrder (store (store s 0x12000 [1]) 0x10000 [2]) 0 0 (orderOf order0 0 0)

theorem witness_prod_read :
    let o := (ordered.yard 0).orders.get OrderSlot.empty 0
    o.lead = 64 ∧ 2000 ≤ (ordered.time - o.lastRead).toNat ∧ (match vread ordered (useNow ordered 0) o.prod 8 with
      | .ok l => leNat l == 1
      | _ => false) = true ∧ (match readDesc ordered (useNow ordered 0) o.table with
      | .ok l => l == table0
      | _ => false) = true ∧
    (((after (exec (.prodRead 0 0) ordered)).yard 0).orders.get OrderSlot.empty 0).fetched = 1 := by decide +kernel

/-- MemoryTiers: a row of table 0 that lies in GDDR7 memory has not arrived. -/
theorem witness_access_timer :
    let far : RangeE := { range0 with target := 0xFFFF000000000000 + 2 ^ 36 }
    let s := { (onEngine (rowed [])).updCtx 0 (fun x => { x with ranges := [far] }) with time := 10000 }
    (openRow s 0 0 0).isSome = true ∧ locate s (reqUse s 0 0 0) 0x100200 .read = .loc (2 ^ 36 + 0x200) far ∧
    regionOf (2 ^ 36 + 0x200) = some (.gddr 0) ∧
    ((after (exec (.accessTimerExpiry (.row 0 0 0)) s)).yreq 0 0).map (·.phase) = some .returned ∧
    ((after (exec (.accessTimerExpiry (.row 0 0 0)) { s with time := 9999 })).yreq 0 0).map (·.phase) = some (.engine 0) := by decide +kernel

/-! ### Witnesses: the mesh and the Ryurun fabric -/

/-- Router 0 under a table whose one entry sends what comes from the east on to the south, in every slot. -/
def meshed : State :=
  let w : BitVec 64 := BitVec.ofNat 64 (2 * 64 + 63 * 2 ^ 52)
  let s := small prog0
  { s with mesh := { s.mesh with boot := false, banks := [(0, [w])] } }

def meshFrame (sail : BitVec 6) : Frame :=
  { sail := sail, srcTag := 0, first := true, last := true, poison := false, half := false, crc := 0, payload := [] }

/-- MeshSlots: a router moves; one whose input is empty does not; a frame of another sail is dropped at an edge router. -/
theorem witness_mesh :
    let e := slotEntry (BitVec.ofNat 64 (2 * 64 + 63 * 2 ^ 52))
    let d : SlotEntry := { out := Vector.replicate 5 0, inTag := 0, outTag := 3, inSail := 0, outSail := 0, rep := 0 }
    presentEntry meshed 0 = some e ∧ canMove meshed 0 = true ∧ 5 ∉ e.out.toList ∧ e.out.toList.getD 4 0 = 0 ∧
    (tokensIn meshed 0 .e).head? = some nullToken ∧ ((after (exec (.meshSlot 0) meshed)).mesh.slot.get 0 0) = 1 ∧
    canMove (setTokens meshed 0 .e []) 0 = false ∧ coreAt meshed 2400 = none ∧ lfenced meshed 2400 = false ∧
    ((deliver meshed 2400 d (meshFrame 0)).mesh.eject.get [] 2400).map (fun x => (x.due, x.tag)) = [(2, 3)] ∧
    (handOver meshed 2400 { due := 2, tag := 3, f := meshFrame 0 }).mesh.rx.get [] (tagKey 2400 3) = [meshFrame 0] ∧
    meshed.mesh.eject.get [] 0 = [] ∧ requestTo meshed 2400 3 = none ∧
    ((deliver meshed 2400 d (meshFrame 1)).mesh.cnt.get RtrCounters.zero 2400).discard = 1 ∧
    (2 ^ 63 : Word).getLsbD 0 = false := by decide +kernel

def link0 : LinkDef := { slots := [255, 0, 15], leases := [0], peerNode := 0xFFFF, peerPort := 0, credits := [8, 8, 8] }

def portUp0 : RyuPort := { RyuPort.reset with trained := true, up := true, cable := true }

/-- Node 1 with port 0 up, whose lease 0 is sail 0's; node 2 is one hop away on that port; sail 0 holds its link key. -/
def fabric (s : State) : State :=
  let s := (s.setPort 0 portUp0).setSlot 2 { KeySlot.empty with st := .active, gen := 7 }
  { s with
    rig := { s.rig with active := s.rig.active.map (fun r => { r with links := [(0, link0)], quotas := [(2560, 4)], remoteEntries := [(0, 8)] }) }
    ryu := { s.ryu with node := 1, assigned := true, manager := 9, routes := [(2, { mask := 1, hops := 1 })] } }

def txFrame (seq : BitVec 12) (blocks : List (List Byte)) : TxFrame :=
  { for_ := .plain, lease := 0, cls := 0, blocks := blocks, seq := seq, resends := 0, sentAt := 0 }

/-- RyurunLinks: training, identity, loss, acknowledgement, the timer of a sent frame, a block slot, a lost codeword, the counters. -/
theorem witness_links :
    let s := fabric (small prog0)
    let sent := s.setPort 0 { portUp0 with unacked := [txFrame 4 [[1]], txFrame 5 [[2]]] }
    let slot1 := s.setPort 0 { portUp0 with txSlot := 1, cur := [{ lease := 0, left := [[9]] }] }
    let b : LinkBlock := { ackSeq := 4, ackV := true, nak := false, pmark := false, rsv := 0, crcOk := true
                           credits := [{ lease := 0, cls := 1, valid := true, blocks := 5 }] }
    ((after (exec (.portTraining 0 ⟨true, 0, 0⟩) s)).port 0).up = false ∧ (s.linkDef 0).isSome = true ∧
    recurs s.time (s.port 0).lastLoss = false ∧ ((after (exec (.linkLoss 0 true) sent)).port 0).sendQ.length = 2 ∧
    ((after (exec (.linkLoss 0 false) s)).port 0).fenced = true ∧
    ((after (exec (.link 0 b) sent)).port 0).unacked.map (·.seq) = [5] ∧ ((after (exec (.link 0 b) sent)).port 0).credit.get 0 1 = 5 ∧
    ((after (exec (.ackTimerExpiry 0) { sent with time := 1000 })).port 0).sendQ.map (·.resends) = [1, 1] ∧
    slotLease slot1 0 1 = some 0 ∧ ((after (exec (.blockSlot 0 none) slot1)).port 0).lastTx = [0, 9] ∧
    ((after (exec (.uncorrectableCodeword 0 true) s)).port 0).rxSlot = 20 ∧ s.ryu.portSel = 0 := by decide +kernel

/-- RyurunLinks: the digest of the port's own schedule, and one beside it. -/
theorem witness_ident : ∃ u, exec (.ident 0 2 0 (linkDigest (fabric (small prog0)) 0)) (fabric (small prog0)) = .next u ∧
    (linkDigest (fabric (small prog0)) 0) ≠ linkDigest (fabric (small prog0)) 0 + 1 := by
  refine ⟨_, rfl, ?_⟩
  generalize linkDigest (fabric (small prog0)) 0 = x
  bv_omega

def msg0 : RyuMsg :=
  { src := 2, dst := 1, lease := 0, tc := 0, enc := true, tagOk := true, poison := [], tag := 3, tepoch := 0, keyGen := 7, rKeyGen := 4,
    xlen := 0, arg := 0, win := 0, payload := [] }

/-- A window of one page at DRAM address 0x10000, sealed by the key of slot 2. -/
def export0 : Export :=
  { base := 0x10000, pages := 1, read := true, write := true, lkup := true, state := true, keyslot := 2, sail := 0, ctx := 0, table := 0,
    yard := 0, quota := 4, refs := 1, closing := false, creator := 0, allow := List.replicate 8 0xFFFF }

def exporting (s : State) : State := { fabric s with ryu := { (fabric s).ryu with exports := [(0, export0)] } }

theorem witness_taken : Taken (exporting (small prog0)) 0 msg0 0 (winSlot (exporting (small prog0)) 0 0) ∧ Exported (exporting (small prog0)) msg0 export0 :=
  ⟨⟨⟨by decide +kernel, .inr ⟨rfl, rfl⟩, by decide +kernel⟩, by decide +kernel, by decide +kernel⟩, ⟨by decide +kernel, by decide +kernel, by decide +kernel⟩⟩

/-- RemoteOperations: a read at the first and past the last byte of the window, a write, a lookup, hints, an opening and a closing. -/
theorem witness_remote_requests :
    let s := exporting (small prog0)
    let t := exporting (yarded (yreq pool2))
    replyPort s 0 2 = some 0 ∧ windowCheck export0 msg0 = none ∧
    windowCheck export0 { msg0 with arg := 4096 } = some .faultPermission ∧ windowCheck export0 { msg0 with arg := 1 } = some .malformed ∧
    (after (exec (.rd 0 msg0) s)).ryu.outbox.map (fun m => (m.op, m.payload.length)) = [(0x20, 32)] ∧
    readB (after (exec (.wr 0 { msg0 with arg := 32, payload := leBytes 32 5 }) s)) 0x10020 = 5 ∧
    (after (exec (.rd 0 { msg0 with keyGen := 6 }) s)).ryu.staleGen = 1 ∧
    (reqHdr pool2).yop = 1 ∧ pool2.length = recordLen (reqHdr pool2) ∧ lookupEngines t 0 0 = [0, 1] ∧
    ((after (exec (.lkup 0 { msg0 with payload := pool2 }) t)).yard 0).reqs.length = 2 ∧
    (match readDesc t (useNow t 0) 0 with
      | .ok l => l == table0
      | _ => false) = true ∧
    ((after (exec (.impOpen 0 msg0) s)).ryu.exports).map (·.2.refs) = [2] ∧
    (after (exec (.impClose 0 msg0) { s with ryu := { s.ryu with exports := [(0, { export0 with closing := true })] } })).ryu.exports = [] := by
  decide +kernel

def op0 (kind : RemKind) (from_ : RemFrom) : RemOp :=
  { kind := kind, sail := 0, ctx := 0, port := 0, node := 2, win := 0, imp := 5, epoch := 0, started := some 0, paused := none, timeout := 500, addr := 0, len := 32,
    expect := 32, from_ := from_ }

def outstanding (s : State) (o : RemOp) : State :=
  { fabric s with ryu := { (fabric s).ryu with tags := [(3, { epoch := 0, op := some o })] } }

def import0 : Import :=
  { sail := 0, ctx := 0, node := 2, win := 0, gbase := 0, pages := 0, read := false, write := false, lkup := false, state := false,
    ogen := 0, hops := 1, timeout := 500, ready := false, inUse := 0, closing := false }

/-- The status that the first frame of the return of core 0's request carries. -/
def statusOf (o : Out) : Option Status := (waitingFrames (after o) key0).head?.bind (fun f => f.note.map (·.2))

/-- Core 0 has the request with tag 9 outstanding, which the endpoint of tag `key0` has issued. -/
def asking : State :=
  let s := small { prog0 with reqs := [{ (ready .done) with ret := none, tag := 9 }] }
  { s with mesh := { s.mesh with eps := [(key0, [{ sail := 0, lc := 0, tag := 9, seq := 0, held := none, ret := none }])] } }

/-- RemoteOperations: frames that are not taken; a window that is gone; an export whose sail is being recovered; a lookup that waits. -/
theorem witness_remote_refused :
    let s := exporting (small prog0)
    let gone := { s with ryu := { s.ryu with exports := [], gone := [(0, 2)] } }
    let busy := s.updSail 0 (fun x => { x with recovering := true })
    let t := exporting (yarded (yreq pool2))
    let full := { t with rig := { t.rig with active := t.rig.active.map (fun (r : Rig) => { r with remoteEntries := [] }) } }
    (after (exec (.rd 0 { msg0 with dst := 5 }) s)).ryu.misroute = 1 ∧ (after (exec (.wr 0 { msg0 with lease := 3 }) s)).ryu.misroute = 1 ∧
    (after (exec (.rd 0 { msg0 with enc := false }) s)).ryu.auth = 1 ∧ (winSlot gone 0 0).gen = 7 ∧
    (after (exec (.rd 0 msg0) gone)).ryu.staleGen = 0 ∧ (after (exec (.rd 0 { msg0 with keyGen := 6 }) gone)).ryu.staleGen = 1 ∧
    (after (exec (.impClose 0 msg0) busy)).ryu.outbox.map (·.arg) = [Status.remoteUnreachable.code.zeroExtend 64] ∧
    lkupWaits full 0 { msg0 with payload := pool2 } export0 = true ∧
    ((after (exec (.lkup 0 { msg0 with payload := pool2 }) full)).port 0).waiting.length = 1 := by decide +kernel

/-- RemoteOperations: a response, one of another epoch, the timer at its bound and before it, the opening of an import. -/
theorem witness_remote_answers :
    let s := outstanding asking (op0 .lkup (.core 0 9))
    let r := { msg0 with payload := leBytes 32 1 }
    let imp := withCmd (outstanding (small prog0) (op0 .impOpen (.importCmd 0 0))) { cmdOf (opBytes 0x22 []) with phase := .executing }
    let imp := { imp with ryu := { imp.ryu with imports := [(5, import0)] } }
    (s.linkSlot 0).gen = 7 ∧ statusOf (exec (.resp 0 r) s) = some .done ∧
    (after (exec (.resp 0 { r with tepoch := 1 }) s)).ryu.late = 1 ∧
    statusOf (exec (.resp 0 { r with keyGen := 6 }) s) = some .abortKeyRevoked ∧
    statusOf (exec (.remoteTimeout 3) { s with time := 500000 }) = some .remoteTimeout ∧
    statusOf (exec (.remoteTimeout 3) { s with time := 499999 }) = none ∧
    statusOf (exec (.remoteTimeout 3) { outstanding asking { op0 .lkup (.core 0 9) with started := none } with time := 500000 }) = none ∧
    statusOf (exec (.remoteTimeout 3) { outstanding asking { op0 .lkup (.core 0 9) with paused := some 1 } with time := 500000 }) = none ∧
    phaseOf (exec (.impAck 0 msg0) imp) = some (.completed .done) := by decide +kernel

def expDesc (sail : Nat) : List Byte :=
  leBytes 8 0x20000 ++ leBytes 8 (1 + 3 * 2 ^ 36) ++ leBytes 8 (2 + sail * 2 ^ 7) ++ leBytes 8 0 ++ leBytes 32 0

/-- ExportsAndImports: an export of the sail and one of another sail; closing; opening and closing an import. -/
theorem witness_exports :
    let s := fun (op : Nat) (l : List Byte) => fabric (queued op l)
    let ex := fun (sail : Nat) => store (s 0x20 (leBytes 8 0x5000)) (busKey 0 0x5000) (expDesc sail)
    let open_ := s 0x22 (leBytes 2 2 ++ leBytes 2 0 ++ leBytes 4 0)
    let close := fun (r : Bool) => let x := s 0x23 (leBytes 4 5); { x with ryu := { x.ryu with imports := [(5, { import0 with ready := r })] } }
    exportOk (expDesc 0) = true ∧ phaseOf (exec (.exportCreate 0 0) (ex 0)) = some (.completed .done) ∧
    phaseOf (exec (.exportCreate 0 0) (ex 1)) = some (.completed .faultPermission) ∧
    phaseOf (exec (.exportDestroy 0 0) (let x := s 0x21 []; { x with ryu := { x.ryu with exports := [(0, export0)] } })) = some (.completed .done) ∧
    phaseOf (exec (.importOpen 0 0) open_) = some .executing ∧
    ((after (exec (.importOpen 0 0) open_)).ryu.imports).map (fun p => (p.1, p.2.timeout)) = [(0, 500)] ∧
    phaseOf (exec (.importClose 0 0) (close true)) = some .executing ∧
    phaseOf (exec (.importClose 0 0) (close false)) = some (.completed .malformed) := by decide +kernel

def ingDesc : List Byte :=
  leBytes 8 (4 + 12 * 2 ^ 16 + 0xFFFF * 2 ^ 24) ++ leBytes 8 0x110000 ++ leBytes 8 0x120000 ++ leBytes 8 0x120008 ++ leBytes 8 6 ++ leBytes 24 0

def streaming (i : Ingest) : State := { fabric (small prog0) with ryu := { (fabric (small prog0)).ryu with ingest := [(4, i)] } }

def ing0 : Ingest := ingestOf ingDesc 0 0 0
def ingMsg : RyuMsg := { msg0 with win := 4, arg := 6 + 2 ^ 32, payload := leBytes 8 77 }
def gotBy (i : Ingest) : List (Nat × Nat × Nat) :=
  ((after (exec (.ing 0 ingMsg) (streaming i))).ryu.ingest).map (fun p => (p.2.prod.toNat, p.2.seq.toNat, p.2.lossCause.toNat))

/-- IngestStreams: a frame that fits, one that does not, one past a gap, a late one. -/
theorem witness_ingest_frames :
    ingWritable (streaming ing0) { ing0 with seq := ing0.seq + 1 } 64 = true ∧ gotBy ing0 = [(64, 7, 0)] ∧
    readB (after (exec (.ing 0 ingMsg) (streaming ing0))) 0x10020 = 77 ∧ gotBy { ing0 with prod := 4064 } = [(4064, 7, 1)] ∧
    gotBy { ing0 with prod := 4064, seq := 5 } = [(4064, 7, 3)] ∧
    (after (exec (.ing 0 ingMsg) (streaming { ing0 with seq := 7 }))).ryu.late = 1 := by decide +kernel

/-- IngestStreams: opening and closing; CONS in and out of its range. -/
theorem witness_ingest :
    let o := fabric (store (queued 0x24 (leBytes 8 0x5000)) (busKey 0 0x5000) ingDesc)
    let c := fabric (queued 0x25 (leBytes 2 4))
    let cons := fun (b : Byte) => exec (.consRead 4) (store { streaming { ing0 with prod := 64 } with time := 1000 } 0x20008 [b])
    ingestOk ingDesc = true ∧ phaseOf (exec (.ingOpen 0 0) o) = some (.completed .done) ∧
    phaseOf (exec (.ingClose 0 0) { c with ryu := { c.ryu with ingest := [(4, ing0)] } }) = some (.completed .done) ∧
    (after (cons 64)).ryu.ingest.map (fun p => p.2.cons) = [64] ∧ (after (cons 65)).ryu.misroute = 1 := by decide +kernel

/-! ### Witnesses: cleats, the fabric manager, the rig -/

/-- Cleat 3 whose anchor is node 2, whose state lies at the start of window 0. -/
def cleatId : Word := 2 * 2 ^ 48 + 3
def cmsg : CleatMsg :=
  { port := 0, src := 2, dst := 1, lease := 0, enc := true, tagOk := true, keyGen := 7, id := cleatId, epoch := 1, win := 0,
    stateAddr := 0, stateLen := 0, mirror := 0xFFFF }

def record0 (id : Word) (st : CleatSt) : Cleat :=
  { Cleat.blank id 1 st 0 0 with entry := some 0x100000, peer := 2, win := 0, addr := 0x10000, timer := some 0, next := 5 }

/-- Node 1 with export 0 as a state window, a route to node 2 and the records `l`. -/
def cleated (l : List Cleat) : State := { exporting (small prog0) with ryu := { (exporting (small prog0)).ryu with cleats := l } }

def stOf (o : Out) (id : Word) (anchor : Bool) : Option CleatSt := ((after o).cleat id anchor).map (·.st)

/-- CleatRules: a message that comes on port 0, one of the device itself. -/
theorem witness_cleat_taken : (∀ l, cleatTaken (cleated l) cmsg (fun _ => { KeySlot.empty with st := .active, gen := 7 })) ∧
    (cleated []).linkSlot 0 = { KeySlot.empty with st := .active, gen := 7 } ∧ winSlot (cleated []) 0 0 = (cleated []).linkSlot 0 ∧
    cleatTaken (cleated []) { cmsg with port := 32, src := 1 } (cleatSlot (cleated []) cleatId false) :=
  ⟨fun _ => .inr ⟨by decide, rfl, .inr ⟨rfl, rfl⟩, rfl, rfl, 0, rfl, by decide, rfl⟩, by decide +kernel, by decide +kernel, .inl ⟨rfl, rfl⟩⟩

/-- CleatRules: the messages of phase 1 and of the commit at a node, and at the anchor; a piece of a state on its way to a mirror. -/
theorem witness_cleat_phases :
    let own : Word := 2 ^ 48 + 3
    let anchor := { record0 own .track with anchor := true, owner := 2 }
    let m := { cmsg with id := own, src := 1, port := 32 }
    let copied := { record0 cleatId .open_ with mirrored := true, mirrorNode := 2, len := 4096, asked := 1 }
    let s1 := after (exec (.ph1Start m) (cleated [{ anchor with entry := some 0x100000 }]))
    windowOf (cleated []) 0 = some export0 ∧ cleatRoom (cleated []) 0 = true ∧ anchorOf own = 1 ∧ anchorOf cleatId = 2 ∧
    (s1.cleat own false).map (·.st) = some .open_ ∧
    stOf (exec (.mirrorPut cmsg) (cleated [])) cleatId false = some .mirror ∧
    (s1.cleat own false).map (·.job) = some (some 0) ∧ (s1.cmd (jobQueue 0) 0).isSome = true ∧
    cleatPieces 4096 = 1 ∧ ((mirrorPiece (cleated [copied]) cleatId .done).cleat cleatId false).map (fun r => (r.got, r.asked)) = some (1, 2) ∧
    ((mirrorPiece (cleated [copied]) cleatId .remoteTimeout).cleat cleatId false).map (fun r => (r.st, r.mirrorLost)) = some (.committing, true) ∧
    stOf (exec (.mirrorAck cmsg) (cleated [{ record0 cleatId .open_ with mirrored := true, mirrorNode := 2, asked := 1 }])) cleatId false =
      some .committing ∧
    ((after (exec (.commit m) (cleated [anchor]))).cleat own true).map (·.committed) = some true ∧
    stOf (exec (.commitAck cmsg) (cleated [record0 cleatId .committing])) cleatId false = some .held ∧
    stOf (exec (.commitAck m) (cleated [record0 own .committing, anchor])) own false = some .offered := by decide +kernel

/-- CleatRules: an offer at a refused epoch; a state of 4,096 bytes whose last piece arrives, and a piece that fails. -/
theorem witness_cleat_offers :
    let refused := { cleated [] with ryu := { (cleated []).ryu with refusals := [(cleatId, 1)] } }
    let c := cleated [{ record0 cleatId .copying with len := 4096, asked := 1, src := 2 ^ 49 }]
    let l := List.replicate 4096 (9 : Byte)
    (after (exec (.offer cmsg) refused)).ryu.cleats = [] ∧ (after (exec (.offer cmsg) refused)).ryu.outbox.length = 1 ∧
    pieceLen 4096 0 = 4096 ∧ memKey c (0x10000 % 2 ^ 48) = some 0x10000 ∧ l.length = 4096 ∧
    ((cleatPiece c cleatId 0 .remoteTimeout [] []).cleat cleatId false).isNone = true := by decide +kernel

/-- CleatRules: offers, their answers, stale messages, retirement. -/
theorem witness_cleat_handoffs :
    let own : Word := 2 ^ 48 + 3
    let anchor := { record0 own .track with anchor := true, owner := 2 }
    windowOf (cleated []) 1 = none ∧
    ((after (exec (.offer { cmsg with win := 1 }) (cleated []))).ryu.outbox).length = 1 ∧
    stOf (exec (.offer cmsg) (cleated [])) cleatId false = some .accepted ∧
    ((after (exec (.accept cmsg) (cleated [record0 cleatId .offered]))).cleat cleatId false).map (fun r => (r.acked, r.owner)) = some (true, 2) ∧
    stOf (exec (.ack cmsg) (cleated [record0 cleatId .accepted])) cleatId false = some .held ∧
    stOf (exec (.decline cmsg) (cleated [record0 cleatId .offered])) cleatId false = some .held ∧
    ((after (exec (.accept { cmsg with id := own, src := 7 }) (cleated [anchor]))).cleat own true).map (·.owner) = some 7 ∧
    stOf (exec (.stale { cmsg with epoch := 2 }) (cleated [record0 cleatId .held])) cleatId false = none ∧
    (after (exec (.ack { cmsg with epoch := 0 }) (cleated [record0 cleatId .accepted]))).ryu.stale = 1 ∧
    stOf (exec (.retire { cmsg with src := 2 }) (cleated [record0 cleatId .held])) cleatId false = none ∧
    (let s := withCmd (cleated [anchor]) { cmdOf (opBytes 0x26 []) with phase := .executing }
     phaseOf (exec (.retire { cmsg with id := own, src := 1 }) s)) = some (.completed .done) := by decide +kernel

/-- `s` with an import of node 2's state window. -/
def reaching (s : State) : State :=
  { s with ryu := { s.ryu with imports := [(0, { import0 with state := true, ready := true })] } }

/-- CleatRules: DISPATCH to a placed node, to node 2, to a node without a route; the timer at its bound and before it. -/
theorem witness_dispatch :
    let d := fun (node : Nat) => exec (.dispatch 0 0) (reaching (exporting (queued 0x26 (leBytes 2 node ++ leBytes 2 5))))
    let id : Word := 2 ^ 48
    let c := cleated [record0 cleatId .committing]
    cleatRoom (exporting (queued 0x26 [])) 0 = true ∧
    (after (d 0xFFFF)).ryu.fmOut.map (·.msg) = [.place id .phase1] ∧ phaseOf (d 0xFFFF) = some .executing ∧
    reachesNode (exporting (queued 0x26 [])) 0 3 = some .remoteUnreachable ∧ phaseOf (d 3) = some (.completed .remoteUnreachable) ∧
    phaseOf (d 2) = some .executing ∧ ((after (d 2)).cleat id true).map (·.owner) = some 2 ∧
    (after (exec (.cleatTimerExpiry cleatId) { c with time := 2000000 })).ryu.fmOut.map (·.msg) = [.query cleatId 1 .committing] ∧
    (after (exec (.cleatTimerExpiry cleatId) { c with time := 1999999 })).ryu.fmOut = [] := by decide +kernel

/-- FabricManager: the manager's messages, and one of another node. -/
theorem witness_manager :
    let own : Word := 2 ^ 48 + 3
    let anchor := { record0 own .track with anchor := true, owner := 0xFFFF }
    let c := fun (st : CleatSt) => cleated [record0 cleatId st]
    let h : FmHdr := { port := 0, src := 9, dst := 1, arg := 5 }
    let r := fun (kind : RulingKind) (node : Nat) => exec (.fmRuling h { id := cleatId, kind := kind, node := node, epoch := 2 })
    manages (cleated []) 0 = true ∧ (after (exec (.fmAck { h with src := 8 } 0) (cleated []))).ryu.misroute = 1 ∧ (cleated []).ryu.manager = 9 ∧
    (after (exec (.fmAssign h 4 0 9 none) (cleated []))).ryu.node = 4 ∧ (after (exec (.fmAssign h 0xFFFF 0 9 none) (cleated []))).ryu.node = 1 ∧
    ((after (exec (.fmRoute h 7 2 6 3) (cleated []))).ryu.routes.get { mask := 0, hops := 0 } 8).hops = 3 ∧
    (after (exec (.fmTime h 0 .advance) { cleated [] with time := 20000 })).ryu.slew = .advance ∧
    (after (exec (.fmTime h 0 .advance) { cleated [] with time := 9999 })).ryu.slew = .none ∧
    stOf (exec (.fmFreeze h cleatId 1) (c .copying)) cleatId false = some .refused ∧
    stOf (exec (.fmFreeze h cleatId 1) (cleated [])) cleatId false = some .refused ∧
    stOf (r .owner 1 (c .accepted)) cleatId false = some .held ∧ stOf (r .owner 2 (c .held)) cleatId false = none ∧
    stOf (r .lost 2 (c .held)) cleatId false = none ∧
    stOf (exec (.fmPlace h { id := cleatId, role := .phase2, node := 2 }) (c .held)) cleatId false = some .offered ∧
    ((after (exec (.fmPlace h { id := own, role := .phase1, node := 2 }) (reaching (cleated [anchor])))).cleat own true).map (·.owner) = some 2 ∧
    (after (exec (.fmPeerState h 2 .down []) (c .held))).ryu.cleats = [] := by decide +kernel

def rig1 : Rig := { rig0 with serial := 6 }
/-- A swap of rig0 for `b` in phase `ph`, which leaves sail 0 in class `c`. -/
def swapping (b : Rig) (ph : RigPhase) (c : SailClass := .continuing) : State :=
  let s := { small prog0 with cores := [] }
  { s with rig := { s.rig with shadow := some b, shadowSt := .valid, shadowSerial := 6, phase := ph, classes := [(0, c)] } }

def phaseIs (o : Out) : RigPhase := (after o).rig.phase

/-- The block with the host link up and a LOAD of function 0 begun. -/
def linked : State := { small prog0 with hif := (queued 0 []).hif }
def loading0 : State := after (exec (.load 0) linked)

/-- RigLoading: LOAD and what ignores commands; an image that no function has placed is rejected. -/
theorem witness_loading : (after (exec (.swap 0) linked)).rig.ignored = true ∧ loading0.rig.loading = some 0 ∧ hostUp loading0 0 = true ∧
    (firstRule (loadRules loading0 (loadImage loading0 0))).isSome = true ∧
    (after (exec (.loadEnd 0) loading0)).rig.shadowSt = .rejected ∧ (after (exec (.discard 0) loading0)).rig.shadowSt = .empty := by
  decide +kernel

@[irreducible] def allReady : Tbl Bool := (List.range routers).map (fun r => (r, true))

/-- A swap whose routers all report a validated shadow bank. -/
def shadowed (ph : RigPhase) : State :=
  let s := swapping rig1 ph
  { s with mesh := { s.mesh with shadowOk := allReady } }

theorem look_map_true (l : List Nat) (k : Nat) (h : k ∈ l) : Tbl.look (l.map (fun r => (r, true))) k = some true := by
  induction l with
  | nil => simp at h
  | cons a l ih =>
    rw [List.map_cons, Tbl.look_cons]
    split
    · rfl
    · exact ih (by simpa [Ne.symm ‹_›] using h)

theorem ready_of_list (s : State) (h : s.mesh.shadowOk = allReady) : shadowsReady s = true := by
  unfold shadowsReady
  rw [h]
  unfold allReady
  generalize List.range routers = l
  refine List.all_eq_true.mpr (fun r hr => ?_)
  unfold Tbl.get
  rw [look_map_true l r hr]
  rfl

/-- RigSwap: the hypotheses of the cut. -/
theorem witness_cut : (shadowed .scrub).rig.phase = .scrub ∧ (shadowed .scrub).rig.shadow.isSome = true ∧ shadowsReady (shadowed .scrub) = true :=
  ⟨rfl, rfl, ready_of_list _ rfl⟩

/-- RigSwap: the masthead's slot in which it sends the SWAP bit, and the release. -/
theorem witness_masthead :
    let s := swapping rig1 .cut
    let m := { s with mesh := { s.mesh with swapNext := true } }
    let done := { s with rig := { s.rig with active := some rig1, classes := classesOf rig0 rig1 }, mesh := { s.mesh with complete := true } }
    m.mesh.running = true ∧ m.mesh.injected = false ∧ canMove m 2464 = true ∧ m.pwr.stopped.contains (.router 2464) = false ∧
    (after (exec (.meshSlot 2464) m)).rig.active = some rig1 ∧ (after (exec (.meshSlot 2464) m)).mesh.injected = true ∧
    done.rst.sailWaits = [] ∧ phaseIs (exec .release s) = .cut ∧ phaseIs (exec .release done) = .idle := by decide +kernel

/-- RigSwap, RigInvariant: a swap is judged, waits for the background test, and passes each of its phases. -/
theorem witness_swap :
    let s := swapping rig1 .idle
    let t := { s with rig := { s.rig with phase := .quiesce, tSwap := s.time, classes := [] } }
    firstRule (swapRules t rig1) = none ∧ phaseIs (exec (.swap 0) s) = .quiesce ∧ (after (exec (.swap 0) s)).rig.highSerial = 6 ∧
    (after (exec (.swap 0) { s with rst := { s.rst with bgTest := true } })).rig.waits = true ∧
    quiesced (swapping rig1 .quiesce) = true ∧ quiesced (swapping rig1 .drain) = false ∧ drained (swapping rig1 .drain) = true ∧
    drained (swapping rig1 .scrub) = false := by decide +kernel

/-- RigSwap: the quiesce limit of a sail that the swap changes, at its bound and before it. -/
theorem witness_quiesce :
    let b := { rig1 with sails := [(0, { desc0 with cleats := 3, ctxCount := 3 })] }
    let run := { small prog0 with queues := (queued 0 []).queues }
    let s := { run with rig := (swapping b .quiesce .changed).rig }
    classOf rig0 b 0 = some .changed ∧ swapClass s 0 = some .changed ∧ coresOf s 0 0 = [0] ∧
    ((after (exec (.quiesceLimitExpiry 0 0) { s with time := 5000000 })).ctx 0).st = .resetting ∧
    ((after (exec (.quiesceLimitExpiry 0 0) { s with time := 4999999 })).ctx 0).st = .active := by decide +kernel

theorem witness_rigOk : RigOk (small prog0).rig ∧ RigOk (swapping { rig1 with serial := 5 } .drain).rig :=
  ⟨⟨by decide, by decide, by decide, by decide⟩, ⟨by decide, by decide, by decide, by decide⟩⟩

/-! ### Witnesses: resets, firmware, losses -/

/-- The block in operation: brought up, host link up, firmware running. -/
def running : State :=
  { linked with rst := { linked.rst with step := 11, pins := [], ready := true, fwRun := true } }

def withRst (f : RstSt → RstSt) : State := { running with rst := f running.rst }

/-- PinAndSoftwareResets: pulses at the two bounds of the filter, a pin that stays low, a pin that rises. -/
theorem witness_pins :
    let low := withRst (fun x => { x with pins := [.perst0], seqs := [{ scope := .port 0, held := .perst0 }] })
    takesResets running = true ∧ running.rst.fuseMap = 0 ∧ portPin 0 ∉ running.rst.pins ∧
    (after (exec (.perst 0 1999 true) running)).rst.short = 1 ∧ (after (exec (.perst 0 3999 false) running)).rst.bandCount = 1 ∧
    (after (exec (.perst 0 2000 true) running)).rst.pins = [.perst0] ∧ hostUp (after (exec (.perst 0 4000 false) running)) 0 = false ∧
    hostUp (after (exec (.perst 0 4000 false) running)) 1 = true ∧
    (after (exec (.resetDeassertion .perst0 1999) low)).rst.pins = [.perst0] ∧ (after (exec (.resetDeassertion .perst0 2000) low)).rst.pins = [] ∧
    (after (exec (.trayResetN 4000 false) { running with rst := { running.rst with shutdown := true } })).rst.pins = [.trayReset] ∧
    (after (exec (.trayResetN 4000 false) running)).rst.step = 0 := by decide +kernel

/-- PinAndSoftwareResets: the key byte of RST_SW and the kinds; a reset of sail 0 while a swap changes it; a session's reset. -/
theorem witness_software_resets :
    let v := fun (k : Nat) => BitVec.ofNat 64 (0xA5 * 2 ^ 24 + k)
    let opened := { running with sec := { running.sec with dbgOpen := true, dbgLevel := 1 } }
    let b := { running with rig := (swapping rig1 .quiesce .changed).rig }
    rstSwKind (v 1) = 1 ∧ rstSwKind (v 2) = 2 ∧ rstSwKind (v 3) = 3 ∧ rstSwKind 1 = 0 ∧ running.rst.seqs = [] ∧
    (after (exec (.softwareWarm (.pf 0) (v 1)) running)).rst.source = 3 ∧ (running.desc 0).isSome = true ∧
    (after (exec (.softwareSail (.pf 0) (v 3)) b)).rst.sailWaits = [0] ∧ dbgLevelNow opened = 1 ∧
    (after (exec .dbgReset opened)).rst.source = 6 := by decide +kernel

/-- PinAndSoftwareResets: a request of the makers' that a sail's presence forbids, and a malformed one; all that the first would need
but its signature, whose check is opaque (log entry 7). -/
theorem witness_transition :
    let req := leBytes 4 0x434C4A4C ++ leBytes 2 1 ++ [0, 1] ++ leBytes 32 0 ++ leBytes 4 0 ++ leBytes 84 0
    let s := store { running with sec := { running.sec with unitId := 0, lc := .maker, lcCounter := 0 } } (lcsKey running 0) req
    running.sec.lcsBusy = false ∧ transitionJudge running (lcsRequest running 0) = some .malformed ∧
    transitionJudge s (lcsRequest s 0) = some .faultPermission ∧ hostUp s 0 = true ∧ busOk (lcsAddr s 0) 128 = true ∧
    (lcsRequest s 0).formOk false = true ∧ LcState.ofCode ((lcsRequest s 0).nat 7 7) = some .integrator ∧ (lcsRequest s 0).fits s = true ∧
    transitionOk s.sec.lc .integrator (lcsRequest s 0).operator = true ∧ (lcsRequest s 0).operator = false := by decide +kernel

/-- BlockResets: DMA engine 0 of cluster 0, which sail 0 owns, and a core of a free cluster. -/
theorem witness_blocks :
    let eng := withRst (fun x => { x with blkKind := 2 })
    let quiet := withRst (fun x => { x with blkKind := 2, quiesced := [(2, 0)] })
    let busy := withRst (fun x => { x with blockBusy := some (2, 0) })
    selectedBlock eng = some (2, 0) ∧ blockOwned eng 2 0 = true ∧ (after (exec (.blockReset (.pf 0)) eng)).rst.blkIgnored = true ∧
    (after (exec (.blockQuiesce (.pf 0) true) eng)).rst.quiesced = [(2, 0)] ∧ (after (exec (.blockQuiesce (.pf 0) false) quiet)).rst.quiesced = [] ∧
    (after (exec (.blockReset (.pf 0)) quiet)).rst.blockBusy = some (2, 0) ∧ (after (exec .blockResetComplete busy)).rst.blockBusy = none ∧
    selectedBlock (withRst (fun x => { x with blkKind := 7, blkIndex := 4 })) = none ∧ blockOwned eng 0 2303 = false := by decide +kernel

/-- FirmwareAndTests: delivery at its bounds; an image that is not whole; shutdown with and without a sail; the background test. -/
theorem witness_firmware :
    let on := withRst (fun x => { x with fwRun := false })
    let b : BootSt := { port := 0, len := 128, img := [], written := [] }
    let mid := withRst (fun x => { x with fwRun := false, boot := some b })
    let free := { running with rig := RigSt.reset }
    let e : TestEntry := { kind := 2, index := 7, test := 0, lasting := true }
    let bg := { running with rst := { running.rst with bgTest := true } }
    on.rst.boot = none ∧ (after (exec (.bootBegin (.pf 0) 64) on)).rst.boot.isSome = true ∧
    (after (exec (.bootBegin (.pf 0) 65) on)).rst.boot.isSome = false ∧
    ((after (exec (.bootData (.pf 0) 64 (leBytes 64 9)) mid)).rst.boot.map (fun b => b.img.get 0 64)) = some 9 ∧ b.ok 0 = false ∧
    (after (exec (.bootEnd (.pf 0) []) mid)).rst.boot = none ∧ (after (exec (.shutdownGo (.pf 0)) running)).rst.sdIgnored = true ∧
    (after (exec (.shutdownGo (.pf 0)) free)).rst.shutdown = true ∧ (after (exec (.backgroundTestComplete [] false) bg)).rst.bgTest = false ∧
    fenced (after (exec (.backgroundTestComplete [e] false) bg)) 2 7 = true := by decide +kernel

/-- LossesAndPower: channels, ports, links, the masthead, the supply. -/
theorem witness_losses :
    let lossy := { running with tiers := { running.tiers with chan := running.tiers.chan.set ChanRate.reset 3 { ChanRate.reset with lastLoss := some 0 } } }
    let slow := withCmd running { cmdOf (opBytes 0x10 []) with phase := .started }
    let s := { slow with time := 50000000 }
    recurs 0 (some 0) = true ∧ recurs 1000000000 (some 0) = false ∧
    fenced (after (exec (.channelTrainingLoss false 3 true) running)) 9 3 = false ∧
    fenced (after (exec (.channelTrainingLoss false 3 true) lossy)) 9 3 = true ∧ (running.cxl 0).fenced = false ∧
    ((after (exec (.cxlLinkLoss 0 true) running)).cxl 0).up = true ∧ fenced (after (exec (.cxlViral 0) running)) 6 0 = true ∧
    hostUp (after (exec (.hostLinkDown 0) running)) 0 = false ∧
    phaseOf (exec (.hostReadTimeout (.command 0 0)) s) = some (.completed .faultTranslation) ∧
    phaseOf (exec (.hostReadTimeout (.command 0 0)) { slow with time := 49999999 }) = some .started ∧
    linkEnd 2400 .n = some (coreRouterAt 0 0 0, .w, 7) ∧ afterWarm running = false ∧
    (after (exec (.mastheadFault false) running)).ttl.fwHung = true ∧ (after (exec (.mastheadFault true) running)).pwr.alertFw = true ∧
    (after (exec (.mastheadFault true) { running with ttl := { running.ttl with warmAt := some 0 } })).pwr.powerCycle = true ∧
    tripLimit 63 = 11500 ∧ (after (exec (.thermTrip 63 11499) running)).pwr.thermTrip = false ∧
    (after (exec (.thermTrip 63 11500) running)).pwr.thermTrip = true ∧ (after (exec (.powerLoss .belowTurnOff) running)).pwr.brownout = true := by
  decide +kernel

/-- LossesAndPower: the die link of router 0 to the east is none; a read from the host by a DMA descriptor and by a row. -/
theorem witness_undervoltage : running.pwr.fatal = false ∧ running.rst.powered = true ∧
    (after (exec (.undervoltage (.yard 3)) { running with pwr := { running.pwr with fatal := true } })).pwr.undervolt = true ∧
    hostBase ≤ 0x800000000100 ∧ 0x800000000100 < hostEnd := by decide +kernel

/-! ### Witnesses: queues, contexts, commands, DMA, batches -/

def queueOf (o : Out) : Queue := (after o).queue 0

/-- The block with queue 0 as `f` makes it of an ACTIVE empty queue of the PF. -/
def withQueue (f : Queue → Queue) : State :=
  let s := withCmd (small prog0) (cmdOf [])
  s.setQueue 0 (f { (s.queue 0) with cmds := [], tail := 0, head := 0 })

/-- QueueRegisters: the bounds of DOORBELL and the errors of ENABLE. -/
theorem witness_queue_registers :
    let a := withQueue id
    let idle := fun (f : Queue → Queue) => withQueue (fun x => f { x with st := .idle, fn := none })
    (queueOf (exec (.doorbell (.pf 0) 0 16) a)).tail = 16 ∧ (queueOf (exec (.doorbell (.pf 0) 0 17) a)).overrun = true ∧
    (queueOf (exec (.doorbell (.pf 1) 0 16) a)).tail = 0 ∧ (queueOf (exec (.overrunClear (.pf 0) 0) (withQueue (fun x => { x with overrun := true })))).overrun = false ∧
    (queueOf (exec (.qbCqHead (.pf 0) 0 9) a)).cqHead = 9 ∧
    (queueOf (exec (.qbFenceSignal (.pf 0) 0 4) (withQueue (fun x => { x with fence := 5 })))).fenceLow = 1 ∧
    (queueOf (exec (.doorbell (.pf 0) 0 0) a)) = a.queue 0 ∧
    (fun o : Queue => (o.head, o.overrun, o.cmds.length)) (queueOf (exec (.commandFetch 0)
      (withQueue (fun x => { x with tail := 1, overrun := true, stamps := [(1, 0)] })))) = (1, true, 1) ∧
    a.queueSail 0 = some 0 ∧ a.reaches (.pf 0) 0 = true ∧ (queueOf (exec (.enable (.pf 0) 0) a)).error = 3 ∧
    (queueOf (exec (.enable (.pf 0) 0) (idle id))).st = .active ∧
    (queueOf (exec (.enable (.pf 0) 0) (idle (fun x => { x with log2 := 17 })))).error = 4 ∧
    (queueOf (exec (.enable (.pf 0) 0) (idle (fun x => { x with sqBase := 2 ^ 46 - 1023 })))).error = 2 ∧
    (queueOf (exec (.enable (.pf 0) 0) (idle (fun x => { x with ctx := 1 })))).error = 1 := by decide +kernel

def fetched (raw : List Byte) : State := withCmd (small prog0) { cmdOf raw with phase := .fetched }

/-- QueueFlow: a fetch, starts that go, hold and fail, the record. -/
theorem witness_queue_flow :
    let sub := withQueue (fun x => { x with tail := 1, stamps := [(1, 0)] })
    let waits := fetched ([0, 1, 0, 0] ++ leBytes 2 0 ++ leBytes 42 0 ++ leBytes 8 1)
    let lost := fetched ([0, 1, 0, 0] ++ leBytes 2 9 ++ leBytes 42 0 ++ leBytes 8 1)
    let bad := fetched [0x99]
    let done := withCmd (small prog0) { cmdOf [] with phase := .completed .done }
    (queueOf (exec (.commandFetch 0) sub)).cmds.length = 1 ∧ (queueOf (exec (.commandFetch 0) (withQueue id))).cmds.length = 0 ∧
    dispatches (fetched []) 0 = true ∧ (nextCmd ((fetched []).queue 0)).map (·.n) = some 0 ∧
    phaseOf (exec (.commandStart 0) (fetched [])) = some .started ∧ waitTest waits 0 { cmdOf ([0, 1, 0, 0] ++ leBytes 2 0 ++ leBytes 42 0 ++ leBytes 8 1) with phase := .fetched } = .hold ∧
    phaseOf (exec (.commandStart 0) waits) = some .fetched ∧ phaseOf (exec (.commandStart 0) lost) = some (.completed .malformed) ∧
    phaseOf (exec (.commandStart 0) bad) = some (.completed .malformed) ∧
    phaseOf (exec (.commandStart 0) ((fetched []).updSail 0 (fun x => { x with revoked := true }))) = some (.completed .abortKeyRevoked) ∧
    (queueOf (exec (.completionRecord 0 0) done)).cqTail = 1 ∧ (queueOf (exec (.completionRecord 0 0) done)).cmds = [] ∧
    (queueOf (exec (.completionRecord 0 0) (done.setQueue 0 { done.queue 0 with cqHead := -16 }))).cqFull = true := by decide +kernel

/-- A context descriptor: no SOF, XLT at 0x10000, one MiB at 0 of a cluster buffer, share 1, ring of 64 records at 0. -/
def ctxDesc0 : List Byte := leBytes 8 0x10000 ++ leBytes 8 (2 ^ 6 + 2 ^ 32) ++ leBytes 8 (6 * 2 ^ 56) ++ leBytes 104 0

/-- ContextLife: the mailbox of sail 0 on a FREE, an ACTIVE, a STOPPED context and one that is not the sail's. -/
theorem witness_contexts :
    let s := { linked with cores := [] }
    let made := store (s.updSail 0 (fun x => { x with ctxDesc := 0x6000 })) (busKey 0 0x6000) ctxDesc0
    let stopped := s.updCtx 0 (fun x => { x with st := .stopped })
    let bare := s.updCtx 0 (fun x => { x with ranges := [] })
    let stOf := fun (o : Out) (c : Nat) => ((after o).ctx c).st
    (s.sail 0).state = 1 ∧ (s.sail 0).busy = false ∧ ((after (exec (.reset (.pf 0) 0 4) s)).sail 0).ignored = true ∧
    ctxDescOk ctxDesc0 = true ∧ xltJudge made 0 0x10000 = none ∧ stOf (exec (.create (.pf 0) 0 1) made) 1 = .active ∧
    ((after (exec (.create (.pf 0) 0 1) s)).sail 0).status = .malformed ∧ ((after (exec (.create (.pf 0) 0 0) made)).sail 0).status = .malformed ∧
    stOf (exec (.resume (.pf 0) 0 0) stopped) 0 = .active ∧ stOf (exec (.reset (.pf 0) 0 0) bare) 0 = .active ∧
    stOf (exec (.destroy (.pf 0) 0 0) bare) 0 = .free ∧ (queueOf (exec (.disable (.pf 0) 0) (withQueue id))).st = .idle ∧
    (queueOf (exec (.vfFunctionLevelReset 0 1) (withQueue (fun x => { x with fn := some (.vf 0 1) })))).st = .idle := by decide +kernel

/-- HostCommands: RUN with and without cores, a semaphore's limits, a release at MAX, table numbers at their bound. -/
theorem witness_host_commands :
    let run := fun (n : Nat) => queued 0x01 (leBytes 8 0x100000 ++ leBytes 24 0 ++ leBytes 2 0 ++ leBytes 2 n)
    let init := fun (i m h : Nat) => queued 0x03 (leBytes 2 i ++ leBytes 2 0 ++ leBytes 4 3 ++ leBytes 4 m ++ leBytes 4 h)
    let rel := (queued 0x04 (leBytes 4 0 ++ leBytes 4 5)).setSem 0 { value := 8, max := 10, hold := 200, ovf := 0, waiters := [] }
    let rows := fun (t : Nat) => let s := yarded (yreq pool2); withCmd s (cmdOf (opBytes 0x05 (leBytes 2 t)))
    phaseOf (exec (.nopCommand 0 0) (queued 0 [])) = some (.completed .done) ∧
    runOk (run 34) 0 (cmdOf (opBytes 1 (leBytes 8 0x100000 ++ leBytes 24 0 ++ leBytes 2 0 ++ leBytes 2 34))) = true ∧
    phaseOf (exec (.run 0 0) (run 35)) = some (.completed .malformed) ∧
    phaseOf (exec (.run 0 0) ((run 34).updSail 0 (fun x => { x with state := 2 }))) = some .ready ∧
    phaseOf (exec (.semInit 0 0) (init 3 3 10000)) = some (.completed .done) ∧ ((after (exec (.semInit 0 0) (init 3 3 0))).sem 3).hold = 200 ∧
    phaseOf (exec (.semInit 0 0) (init 3 2 10)) = some (.completed .malformed) ∧ phaseOf (exec (.semInit 0 0) (init 3 3 9)) = some (.completed .malformed) ∧
    phaseOf (exec (.semInit 0 0) (init 4 3 10)) = some (.completed .faultPermission) ∧
    ((after (exec (.semRelease 0 0) rel)).sem 0).value = 10 ∧ yardsOf (rows 0) 0 = [0] ∧
    phaseOf (exec (.tableSync 0 0) (rows 4095)) = some .executing ∧ phaseOf (exec (.tableSync 0 0) (rows 4096)) = some (.completed .malformed) := by
  decide +kernel

/-- A copy of 32 bytes from 0x110000 to 0x120000. -/
def copy0 : BitVec 512 := BitVec.ofNat 512 (0x110000 + 0x120000 * 2 ^ 64 + 32 * 2 ^ 128)
def desc1 (phase : DmaPhase) : DmaDesc :=
  { id := 0, raw := copy0, from_ := .core 0 0 0, ctx := 0, stamp := 0, epoch := 0, phase := phase, units := 0, keyGen := 0, asked := 0, got := [], wasked := 0, wgot := 0,
    bad := none }
def engined (phase : DmaPhase) : State :=
  let s := store ((small prog0).updCtx 0 (fun x => { x with dmaCq := 0x180000, dmaCqLog2 := 6 })) 0x10000 (leBytes 32 77)
  { s with dma := [(0, { descs := [desc1 phase], next := 1, progress := 0, consRead := none })] }

def phasesOf (o : Out) : List DmaPhase := ((after o).engine 0).descs.map (·.phase)

/-- DmaEngines: a copy is accepted, starts, ends, and leaves with its record; a full ring; a command's limits. -/
theorem witness_dma :
    let cmd := fun (n : Nat) => queued 0x02 (leBytes 8 0x180000 ++ leBytes 4 n ++ [0, 0])
    let full := (engined (.ended .done)).updCtx 0 (fun x => { x with ringProd := 64 })
    dmaFormOk copy0 = true ∧ phasesOf (exec (.dmaDescriptorStart 0 0) (engined .accepted)) = [.running] ∧
    phasesOf (exec (.dmaDescriptorComplete 0 0 0 0) (engined .running)) = [.ended .done] ∧
    readB (after (exec (.dmaDescriptorComplete 0 0 0 0) (engined .running))) 0x20000 = 77 ∧
    phasesOf (exec (.dmaRingRecord 0 0) (engined (.ended .done))) = [] ∧ phasesOf (exec (.dmaRingRecord 0 0) full) = [.ended .done] ∧
    phasesOf (exec (.dma 0 0) (cmd 1)) = [.accepted] ∧ phaseOf (exec (.dma 0 0) (cmd 0)) = some (.completed .malformed) ∧
    phaseOf (exec (.dma 0 0) (cmd 257)) = some (.completed .malformed) := by decide +kernel

/-- DmaEngines: a descriptor that is refused as it starts: a reserved bit, a source that no range holds, an engine out of service. -/
theorem witness_dma_refused :
    let at_ := fun (raw : BitVec 512) => let s := engined .accepted; { s with dma := [(0, { descs := [{ desc1 .accepted with raw := raw }], next := 1, progress := 0, consRead := none })] }
    let off := { engined .accepted with rst := { (engined .accepted).rst with quiesced := [(2, 0)] } }
    dmaFormOk (copy0 ||| 1 <<< 511) = false ∧ phasesOf (exec (.dmaDescriptorStart 0 0) (at_ (copy0 ||| 1 <<< 511))) = [.ended .malformed] ∧
    dmaFormOk (copy0 + 0x700000) = true ∧ phasesOf (exec (.dmaDescriptorStart 0 0) (at_ (copy0 + 0x700000))) = [.ended .faultTranslation] ∧
    outOfService off 2 0 = true ∧ phasesOf (exec (.dmaDescriptorStart 0 0) off) = [.accepted] := by decide +kernel

/-- A descriptor of 64 bytes in mode `m`; `pl` is PLANES, ESIZE is 1 for elements of 2 bytes, PSTRIDE 64. -/
def shuffle0 (m pl : Nat) : BitVec 512 :=
  BitVec.ofNat 512 (0x110000 + 0x120000 * 2 ^ 64 + (64 + m * 2 ^ 32 + pl * 2 ^ 36 + 2 ^ 40) * 2 ^ 128 + 64 * 2 ^ 192)

/-- ReshuffleModes: each mode is legal; two bit planes and back, two fields of 2-byte elements; the planes of the destination. -/
theorem witness_reshuffle :
    let l := (List.range 64).map (fun i => ((BitVec.ofNat 8 i, 0) : Marked))
    let f := fun (m pl : Nat) => reshuffle (dmaForm (shuffle0 m pl))
    dmaFormOk (shuffle0 1 2) = true ∧ dmaFormOk (shuffle0 2 2) = true ∧ dmaFormOk (shuffle0 3 1) = true ∧
    dmaFormOk (shuffle0 4 1) = true ∧ f 2 2 (f 1 2 l) = l ∧ (f 1 2 l)[0]? = some (0x10, 0) ∧ (f 1 2 l)[33]? = some (0x11, 0) ∧
    (f 3 1 l)[6]? = some (34, 0) ∧ (f 4 1 (f 3 1 l)) = l ∧
    sidePieces (dmaForm (shuffle0 1 2)) false = [(0x120000, 32), (0x120020, 32)] ∧
    sidePieces (dmaForm (shuffle0 3 1)) true = [(0x110000, 32), (0x110040, 32)] := by decide +kernel

def batching (seqs : List Seq) : State :=
  (queued 0x27 (leBytes 8 0x150000 ++ leBytes 4 100 ++ leBytes 4 2)).updSail 0 (fun x => { x with
    bEnable := true, listBase := 0x160000, seqs := seqs })
def seq0 : Seq :=
  { slot := 0, q := 0, n := 0, desc := 0x150000, hist := 100, tokens := 2, deadline := 0, phase := .prefill, events := 0, produced := 0,
    starved := 0, lateCounted := false, fbRunning := false }

/-- BatchesAndGuarantees: a sequence takes slot 0, and none at its four slots; a step is formed; a window begins once. -/
theorem witness_batches :
    let full := (List.range 4).map (fun i => { seq0 with slot := i })
    let reef := { batching [] with time := 10000, rig := { (batching []).rig with active := some { rig0 with
      reef := [{ rclass := 0, index := 0, sail := 0, tclass := 0, rate := 3, latency := 0, share := 1 }] } } }
    freeSeqSlot (batching []) 0 = some 0 ∧ phaseOf (exec (.seqSubmit 0 0) (batching [])) = some .executing ∧
    freeSeqSlot (batching full) 0 = none ∧ phaseOf (exec (.seqSubmit 0 0) (batching full)) = some .started ∧
    phaseOf (exec (.seqSubmit 0 0) ((batching []).updSail 0 (fun x => { x with bEnable := false }))) = some (.completed .malformed) ∧
    (formStep ((batching [seq0]).sail 0)).map (·.count) = [100] ∧
    (after (exec (.reefWindow 0 0) reef)).tiers.budget.get 0 110000 = 1 ∧
    (after (exec (.reefWindow 0 0) (batching []))).tiers.budget = (batching []).tiers.budget := by decide +kernel

/-! ### Witnesses: security, telltales, power, the sideband, registers -/

def withSec (f : SecSt → SecSt) : State := { running with sec := f running.sec }

def statusOfDoe (o : Out) : List Nat := (after o).sec.doe.map (fun p => p.2.status.toNat)

/-- Attestation: before firmware, in ANALYSIS, for a sail that is absent, with the leaves used up, within the limit of a second. -/
theorem witness_attestation :
    let nw := withRst (fun x => { x with fwRun := false })
    let no := fun (s : State) => statusOfDoe (exec (.getReport (.pf 0) 0 0) s)
    let many := withSec (fun x => { x with reports := 1000, reportSecond := 0 })
    attestSail running (.pf 0) 0 = some 0 ∧ running.vfSail 0 1 = some 0 ∧ no nw = [] ∧ no (withSec (fun x => { x with lc := .analysis })) = [0x0022] ∧
    statusOfDoe (exec (.getReport (.pf 0) 5 0) (withSec (fun x => { x with lc := .fielded }))) = [0x0022] ∧
    no (withSec (fun x => { x with lc := .fielded, leafDisabled := true })) = [0x0013] ∧ maySign many = false ∧
    maySign { many with time := 1000000000 } = true ∧ maySign (withSec (fun x => { x with leafNext := 2 ^ 20 })) = false ∧
    maySign (withSec (fun x => { x with leafNext := 2 ^ 20, treeReady := true })) = true ∧
    (after (exec .bottomTreeBuild running)).sec.treeReady = true := by decide +kernel

/-- Attestation: a report that waits for its leaf, and is signed once the bottom tree stands. -/
theorem witness_report_waits :
    let w := withSec (fun x => { x with lc := .fielded, leafNext := 2 ^ 20, reportWaits := [{ fn := .pf 0, sail := some 0, nonce := 0 }] })
    (after (exec (.getReport (.pf 0) 0 0) (withSec (fun x => { x with lc := .fielded, leafNext := 2 ^ 20 })))).sec.reportWaits.length = 1 ∧
    (after (exec .bottomTreeBuild w)).sec.reportWaits = [] ∧ (after (exec .bottomTreeBuild w)).sec.leafNext = 2 ^ 20 + 1 := by decide +kernel

/-- Attestation: the counters of a confidential sail are shown once a millisecond. -/
theorem witness_conf_counters :
    let c := { running with
      rig := { running.rig with active := some { rig0 with sails := [(0, { desc0 with conf := true })] } }, time := 1000000 }
    ((after (exec (.confCounterWindow 0) (c.updSail 0 (fun x => { x with coreTimeHeld := 9 })))).sail 0).coreTimePf = 9 ∧
    ((after (exec (.confCounterWindow 0) ({ c with time := 999999 }.updSail 0 (fun x => { x with coreTimeHeld := 9 })))).sail 0).coreTimePf = 0 := by
  decide +kernel

def lease0 : State := withSec (fun x => { x with
  leaseKeys := [(0, 1)], slots := [(1, { KeySlot.empty with st := .loaded }), (2, { KeySlot.empty with st := .active })] })

/-- KeySlots: a request whose digest is that of the sail's lease key passes every check. -/
theorem witness_key_delivery (x : BitVec 256) (h : x = Config.sha256 (fitTo 1568 (Config.leaseKey 0))) :
    let l := [3, 3, 0, 0, 0, 0, 0, 0] ++ (leBytes 32 x.toNat ++ leBytes 1728 0)
    deliverFormOk (.pf 0) l = true ∧ deliverJudge lease0 (.pf 0) 0 desc0 l true = none := by
  intro l
  have hd : l.drop 8 = leBytes 32 x.toNat ++ leBytes 1728 0 := rfl
  have ht : (l.drop 8).take 32 = leBytes 32 x.toNat := by rw [hd, List.take_left' (leBytes_length _ _)]
  refine ⟨?_, ?_⟩
  · have hl : l.length = 1768 := by simp [l]
    have h0 : byteAt l 0 = 3 := rfl
    have h1 : byteAt l 1 = 3 := rfl
    have h4 : leNat ((l.drop 4).take 4) = 0 := rfl
    simp [deliverFormOk, hl, h0, h1, h4, viaPf]
  · have h1 : byteAt l 1 = 3 := rfl
    have hk : leaseKeyOf lease0 0 = some (fitTo 1568 (Config.leaseKey 0)) := rfl
    have hm : lease0.slot desc0.memKey = { KeySlot.empty with st := .loaded } := rfl
    have hn : lease0.slot desc0.linkKey = { KeySlot.empty with st := .active } := rfl
    have he : leNat (leBytes 32 x.toNat) = x.toNat := by
      rw [leNat_leBytes, Nat.mod_eq_of_lt (by have := x.isLt; omega)]
    simp only [deliverJudge, hm, hn, hk, ht, he, h1, ← h]
    simp [desc0, viaPf, KeySlot.empty, SailDesc.hasLink]

/-- KeySlots: what fails before the keys are looked at, revocation, the 2 ms of a draining slot. -/
theorem witness_revoke :
    let act := withSec (fun x => { x with slots := [(1, { KeySlot.empty with st := .active, killCode := 7, sail := 0 })] })
    let dr := withSec (fun x => { x with slots := [(1, { KeySlot.empty with st := .draining, drainAt := some 0, sail := 0 })] })
    deliverFormOk (.pf 0) [3] = false ∧ deliverJudge running (.pf 0) 0 desc0 [3, 1] true = some .abortKeyRevoked ∧
    statusOfDoe (exec (.keyRevoke (.pf 0) 0 7) act) = [0] ∧ ((after (exec (.keyRevoke (.pf 0) 0 7) act)).slot 1).st = .draining ∧
    ((after (exec (.keyRevoke (.pf 0) 0 8) act)).slot 1).badKill = 1 ∧ drainedSlots { dr with time := 2000000 } 0 = [1] ∧
    drainedSlots { dr with time := 1999999 } 0 = [] ∧
    ((after (exec (.drainBoundExpiry 0) { dr with time := 2000000 })).slot 1).st = .empty := by decide +kernel

/-- LifeCycleAndDebug: the mailbox busy and free, a session at each bound of its level. -/
theorem witness_debug :
    let lc := fun (x : LcState) => withSec (fun y => { y with lc := x, opKey := none })
    let opened := fun (n : Nat) => withSec (fun y => { y with lc := .fielded, dbgOpen := true, dbgLevel := n })
    (after (exec (.opkeyEnroll (.pf 0)) (withSec (fun x => { x with lcsBusy := true })))).sec.lcsIgnored = true ∧
    (after (exec (.opkeyEnroll (.pf 0)) (lc .integrator))).sec.opKey.isSome = true ∧
    (after (exec (.opkeyEnroll (.pf 0)) (lc .fielded))).sec.opKey.isSome = false ∧
    (after (exec (.userRead (.pf 0) 0) (lc .scrapped))).sec.lcsStatus = 0x0022 ∧
    (after (exec .bypass running)).sec.jtag = [false] ∧ (after (exec .idcode running)).sec.jtag.length = 24 ∧
    dbgReach (lc .fielded) = 2 ∧ (after (exec (.dbgResponse 2 []) { lc .maker with sec := { (lc .maker).sec with challenge := some 1 } })).sec.dbgLevel = 2 ∧
    (after (exec (.dbgResponse 3 []) { lc .fielded with sec := { (lc .fielded).sec with challenge := some 1 } })).sec.dbgOpen = false ∧
    addrOwned (opened 2) 0 = true ∧ addrOwned (opened 2) (2 ^ 30) = false ∧ memKey (opened 2) (2 ^ 30) = some (2 ^ 30) ∧
    readB (after (exec (.dbgAccess (.mem (2 ^ 30) (some 5))) (opened 2))) (2 ^ 30) = 5 ∧
    readB (after (exec (.dbgAccess (.mem 0 (some 5))) (opened 2))) 0 = 0 ∧ readB (after (exec (.dbgAccess (.mem 0 (some 5))) (opened 3))) 0 = 5 := by
  decide +kernel

/-- A Ryurun port 0 that was busy throughout the window that has ended and has not moved. -/
def stuck : State :=
  let s := fabric (small prog0)
  let s := s.setPort 0 { portUp0 with unacked := [txFrame 4 [[1]]] }
  s.updTell 7 0 (fun t => { t with busyAtStart := true, closed := some { busy := true, few := true, exempt := false, stalled := false } })

/-- TelltalesAndLadder: a port hangs and is trained again; one that moved has not; a window in progress. -/
theorem witness_telltales :
    (telltaleKind 7).1 = 32 ∧ objectBusy stuck 7 0 = true ∧ stuck.ttl.steps = [] ∧ stuck.ttl.replays = [] ∧
    (((turnWindow stuck 7 0).tell 7 0).closed.map (fun c => (c.busy, c.few, c.exempt, c.stalled))) = some (true, true, false, false) ∧
    ((after (exec (.telltaleWindowClose 7 0) stuck)).tell 7 0).hung = true ∧
    ((after (exec (.telltaleWindowClose 7 0) stuck)).port 0).trained = false ∧
    ((after (exec (.telltaleWindowClose 7 0) (stuck.updTell 7 0 (fun t => { t with closed := some { busy := true, few := true, exempt := true, stalled := false } })))).tell 7 0).hung = false ∧
    (after (exec (.telltaleWindowClose 7 0) (stuck.updTell 7 0 (fun t => { t with closed := some { busy := true, few := true, exempt := false, stalled := true } })))).ttl.written = 1 ∧
    ((after (exec (.telltaleWindowClose 7 0) (stuck.updTell 7 0 (fun t => { t with closed := none })))).tell 7 0).hung = false ∧ mastheadWorks running = true ∧
    (after (exec .fwBeat running)).ttl.fwBeat = 1 := by decide +kernel

def stepping (code : Nat) (t : Word) : State :=
  let x : LadderStep := { id := 4, code := code, cause := 5, reach := .device, started := 0, ended := none }
  { running with time := t, rst := { running.rst with fwRun := false }, ttl := { running.ttl with steps := [x], sampling := some 0, held := 3 } }

def replaying : State :=
  let x : LadderStep := { id := 4, code := 3, cause := 5, reach := .block 0 0, started := 0, ended := none }
  let r : Replay := { kind := 7, index := 0, suspects := [0], held := [], cur := some 0, hung := false, guilty := false, stepId := 4 }
  { running with ttl := { running.ttl with steps := [x], replays := [r] } }

/-- TelltalesAndLadder: bounds reached and not; a replay's end; samples that could not be written. -/
theorem witness_ladder :
    boundPaused (stepping 6 0) { id := 4, code := 6, cause := 5, reach := .device, started := 0, ended := none } = false ∧
    (after (exec (.stepBoundExpiry 4) (stepping 6 12000000000))).pwr.fatal = true ∧
    (after (exec (.stepBoundExpiry 4) (stepping 6 11999999999))).pwr.fatal = false ∧
    (after (exec (.stepBoundExpiry 4) (stepping 5 4000000000))).pwr.powerCycle = true ∧
    mastheadWorks (stepping 4 600000000) = false ∧ blockSail replaying 7 0 = none ∧
    (after (exec (.suspectReplayEnd 0 .completed) replaying)).ttl.replays = [] ∧
    (after (exec .samplingTimeout (stepping 6 10000000))).ttl.sampleDrop = 3 ∧
    (after (exec .samplingTimeout (stepping 6 9999999))).ttl.sampleDrop = 0 := by decide +kernel

def withPwr (f : PwrSt → PwrSt) : State := { running with pwr := f running.pwr }

/-- PowerControl: an interval at its time and beside it, at caps of 600 W and less; samples at the bound of the fast clamp; a droop
flag set and cleared; a switch that waits and goes. -/
theorem witness_power :
    let ten := fun (w : Nat) => withPwr (fun x => { x with samples := List.replicate 9 w, effective := 1000, clamped := false, pwrGood := true })
    let on := { running with time := 100000 }
    let isl : Island := .core 3 7
    let dr := withPwr (fun x => { x with droop := [(isl, 0)] })
    let sw := fun (t : Word) => { withPwr (fun x => x.setClk 5 { x.clk 5 with target := 3, held := true, clearAt := some 0 }) with time := t }
    running.time.toNat % 1000 = 0 ∧ running.pwr.sampleAt ≠ some running.time ∧
    (after (exec (.powerSample 11001 100) (ten 11000))).pwr.fastClamp = true ∧ (after (exec (.powerSample 11000 100) (ten 11000))).pwr.fastClamp = false ∧
    on.pwr.trimAt = none ∧ droops dr.pwr isl = true ∧ droops running.pwr isl = false ∧
    (after (exec (.droopFlagSet isl) running)).pwr.droop = [(isl, 0)] ∧ (after (exec (.droopFlagClear isl) dr)).pwr.droop = [] ∧
    ((sw 160).pwr.clk 5).point = 2 ∧ ((after (exec (.pointSwitch 5) (sw 160))).pwr.clk 5).point = 3 ∧
    ((after (exec (.pointSwitch 5) (sw 159))).pwr.clk 5).point = 2 := by decide +kernel

/-- HeatAndEnergy: sensor 96 at 95 °C and one hundredth below; sensor 155 is the last; energy of a command. -/
theorem witness_heat :
    let r := fun (k : Nat) (t : Int) => after (exec (.thermalRead [(k, t)]) running)
    ((r 96 9500).pwr.thermOf 96).throttle = true ∧ ((r 96 9499).pwr.thermOf 96).throttle = false ∧
    ((r 97 8500).tiers.chan.get ChanRate.reset 4).hot = true ∧ ((r 97 8499).tiers.chan.get ChanRate.reset 4).hot = false ∧
    (r 155 11500).pwr.thermThrottle = true ∧ (r 156 11500).pwr.thermThrottle = false ∧
    (((after (exec (.energyAttribution [.command 0 0 50]) (queued 0 []))).cmd 0 0).map (·.energyNj)) = some 50 ∧
    ((after (exec (.energyAttribution [.sail 0 50]) (queued 0 []))).sail 0).energyNj = 50 ∧ activeSails running = [0] ∧
    running.sailClusters 0 = [0] := by decide +kernel

/-- SidebandAnswers: a target that answers, one without power, a wrong packet error check, the word that STATUS gives. -/
theorem witness_sideband :
    let on := withPwr (fun x => { x with pwrGood := true })
    let dark := withRst (fun x => { x with powered := false })
    let free := { on with rig := RigSt.reset }
    smbusAnswers on = true ∧ smbusAnswers dark = false ∧ (after (exec (.status true) on)).pwr.smbusOut.length = 2 ∧
    (after (exec (.status false) on)).pwr.smbusOut = [] ∧ (after (exec (.trayCap true (some 599)) on)).pwr.capTray = 600 ∧
    (after (exec (.trayCap true (some 1801)) on)).pwr.capTray = 1800 ∧ (after (exec (.shutdown true 0xA5) free)).rst.shutdown = true ∧
    (after (exec (.shutdown true 0xA4) free)).rst.shutdown = false ∧ (after (exec (.smbusTimeout 3) on)).pwr.sbPin = 2 ∧
    (after (exec (.sidebandFault 16) on)).pwr.sbPin = 15 ∧ (after (exec (.sidebandFault 1) dark)).pwr.sbShort = dark.pwr.sbShort := by decide +kernel

/-- Cages: a cable, its removal, a short, training attempts a second apart. -/
theorem witness_cages :
    let x := { RyuPort.reset with cable := true, lastTry := some 0 }
    let s := fun (t : Word) => { running.setPort 31 x with time := t }
    let ok : Option TrainResult := some ⟨true, 0, 0⟩
    ((after (exec (.cablePresence 31 false) (s 0))).port 31).cable = false ∧ (after (exec (.cageShort 31) (s 0))).pwr.fabShort = 0x80000000 ∧
    (after (exec (.cablePresence 31 false) (after (exec (.cageShort 31) (s 0))))).pwr.supplyOff = 0 ∧
    ((after (exec (.portTrainAttempt 31 ok) (s 1000000000))).port 31).trained = true ∧
    ((after (exec (.portTrainAttempt 31 ok) (s 999999999))).port 31).trained = false ∧
    ((after (exec (.portTrainAttempt 31 ok) (after (exec (.cageShort 31) (s 1000000000))))).port 31).trained = false := by decide +kernel

/-- RegisterWrites: the last context and the last queue of the sail, QUIESCE at both ends, a misaligned write. -/
theorem witness_register_writes :
    let w := fun (fn : HostFn) (bar off width : Nat) (v : Word) => after (exec (.registerWrite fn bar off width v) (withQueue (fun x => { x with st := .idle })))
    let f := { running with ctxs := [(3, { Ctx.empty with arith := 0x1F })] }
    (w (.pf 0) 0 0x100060 8 0).rig.quiesce = 1000 ∧ (w (.pf 1) 0 0x100060 8 (2 ^ 32 - 1)).rig.quiesce = 10000000 ∧
    (w (.pf 0) 0 0x100064 2 0).rig.quiesce = 5000 ∧ (w (.sec 0) 0 0x100060 8 0).rig.quiesce = 5000 ∧ (w (.pf 0) 0 0x28000 8 700).pwr.capHost = 700 ∧
    f.ctxSail 3 = some 0 ∧ f.ctxSail 4 = none ∧ ((after (exec (.registerWrite (.pf 0) 0 (0x3000F0 + 0x400 * 3) 8 5) f)).ctx 3).arith = 0x1A ∧
    (small prog0).queueSail 3 = some 0 ∧ ((w (.pf 0) 2 0x3000 8 0x7000).queue 3).sqBase = 0x7000 ∧ running.vfSail 0 1 = some 0 ∧
    running.vfSail 0 2 = none := by decide +kernel

/-- StepRunsFront: an empty queue, a slew that is asked for; one step of the counter; a core at 1,800 MHz gains no cycle or one in a nanosecond, by what has passed
of its cycle. -/
theorem witness_tick :
    let s := fun (x : Slew) => { small prog0 with ryu := { (small prog0).ryu with slew := x } }
    let at_ := fun (n : Nat) => { small prog0 with cores := [(0, { CoreSlot.empty with prog := some prog0, phase := n })] }
    (s .none).pending = [] ∧ (s .hold).ryu.slew = .hold ∧ (countStep (s .advance)).time = 1 ∧ coreSpeed (at_ 0) 0 < 3000 * 2 ∧
    0 < coreSpeed (at_ 0) 0 ∧ ((tickCores (at_ 2999)).prog 0).map (fun p => p.cycle.toNat + 1) =
      some ((2999 + coreSpeed (at_ 0) 0) / 3000 + 1) := by decide +kernel

/-! ### The check of commands -/

def hdr0 : FmHdr := { port := 0, src := 9, dst := 1, arg := 5 }

/-- One ill-formed term for each check, and two commands at the ends of their ranges. -/
theorem test_wf_refuses : ([
  .nop ⟨64, 0⟩ always ⟨0, 0, 0, 0⟩, .waitingInstruction ⟨0, 34⟩, .pool 16 0, .pool 0 32, .cgBegin 16 0, .engineTakesRequest 0 64, .cgAction 512 0,
   .intentLogDurable 0 64, .commitPoint 512, .cgApply 0 16, .ph1Start { cmsg with port := 33 }, .yrdSailPeakRead (.pf 2) 0 0, .yrdSailPeakRead (.pf 0) 0 64,
   .meshSlot 2465, .meshRtrClr (.vf 0 0) 0, .ryuClr (.vf 0 65) 0, .doeDiscovery (.sec 2) 0, .rangeMap 8192 0, .run 0 (2 ^ 32), .rangeDrainEnd 2048,
   .prodRead 0 2048, .rd 32 msg0, .ident 0 65536 0 0, .remoteTimeout 32768, .consRead 256, .fmAssign { hdr0 with src := 65536 } 0 0 0 none, .fmAck { hdr0 with dst := 65536 } 0,
   .fmTime { hdr0 with port := 32 } 0 .none, .load 2, .doorbell (.pf 0) 8192 0, .commandFetch 8192, .create (.pf 0) 0 2048, .vfFunctionLevelReset 0 65,
   .dmaRingRecord 64 0, .batchStepBoundary 64, .getReport (.pf 0) 64 0, .keyRevoke (.pf 0) 64 0, .userRead (.pf 0) 1024, .pointSwitch 64,
   .smbusTimeout 16, .registerWrite (.pf 0) 6 0 8 0, .backgroundWindow (.dramChannel 128), .backgroundWindow (.way 0 16), .backgroundWindow (.ryuPort 32),
   .accessTimerExpiry (.row 0 32 0), .hostReadTimeout (.dma 0 4 0), .channelTrainingLoss true 64 true, .channelTrainingLoss false 128 true,
   .undervoltage (.core 0 36)] : List Instr).all (fun x => !x.wf) = true ∧
    Instr.wf (.channelTrainingLoss false 127 true) = true ∧ Instr.wf (.getReport (.pf 0) 0xFFFF 0) = true := by decide +kernel

end Sys2Proof.Machine.T
end

/-! ## Core programs: scalar operations, control flow, masked instructions, scalar memory (R61 to R68) -/

/-! ### What an issue gives -/

namespace Sys2Proof.Machine

open Sys2Proof

section

variable {s t u : State} {c : CoreRef} {p q : Prog} {g : Pred} {i : Instr}
  {illegal : State → Prog → Bool} {eff : State → Nat → Prog → State}

/-- A legal instruction that its predicate allows has its effect, and the core counts what has been issued. -/
theorem gives_effect (he : exec i s = issue s c g i illegal eff) (h : Runs s c p t) (ha : p.allows g = true)
    (hl : illegal t p = false) (hu : eff t c.key p = u) :
    Gives s c p t i (.next { countIssue u c.key with pending := s.pending, rig := s.rig, time := s.time }) := by
  intro hc
  rw [he, issue_runs h hc hl ha, hu]

/-- The effect replaces the program by one that does not wait. -/
theorem gives_prog (he : exec i s = issue s c g i illegal eff) (h : Runs s c p t) (ha : p.allows g = true)
    (hl : illegal t p = false) (hu : eff t c.key p = u.setProg c.key (some q)) (hw : q.waiting = none) :
    Gives s c p t i (.next (coreAfter s u c.key q)) :=
  fun hc => he.trans (issue_prog h hc hl ha hu hw)

/-- The effect changes the program and goes on. -/
theorem gives_plain {f : Prog → Prog} (he : exec i s = issue s c g i illegal (plain f)) (h : Runs s c p t)
    (ha : p.allows g = true) (hl : illegal t p = false) : Gives s c p t i (.next (coreAfter s t c.key (f p).advance)) :=
  gives_prog he h ha hl rfl rfl

/-- The effect is a core fault. -/
theorem gives_faulted {k : CoreCause} (he : exec i s = issue s c g i illegal eff) (h : Runs s c p t) (ha : p.allows g = true)
    (hl : illegal t p = false) (hu : eff t c.key p = coreFault u c.key q k) : Gives s c p t i (faulted s u c.key q k) :=
  gives_effect he h ha hl hu

/-- An illegal instruction is ruled out, whatever its predicate (R64). -/
theorem gives_ruledOut (he : exec i s = issue s c g i illegal eff) (h : Runs s c p t) (hl : illegal t p = true) :
    Gives s c p t i (ruledOut s t c.key p) :=
  fun hc => he.trans (issue_illegal h hc hl)

end

/-! ### Writes to a register and the PC that follows -/

theorem Prog.setS_eq (p : Prog) (d : BitVec 5) (v : Word) :
    p.setS d v = { p with s := if d = 0 then p.s else p.s.set d.toNat v d.isLt } := by
  unfold Prog.setS
  split <;> rfl

theorem Prog.setP_eq (p : Prog) (d : BitVec 3) (b : Bool) :
    p.setP d b = { p with p := if d = 0 then p.p else setBit8 p.p d.toNat b } := by
  unfold Prog.setP
  split <;> rfl

theorem Prog.advance_setS (p : Prog) (d : BitVec 5) (v : Word) : (p.setS d v).advance = p.wroteS d v := by
  rw [Prog.setS_eq]; rfl

theorem Prog.advance_setP (p : Prog) (d : BitVec 3) (b : Bool) : (p.setP d b).advance = p.wroteP d b := by
  rw [Prog.setP_eq]; rfl

/-! ### The results of R65 -/

theorem mulhu_eq (a b : Word) : mulhu a b = (a.zeroExtend 128 * b.zeroExtend 128).extractLsb' 64 64 := by
  have hab : a.toNat * b.toNat < 2 ^ 128 := Nat.mul_lt_mul'' (c := 2 ^ 64) (d := 2 ^ 64) a.isLt b.isLt
  apply BitVec.eq_of_toNat_eq
  simp only [mulhu, BitVec.toNat_ofNat, BitVec.extractLsb'_toNat, BitVec.toNat_mul, BitVec.truncate_eq_setWidth,
    BitVec.toNat_setWidth, Nat.shiftRight_eq_div_pow]
  rw [Nat.mod_eq_of_lt (a := a.toNat) (by omega), Nat.mod_eq_of_lt (a := b.toNat) (by omega),
    Nat.mod_eq_of_lt (a := a.toNat * b.toNat) hab]

theorem divu_eq (a b : Word) : divu a b = if b = 0 then BitVec.allOnes 64 else BitVec.ofNat 64 (a.toNat / b.toNat) := by
  simp only [divu, ← BitVec.toNat_udiv, BitVec.ofNat_toNat, BitVec.setWidth_eq]

theorem remu_eq (a b : Word) : remu a b = if b = 0 then a else BitVec.ofNat 64 (a.toNat % b.toNat) := by
  simp only [remu, ← BitVec.toNat_umod, BitVec.ofNat_toNat, BitVec.setWidth_eq]

theorem shamt_eq (b : Word) : shamt b = (b.extractLsb' 0 6).toNat := by simp [shamt, BitVec.extractLsb'_toNat]

/-- Where equal keys name equal values, a choice by `<` is the one by `≤`. -/
theorem ite_lt_eq_ite_le {α β : Type} [LinearOrder α] {x y : α} {a b : β} (h : x = y → a = b) :
    (if x < y then a else b) = if x ≤ y then a else b := by
  rcases lt_trichotomy x y with hlt | heq | hgt
  · rw [if_pos hlt, if_pos hlt.le]
  · rw [if_neg heq.not_lt, if_pos heq.le, h heq]
  · rw [if_neg hgt.not_gt, if_neg hgt.not_ge]

theorem min_result_eq (a b : Word) : (if a.slt b then a else b) = if a.toInt ≤ b.toInt then a else b := by
  simpa [BitVec.slt] using ite_lt_eq_ite_le BitVec.eq_of_toInt_eq

theorem max_result_eq (a b : Word) : (if a.slt b then b else a) = if a.toInt ≤ b.toInt then b else a := by
  simpa [BitVec.slt] using ite_lt_eq_ite_le fun h => (BitVec.eq_of_toInt_eq h).symm

theorem minu_result_eq (a b : Word) : (if a.ult b then a else b) = if a.toNat ≤ b.toNat then a else b := by
  simpa [BitVec.ult] using ite_lt_eq_ite_le BitVec.eq_of_toNat_eq

theorem maxu_result_eq (a b : Word) : (if a.ult b then b else a) = if a.toNat ≤ b.toNat then b else a := by
  simpa [BitVec.ult] using ite_lt_eq_ite_le fun h => (BitVec.eq_of_toNat_eq h).symm

/-! ### The scalar instructions as issues -/

section

variable {s t : State} {c : CoreRef} {p : Prog} {g : Pred} {i : Instr}

/-- Operations with the same results are the same operation, in both classes. -/
theorem aluOp_congr {f : AluForm} {op op' : Word → Word → Word} (h : ∀ a b, op a b = op' a b) :
    aluOp s c g i f op = aluOp s c g i f op' := by
  rw [funext fun a => funext (h a)]

theorem cmpOp_congr {f : AluForm} {r r' : Word → Word → Bool} (h : ∀ a b, r a b = r' a b) :
    cmpOp s c g i f r = cmpOp s c g i f r' := by
  rw [funext fun a => funext (h a)]

/-- Each operation of the table of R65 is issued with the result that the table gives. -/
theorem exec_scalarOps (s : State) (c : CoreRef) (g : Pred) (f : AluForm) :
    ∀ x ∈ scalarOps, exec (x.1 c g f) s = aluOp s c g (x.1 c g f) f x.2 := by
  simp only [scalarOps, List.forall_mem_cons, List.not_mem_nil, IsEmpty.forall_iff, implies_true, and_true]
  exact ⟨exec_add .., exec_sub .., exec_mul .., (exec_mulhu ..).trans (aluOp_congr mulhu_eq),
    (exec_divu ..).trans (aluOp_congr divu_eq), (exec_remu ..).trans (aluOp_congr remu_eq),
    exec_and .., exec_or .., exec_xor .., (exec_sll ..).trans (aluOp_congr fun a b => by rw [shamt_eq]),
    (exec_srl ..).trans (aluOp_congr fun a b => by rw [shamt_eq]), (exec_sra ..).trans (aluOp_congr fun a b => by rw [shamt_eq]),
    (exec_min ..).trans (aluOp_congr min_result_eq), (exec_max ..).trans (aluOp_congr max_result_eq),
    (exec_minu ..).trans (aluOp_congr minu_result_eq), (exec_maxu ..).trans (aluOp_congr maxu_result_eq)⟩

/-- Each compare of the table of R65 is issued with the relation that the table gives. -/
theorem exec_compareOps (s : State) (c : CoreRef) (g : Pred) (f : AluForm) :
    ∀ x ∈ compareOps, exec (x.1 c g f) s = cmpOp s c g (x.1 c g f) f x.2 := by
  simp only [compareOps, List.forall_mem_cons, List.not_mem_nil, IsEmpty.forall_iff, implies_true, and_true]
  exact ⟨(exec_ceq ..).trans (cmpOp_congr fun a b => rfl),
    (exec_cne ..).trans (cmpOp_congr fun a b => by rw [Bool.eq_iff_iff]; simp), exec_clt .., exec_cltu ..,
    (exec_cge ..).trans (cmpOp_congr fun a b => by simp [BitVec.slt, ← decide_not]),
    (exec_cgeu ..).trans (cmpOp_congr fun a b => by simp [BitVec.ult, ← decide_not])⟩

/-! ### Reserved fields and fields that name predicates -/

@[simp] theorem predField_setWidth (d : BitVec 3) : predField (d.setWidth 5) = d := by
  have hd := d.isLt
  apply BitVec.eq_of_toNat_eq
  simp only [predField, BitVec.extractLsb'_toNat, BitVec.toNat_setWidth, Nat.shiftRight_zero]
  omega

@[simp] theorem isPred_setWidth (d : BitVec 3) : isPred (d.setWidth 5) = true := by
  have hd := d.isLt
  simp only [isPred, BitVec.toNat_setWidth, decide_eq_true_eq]
  omega

theorem aluRsvOk_reg {d a b : BitVec 5} {r : BitVec 35} : aluRsvOk (.reg d a b r) = false ↔ r ≠ 0 := by simp [aluRsvOk]

theorem isPred_eq_false_iff (d : BitVec 5) : isPred d = false ↔ 8 ≤ d.toNat := by simp [isPred]

/-! ### R65: results and breaches -/

theorem aluOp_gives {f : AluForm} {op : Word → Word → Word} (he : exec i s = aluOp s c g i f op) (h : Runs s c p t)
    (ha : p.allows g = true) (hr : aluRsvOk f = true) :
    Gives s c p t i (.next (coreAfter s t c.key (p.wroteS (aluD f) (op (aluA f p) (aluB f p))))) := by
  rw [← Prog.advance_setS]
  exact gives_plain he h ha (by simp [hr])

theorem cmpOp_gives {f : AluForm} {r : Word → Word → Bool} (he : exec i s = cmpOp s c g i f r) (h : Runs s c p t)
    (ha : p.allows g = true) (hr : aluRsvOk f = true) (hd : isPred (aluD f) = true) :
    Gives s c p t i (.next (coreAfter s t c.key (p.wroteP (predField (aluD f)) (r (aluA f p) (aluB f p))))) := by
  rw [← Prog.advance_setP]
  exact gives_plain he h ha (by simp [hr, hd])

theorem predOp_gives {d a b : BitVec 5} {z : Bool} {r : Bool → Bool → Bool} (he : exec i s = predOp s c g i (.reg d a b 0) z r)
    (h : Runs s c p t) (ha : p.allows g = true) (hd : isPred d = true) (hA : isPred a = true) (hB : isPred b = true)
    (hz : z = true → b = 0) :
    Gives s c p t i (.next (coreAfter s t c.key (p.wroteP (predField d) (r (p.preg (predField a)) (p.preg (predField b)))))) := by
  rw [← Prog.advance_setP]
  exact gives_plain he h ha (by simpa [hd, hA, hB] using hz)

theorem immOp_gives {d a : BitVec 5} {x : BitVec 40} {op : Word → BitVec 40 → Word}
    (he : exec i s = immOp s c g i (.imm d a x) op) (h : Runs s c p t) (ha : p.allows g = true) :
    Gives s c p t i (.next (coreAfter s t c.key (p.wroteS d (op (p.sreg d) x)))) := by
  rw [← Prog.advance_setS]
  exact gives_plain he h ha rfl

/-- A nonzero reserved field of a scalar operation (R62). -/
theorem aluOp_ruledOut {f : AluForm} {op : Word → Word → Word} (he : exec i s = aluOp s c g i f op) (h : Runs s c p t)
    (hr : aluRsvOk f = false) : Gives s c p t i (ruledOut s t c.key p) :=
  gives_ruledOut he h (by simp [hr])

/-- A nonzero reserved field of a compare, or a D that names no predicate (R62, R63). -/
theorem cmpOp_ruledOut {f : AluForm} {r : Word → Word → Bool} (he : exec i s = cmpOp s c g i f r) (h : Runs s c p t)
    (hr : aluRsvOk f = false ∨ 8 ≤ (aluD f).toNat) : Gives s c p t i (ruledOut s t c.key p) := by
  refine gives_ruledOut he h ?_
  rcases hr with hr | hd
  · simp [hr]
  · simp [(isPred_eq_false_iff _).2 hd]

/-- A predicate operation with a nonzero reserved field, a field that names no predicate, or a B that must be 0 (R62, R63). -/
theorem predOp_ruledOut {d a b : BitVec 5} {v : BitVec 35} {z : Bool} {r : Bool → Bool → Bool}
    (he : exec i s = predOp s c g i (.reg d a b v) z r) (h : Runs s c p t)
    (hr : v ≠ 0 ∨ 8 ≤ d.toNat ∨ 8 ≤ a.toNat ∨ 8 ≤ b.toNat ∨ z = true ∧ b ≠ 0) : Gives s c p t i (ruledOut s t c.key p) := by
  refine gives_ruledOut he h ?_
  simpa only [Bool.or_eq_true, Bool.and_eq_true, bne_iff_ne, Bool.not_eq_true', isPred_eq_false_iff, or_assoc] using hr

end

/-- R65: the results of the scalar operations. -/
theorem scalarResults : Claims.ScalarResults := by
  intro s c g p t h ha
  refine ⟨fun x hx d a => ⟨fun b => ?_, fun i => ?_⟩, fun d a i => ⟨?_, ?_⟩⟩
  · exact aluOp_gives (exec_scalarOps s c g _ x hx) h ha rfl
  · exact aluOp_gives (exec_scalarOps s c g _ x hx) h ha rfl
  · exact immOp_gives (exec_li s c g _) h ha
  · exact immOp_gives (exec_lih s c g _) h ha

/-- R65: the results of the compares and predicate operations. -/
theorem scalarPredicates : Claims.ScalarPredicates := by
  intro s c g p t h ha
  refine ⟨fun x hx d a => ⟨fun b => ?_, fun i => ?_⟩, fun d a b => ⟨?_, ?_, ?_⟩⟩
  · simpa only [aluD, aluA, aluB, predField_setWidth] using
      cmpOp_gives (exec_compareOps s c g (.reg (d.setWidth 5) a b 0) x hx) h ha rfl (isPred_setWidth d)
  · simpa only [aluD, aluA, aluB, predField_setWidth] using
      cmpOp_gives (exec_compareOps s c g (.imm (d.setWidth 5) a i) x hx) h ha rfl (isPred_setWidth d)
  · simpa only [predField_setWidth] using predOp_gives (exec_pand s c g _) h ha (isPred_setWidth d) (isPred_setWidth a)
      (isPred_setWidth b) nofun
  · simpa only [predField_setWidth] using predOp_gives (exec_por s c g _) h ha (isPred_setWidth d) (isPred_setWidth a)
      (isPred_setWidth b) nofun
  · simpa only [predField_setWidth] using predOp_gives (exec_pnot s c g _) h ha (isPred_setWidth d) (isPred_setWidth a) rfl
      fun _ => rfl

/-- R65: the forms that the scalar operations do not have. -/
theorem scalarBreaches : Claims.ScalarBreaches := by
  intro s c g p t h
  refine ⟨fun x hx d a hd => ⟨fun b => ?_, fun i => ?_⟩, fun d a b hr => ⟨?_, ?_, ?_⟩, fun d a b hb => ?_,
    fun d a i => ⟨?_, ?_, ?_⟩, fun d a b r => ⟨?_, ?_⟩⟩
  · exact cmpOp_ruledOut (exec_compareOps s c g _ x hx) h (.inr hd)
  · exact cmpOp_ruledOut (exec_compareOps s c g _ x hx) h (.inr hd)
  · exact predOp_ruledOut (exec_pand s c g _) h (by tauto)
  · exact predOp_ruledOut (exec_por s c g _) h (by tauto)
  · exact predOp_ruledOut (exec_pnot s c g _) h (by tauto)
  · exact predOp_ruledOut (exec_pnot s c g _) h (by tauto)
  · exact gives_ruledOut (exec_pand s c g _) h rfl
  · exact gives_ruledOut (exec_por s c g _) h rfl
  · exact gives_ruledOut (exec_pnot s c g _) h rfl
  · exact gives_ruledOut (exec_li s c g _) h rfl
  · exact gives_ruledOut (exec_lih s c g _) h rfl

/-- Settles O1: each operation is an issue whose effect is the row of R65's table. -/
theorem scalarOperations : Obligations.ScalarOperations :=
  ⟨scalarResults, scalarPredicates, scalarBreaches⟩

end Sys2Proof.Machine

/-! ### Control flow (R66, R67, R87) -/

namespace Sys2Proof.Machine

open Sys2Proof

theorem Prog.leavesLoop_eq_true (p : Prog) (x : BitVec 56) :
    p.leavesLoop x = true ↔ ∃ l ∈ p.loops, x.toNat < l.first.toNat ∨ l.last.toNat < x.toNat := by
  simp [Prog.leavesLoop]

theorem Prog.leavesLoop_eq_false (p : Prog) (x : BitVec 56) :
    p.leavesLoop x = false ↔ ∀ l ∈ p.loops, l.first.toNat ≤ x.toNat ∧ x.toNat ≤ l.last.toNat := by
  simp [Prog.leavesLoop]

section

variable {s t : State} {c : CoreRef} {p : Prog} {g : Pred} {i : Instr}

/-- A relative branch that stays in the active bodies goes to its target. -/
theorem relOp_gives {off : BitVec 32} {upd : Prog → Prog} (he : exec i s = relOp s c g i off upd) (h : Runs s c p t)
    (ha : p.allows g = true) (hin : p.leavesLoop (p.target off) = false) :
    Gives s c p t i (.next (coreAfter s t c.key ((upd p).jump (p.target off)))) :=
  gives_prog he h ha hin rfl rfl

theorem relOp_ruledOut {off : BitVec 32} {upd : Prog → Prog} (he : exec i s = relOp s c g i off upd) (h : Runs s c p t)
    (hout : p.leavesLoop (p.target off) = true) : Gives s c p t i (ruledOut s t c.key p) :=
  gives_ruledOut he h hout

variable {a : BitVec 5}

/-- A branch to an aligned address in a register that stays in the active bodies goes there. -/
theorem regBranch_gives (he : exec i s = regBranch s c g i a) (h : Runs s c p t) (ha : p.allows g = true)
    (hin : p.leavesLoop ((p.sreg a).extractLsb' 0 56) = false) (h8 : (p.sreg a).toNat % 8 = 0) :
    Gives s c p t i (.next (coreAfter s t c.key (p.goesOn ((p.sreg a).extractLsb' 0 56) p.loops))) :=
  gives_prog he h ha hin (if_neg (not_not.2 h8)) rfl

theorem regBranch_misaligned (he : exec i s = regBranch s c g i a) (h : Runs s c p t) (ha : p.allows g = true)
    (hin : p.leavesLoop ((p.sreg a).extractLsb' 0 56) = false) (h8 : (p.sreg a).toNat % 8 ≠ 0) :
    Gives s c p t i (faulted s t c.key p .misaligned) :=
  gives_faulted he h ha hin (if_pos h8)

theorem regBranch_ruledOut (he : exec i s = regBranch s c g i a) (h : Runs s c p t)
    (hout : p.leavesLoop ((p.sreg a).extractLsb' 0 56) = true) : Gives s c p t i (ruledOut s t c.key p) :=
  gives_ruledOut he h hout

end

/-- LOOP with a count of 0 goes on after the body, else into it with the body active (R66). -/
theorem startLoop_eq (a : BitVec 5) (off : BitVec 32) (p : Prog) : startLoop a off p =
    if p.sreg a = 0 then p.goesOn (stepLoops (p.target off) p.loops).1 (stepLoops (p.target off) p.loops).2
    else p.goesOn (p.pc + 8) ({ first := p.pc + 8, last := p.target off, count := p.sreg a } :: p.loops) := rfl

theorem startLoop_waiting (a : BitVec 5) (off : BitVec 32) (p : Prog) : (startLoop a off p).waiting = none := by
  rw [startLoop_eq]
  split <;> rfl

/-- LOOP is illegal with a body below one instruction or while 4 loops are active (R66). -/
theorem loopIllegal_eq_true (off : BitVec 32) (n : Nat) : (off.slt 1 || decide (n ≥ 4)) = true ↔ off.toInt < 1 ∨ 4 ≤ n := by
  simp [BitVec.slt]

/-- R66, R67, R87: where control flow goes on. -/
theorem controlFlow : Claims.ControlFlow := by
  intro s c g p t f h ha
  refine ⟨?nop, fun hin => ?rel, fun h8 hin => ?reg, fun hoff hn => ?loop, fun hlive => ?yield, fun hidle => ?halt⟩
  case nop => exact gives_plain (exec_nop s c g f) h ha rfl
  case rel =>
    have hin := (p.leavesLoop_eq_false _).2 hin
    refine ⟨relOp_gives (exec_br s c g f) h ha hin, ?_⟩
    have hcall := relOp_gives (exec_call s c g f) h ha hin
    rwa [Prog.setS_eq] at hcall
  case reg =>
    have hin := (p.leavesLoop_eq_false _).2 hin
    exact ⟨regBranch_gives (exec_brr s c g f) h ha hin h8, regBranch_gives (exec_ret s c g f) h ha hin h8⟩
  case loop =>
    have hl := Bool.eq_false_iff.2 ((loopIllegal_eq_true f.off p.loops.length).not.2 (by omega))
    have hloop := gives_prog (exec_loop s c g f) h ha hl rfl (startLoop_waiting f.a f.off p)
    rwa [startLoop_eq] at hloop
  case yield => exact gives_prog (exec_yield s c g f) h ha (by simpa using hlive) rfl rfl
  case halt => exact gives_effect (exec_halt s c g f) h ha rfl (if_pos hidle)

/-- R66: the loop stack after an instruction that does not branch. -/
theorem loopStack : Claims.LoopStack := by
  intro pc l rest
  refine ⟨rfl, fun hne => if_neg hne, fun heq hcount => ?_, fun heq hcount => ?_⟩
  · rw [stepLoops, if_pos heq, if_pos hcount]
  · rw [stepLoops, if_pos heq, if_neg hcount.not_gt]

/-- R66: the breaches. -/
theorem controlBreaches : Claims.ControlBreaches := by
  intro s c g p t f h
  refine ⟨fun hbad => ?loop, fun hlive => ?yield, fun hout => ?rel, fun hout => ?reg, fun hin ha h8 => ?misaligned⟩
  case loop => exact gives_ruledOut (exec_loop s c g f) h ((loopIllegal_eq_true f.off p.loops.length).2 hbad)
  case yield => exact gives_ruledOut (exec_yield s c g f) h (by simpa using hlive)
  case rel =>
    have hout := (p.leavesLoop_eq_true _).2 hout
    exact ⟨relOp_ruledOut (exec_br s c g f) h hout, relOp_ruledOut (exec_call s c g f) h hout⟩
  case reg =>
    have hout := (p.leavesLoop_eq_true _).2 hout
    exact ⟨regBranch_ruledOut (exec_brr s c g f) h hout, regBranch_ruledOut (exec_ret s c g f) h hout⟩
  case misaligned =>
    have hin := Bool.eq_false_iff.2 ((p.leavesLoop_eq_true _).not.2 hin)
    exact ⟨regBranch_misaligned (exec_brr s c g f) h ha hin h8, regBranch_misaligned (exec_ret s c g f) h ha hin h8⟩

/-- Settles O2: each control instruction is an issue whose judge and effect are those of R66. -/
theorem controlAndLoops : Obligations.ControlAndLoops := ⟨controlFlow, loopStack, controlBreaches⟩

end Sys2Proof.Machine

/-! ### Masked instructions (R64) -/

namespace Sys2Proof.Machine

open Sys2Proof

/-- The instruction is an issue whose legality does not depend on its predicate field. -/
def IssuedAlike (s : State) (c : CoreRef) (x : Pred → Instr) : Prop :=
  ∃ (illegal : State → Prog → Bool) (eff : Pred → State → Nat → Prog → State),
    ∀ g, exec (x g) s = issue s c g (x g) illegal (eff g)

/-- Such an instruction is masked by its predicate. -/
theorem IssuedAlike.masked {s t : State} {c : CoreRef} {p : Prog} {x : Pred → Instr} (hx : IssuedAlike s c x)
    (h : Runs s c p t) : Claims.MaskedForm s t c p x := by
  obtain ⟨illegal, eff, he⟩ := hx
  refine ⟨illegal t p, fun g => ⟨fun hb => gives_ruledOut (he g) h hb, fun hb ha hc => ?_⟩⟩
  exact (he g).trans (issue_skips h hc hb ha)

section

variable (s : State) (c : CoreRef)

/-- The predicate operations and LI, LIH are judged by their form, which names the class (R65). -/
theorem issuedAlike_byForm (f : AluForm) : ∀ x ∈ [Instr.pand, .por, .pnot, .li, .lih], IssuedAlike s c (fun g => x c g f) := by
  intro x hx
  cases f <;> fin_cases hx <;> exact ⟨_, _, fun _ => rfl⟩

theorem issuedAlike_alu (f : AluForm) :
    ∀ x ∈ scalarOps.map (·.1) ++ compareOps.map (·.1) ++ [Instr.pand, .por, .pnot, .li, .lih],
      IssuedAlike s c (fun g => x c g f) := by
  intro x hx
  simp only [List.mem_append, List.mem_map] at hx
  obtain (⟨x, hx, rfl⟩ | ⟨x, hx, rfl⟩) | hx := hx
  · exact ⟨_, _, fun g => exec_scalarOps s c g f x hx⟩
  · exact ⟨_, _, fun g => exec_compareOps s c g f x hx⟩
  · exact issuedAlike_byForm s c f x hx

end

/-- R64: in every class an instruction is one issue, and what judges it is not given its predicate field. -/
theorem maskedForms : Claims.MaskedForms := by
  intro s c p t h
  refine ⟨fun f x hx => (issuedAlike_alu s c f x hx).masked h, ?ctrl, ?smem, ?valu, ?vmem, ?vcvt, ?mat, ?strm, ?xfer, ?sync, ?sys⟩
  all_goals
    intro f x hx
    refine IssuedAlike.masked ?_ h
    fin_cases hx <;> exact ⟨_, _, fun _ => rfl⟩

/-- R62 to R64: reserved bits and predicate numbers of the scalar forms. -/
theorem scalarIllegal : Claims.ScalarIllegal := by
  intro s c g p t h
  refine ⟨fun x hx d a b r hr => ?_, fun x hx d a b r hr => ?_, fun d a b r hr => ⟨?_, ?_, ?_⟩⟩
  · exact aluOp_ruledOut (exec_scalarOps s c g _ x hx) h (aluRsvOk_reg.2 hr)
  · exact cmpOp_ruledOut (exec_compareOps s c g _ x hx) h (hr.imp_left aluRsvOk_reg.2)
  · exact predOp_ruledOut (exec_pand s c g _) h (by tauto)
  · exact predOp_ruledOut (exec_por s c g _) h (by tauto)
  · exact predOp_ruledOut (exec_pnot s c g _) h (by tauto)

/-- Settles O3: whether a form is illegal is judged without its predicate field. -/
theorem predicateOff : Obligations.PredicateOff := ⟨maskedForms, scalarIllegal⟩

end Sys2Proof.Machine

/-! ### Scalar memory (R68, R81) -/

namespace Sys2Proof.Machine

open Sys2Proof

/-! #### What a store changes -/

/-- From `s` to `u` nothing has changed but bytes of memory and poison marks. -/
def OnlyMemory (s u : State) : Prop := u = { s with mem := u.mem, tiers := { s.tiers with poison := u.tiers.poison } }

theorem OnlyMemory.refl (s : State) : OnlyMemory s s := rfl

theorem OnlyMemory.trans {s u v : State} (h : OnlyMemory s u) (h' : OnlyMemory u v) : OnlyMemory s v := by
  unfold OnlyMemory at *
  conv_lhs => rw [h', h]

theorem OnlyMemory.writeBytes (l : List Byte) (s : State) (k : Nat) : OnlyMemory s (writeBytes s k l) := by
  induction l generalizing s k with
  | nil => exact .refl s
  | cons b l ih => exact .trans (u := writeB s k b) rfl (ih _ _)

theorem OnlyMemory.foldl {f : State → Nat → State} (hf : ∀ s g, OnlyMemory s (f s g)) (l : List Nat) (s : State) :
    OnlyMemory s (l.foldl f s) := by
  induction l generalizing s with
  | nil => exact .refl s
  | cons g l ih => exact (hf s g).trans (ih _)

theorem OnlyMemory.markWrite (s : State) (k n : Nat) (b : Bool) : OnlyMemory s (markWrite s k n b) := by
  refine .foldl (fun s g => ?_) _ s
  split
  · rfl
  · split <;> rfl

theorem OnlyMemory.store (s : State) (k : Nat) (l : List Byte) (b : Bool) : OnlyMemory s (store s k l b) :=
  (writeBytes l s k).trans (markWrite _ k l.length b)

/-- Byte `i` of the low bytes of a word. -/
theorem leBytes_get_word (v : Word) {n i : Nat} (h : i < n) :
    (leBytes n v.toNat)[i]'(by simpa using h) = v.extractLsb' (8 * i) 8 := by
  rw [leBytes_get n v.toNat i h]
  apply BitVec.eq_of_toNat_eq
  rw [BitVec.extractLsb'_toNat, BitVec.toNat_ofNat, Nat.shiftRight_eq_div_pow, Nat.pow_mul]

/-! #### Sign extension -/

theorem decodeInt_eq_toInt {w : Nat} (hw : 0 < w) (x : Nat) : decodeInt w x = (BitVec.ofNat w x).toInt := by
  have h2 : 2 ^ w = 2 * 2 ^ (w - 1) := by rw [← pow_succ', Nat.sub_add_cancel hw]
  simp only [decodeInt, BitVec.toInt_eq_toNat_cond, BitVec.toNat_ofNat]
  exact if_congr (by omega) rfl rfl

theorem sext_eq_signExtend {w : Nat} (hw : 0 < w) (x : Nat) : sext w x = (BitVec.ofNat w x).signExtend 64 := by
  rw [sext, decodeInt_eq_toInt hw, BitVec.signExtend]

/-! #### The accesses -/

section

variable {f : SmemFields} {n : Nat} {act : State → Nat → Prog → Nat → State} {s : State} {k : Nat} {p : Prog}

theorem smemEff_misaligned (h : (smemAddr f p).toNat % n ≠ 0) : smemEff f n act s k p = coreFault s k p .misaligned :=
  if_pos h

theorem smemEff_beyond (h : (smemAddr f p).toNat % n = 0) (hn : 0x80000 < (smemAddr f p).toNat + n) :
    smemEff f n act s k p = coreFault s k p .spadRange := by
  have hfit : (!spadFits (smemAddr f p) n) = true := by simpa [spadFits] using hn
  rw [smemEff, if_neg (not_not.2 h), if_pos hfit]

/-- An aligned access in the scratchpad acts after the vector work before it (R81). -/
theorem smemEff_within (h : (smemAddr f p).toNat % n = 0) (hn : (smemAddr f p).toNat + n ≤ 0x80000) {q : Prog} {b : Nat}
    (hq : (drainVec s k).prog k = some q) (hb : (drainVec s k).spadBase k = some b) :
    smemEff f n act s k p = act (drainVec s k) k q (b + (smemAddr f p).toNat) := by
  have hfit : ¬ (!spadFits (smemAddr f p) n) = true := by simpa [spadFits] using hn
  rw [smemEff, if_neg (not_not.2 h), if_neg hfit]
  simp only [spadAt, hq, hb, Option.map_some]

end

section

variable {s t : State} {c : CoreRef} {p : Prog} {g : Pred} {i : Instr} {f : SmemFields} {n : Nat}
  {act : State → Nat → Prog → Nat → State} (he : exec i s = issue s c g i (fun _ _ => f.rsv != 0) (smemEff f n act))
  (h : Runs s c p t) (ha : p.allows g = true) (hr : f.rsv = 0)

include he h ha hr

theorem smem_gives_misaligned (h8 : (smemAddr f p).toNat % n ≠ 0) : Gives s c p t i (faulted s t c.key p .misaligned) :=
  gives_faulted he h ha (by simp [hr]) (smemEff_misaligned h8)

theorem smem_gives_spadRange (h8 : (smemAddr f p).toNat % n = 0) (hn : 0x80000 < (smemAddr f p).toNat + n) :
    Gives s c p t i (faulted s t c.key p .spadRange) :=
  gives_faulted he h ha (by simp [hr]) (smemEff_beyond h8 hn)

end

/-- Each load is issued with its width and what it makes of the bytes (R68). -/
theorem exec_loadOps (s : State) (c : CoreRef) (g : Pred) (f : SmemFields) :
    ∀ x ∈ loadOps, exec (x.1 c g f) s = loadOp s c g (x.1 c g f) f x.2.1 x.2.2 := by
  have hx : ∀ w : Nat, 0 < w → sext w = fun x => (BitVec.ofNat w x).signExtend 64 := fun w hw => funext (sext_eq_signExtend hw)
  simp only [loadOps, List.forall_mem_cons, List.not_mem_nil, IsEmpty.forall_iff, implies_true, and_true, ← hx 8 (by decide),
    ← hx 16 (by decide), ← hx 32 (by decide)]
  exact ⟨exec_ld8u .., exec_ld16u .., exec_ld32u .., exec_ld64 .., exec_ld8s .., exec_ld16s .., exec_ld32s ..⟩

/-- Each store is issued with its width (R68). -/
theorem exec_storeOps (s : State) (c : CoreRef) (g : Pred) (f : SmemFields) :
    ∀ x ∈ storeOps, exec (x.1 c g f) s = storeOp s c g (x.1 c g f) f x.2 := by
  simp only [storeOps, List.forall_mem_cons, List.not_mem_nil, IsEmpty.forall_iff, implies_true, and_true]
  exact ⟨exec_st8 .., exec_st16 .., exec_st32 .., exec_st64 ..⟩

/-- R68, R81: what a load gives on each of its paths. -/
theorem scalarLoads : Claims.ScalarLoads := by
  intro s c g p t f h ha hr x hx
  have he := exec_loadOps s c g f x hx
  refine ⟨smem_gives_misaligned he h ha hr, smem_gives_spadRange he h ha hr,
    fun h8 hn q b hq hb => ⟨fun hpois => ?_, fun hclean => ?_⟩⟩
  · exact gives_faulted he h ha (by simp [hr]) ((smemEff_within h8 hn hq hb).trans (if_pos hpois))
  · rw [← Prog.advance_setS]
    exact gives_prog he h ha (by simp [hr]) ((smemEff_within h8 hn hq hb).trans (if_neg (Bool.eq_false_iff.1 hclean))) rfl

/-- R68, R81: what a store gives on each of its paths. -/
theorem scalarStores : Claims.ScalarStores := by
  intro s c g p t f h ha hr x hx
  have he := exec_storeOps s c g f x hx
  refine ⟨smem_gives_misaligned he h ha hr, smem_gives_spadRange he h ha hr, fun h8 hn v q b hv hq hb hc => ?_⟩
  subst hv
  refine ⟨_, gives_prog he h ha (by simp [hr]) (smemEff_within h8 hn hq hb) rfl hc, fun i hi => ?_, fun j hj => ?_, ?_⟩
  · exact (readB_store_in _ _ _ _ false (by rwa [leBytes_length])).trans (leBytes_get_word _ hi)
  · exact readB_store_out _ _ false (by rwa [leBytes_length])
  · exact congrArg (coreAfter s · c.key q.wentOn) (OnlyMemory.store _ _ _ false)

/-- Settles O5: an access is judged, then completes the vector work before it, then reads or writes. -/
theorem scalarMemory : Obligations.ScalarMemory := ⟨scalarLoads, scalarStores⟩

end Sys2Proof.Machine

/-! ## Host queues and commands (R302 to R305, R314, R320) -/

/-! ### The registers of a queue block (R302, R303, R305, R314) -/

namespace Sys2Proof.Machine

open Sys2Proof

theorem unitCmd_unchanged {s : State} {f : State → State} (h : f s = s) : unitCmd s f = .next s := by
  rw [unitCmd_eq, h]

theorem unitCmd_setQueue {s : State} {f : State → State} {q : Nat} {y : Queue} (h : f s = s.setQueue q y) :
    unitCmd s f = .next (s.setQueue q y) := by
  rw [unitCmd_of] <;> simp [h]

section

variable {s : State} {fn : HostFn} {q : Nat}

theorem fromOwner_eq_true :
    fromOwner s fn q = true ↔ q < 8192 ∧ (s.queue q).fn = some fn ∧ (s.queue q).st ≠ .idle := by
  simp [fromOwner, and_assoc]

theorem fromOwner_eq_false :
    fromOwner s fn q = false ↔ 8192 ≤ q ∨ (s.queue q).fn ≠ some fn ∨ (s.queue q).st = .idle := by
  rw [← Bool.not_eq_true, fromOwner_eq_true]
  simp only [not_and_or, not_lt, not_not, ne_eq]

/-! #### A function that did not enable the queue (R305) -/

theorem overrunClearState_stranger (h : fromOwner s fn q = false) : overrunClearState fn q s = s := by
  simp [overrunClearState, h]

theorem cqHeadState_stranger (h : fromOwner s fn q = false) (v : BitVec 32) : cqHeadState fn q v s = s := by
  simp [cqHeadState, h]

theorem fenceSignalState_stranger (h : fromOwner s fn q = false) (v : Word) : fenceSignalState fn q v s = s := by
  simp [fenceSignalState, h]

theorem disableState_stranger (h : fromOwner s fn q = false) : disableState fn q s = s := by
  simp [disableState, h]

/-! #### The function that enabled it (R303, R314) -/

theorem overrunClearState_owner (h : fromOwner s fn q = true) :
    overrunClearState fn q s = s.setQueue q { s.queue q with overrun := false } :=
  if_pos h

theorem cqHeadState_owner (h : fromOwner s fn q = true) (v : BitVec 32) :
    cqHeadState fn q v s = s.setQueue q { s.queue q with cqHead := v } :=
  if_pos h

theorem fenceSignalState_owner (h : fromOwner s fn q = true) (v : Word) :
    fenceSignalState fn q v s = s.setQueue q (signalAbs (s.queue q) v) :=
  if_pos h

/-! #### DOORBELL (R303) -/

theorem tailOk_eq_true {x : Queue} {t : BitVec 32} :
    tailOk x t = true ↔ (t - x.head).toNat ≤ 2 ^ x.log2 ∧ (t - x.tail).toNat < 2 ^ 31 := by
  simp [tailOk]

theorem tailOk_eq_false {x : Queue} {t : BitVec 32} :
    tailOk x t = false ↔ 2 ^ x.log2 < (t - x.head).toNat ∨ 2 ^ 31 ≤ (t - x.tail).toNat := by
  rw [← Bool.not_eq_true, tailOk_eq_true, not_and_or, not_le, not_lt]

/-- A doorbell counts only from the owner of an ACTIVE queue that is not in overrun. -/
theorem doorbellState_ignored (t : BitVec 32)
    (h : fromOwner s fn q = false ∨ (s.queue q).st ≠ .active ∨ (s.queue q).overrun = true) : doorbellState fn q t s = s := by
  refine if_pos ?_
  simpa [or_assoc] using h

section

variable {t : BitVec 32} (ho : fromOwner s fn q = true) (ha : (s.queue q).st = .active) (hv : (s.queue q).overrun = false)

include ho ha hv

theorem doorbellState_judged : doorbellState fn q t s =
    if tailOk (s.queue q) t then
      s.setQueue q { s.queue q with tail := t, stamps := if t = (s.queue q).tail then (s.queue q).stamps
        else (s.queue q).stamps ++ [(t, (s.ctx (s.queue q).ctx).mseq)] }
    else s.setQueue q { s.queue q with overrun := true } :=
  if_neg (by simp [ho, ha, hv])

/-- A tail that is ahead of the last one is stamped with MSEQ (R191). -/
theorem doorbellState_ahead (hne : t ≠ (s.queue q).tail) (hok : tailOk (s.queue q) t = true) :
    doorbellState fn q t s = s.setQueue q
      { s.queue q with tail := t, stamps := (s.queue q).stamps ++ [(t, (s.ctx (s.queue q).ctx).mseq)] } := by
  rw [doorbellState_judged ho ha hv, if_pos hok, if_neg hne]

theorem doorbellState_same (heq : t = (s.queue q).tail) (hok : tailOk (s.queue q) t = true) :
    doorbellState fn q t s = s.setQueue q (s.queue q) := by
  subst heq
  rw [doorbellState_judged ho ha hv, if_pos hok, if_pos rfl]

theorem doorbellState_overrun (hbad : tailOk (s.queue q) t = false) :
    doorbellState fn q t s = s.setQueue q { s.queue q with overrun := true } := by
  rw [doorbellState_judged ho ha hv, hbad]
  rfl

end

/-! #### COMMAND_FETCH (R304) -/

/-- A fetch takes the command at HEAD and leaves the tail and OVERRUN as they are. -/
theorem commandFetchState_takes (hq : q < 8192) (ha : (s.queue q).st = .active) (hne : (s.queue q).head ≠ (s.queue q).tail)
    (hup : hostUp s (queuePort s q) = true)
    (hbus : busOk ((s.queue q).sqBase + 64 * ((s.queue q).head.toNat % 2 ^ (s.queue q).log2)) 64 = true)
    (hroom : ((s.queue q).head - (s.queue q).cqHead).toNat < 2 ^ (s.queue q).log2) :
    ∃ y, commandFetchState q s = s.setQueue q y ∧ y.head = (s.queue q).head + 1 ∧ y.tail = (s.queue q).tail ∧
      y.overrun = (s.queue q).overrun ∧ y.cmds.length = (s.queue q).cmds.length + 1 := by
  refine ⟨_, if_pos ?_, rfl, rfl, rfl, List.length_append⟩
  simp [hq, ha, hne, hup, hbus, hroom, -BitVec.toNat_sub]

/-! #### ENABLE (R302) -/

theorem enableState_unsailed (h : s.queueSail q = none) : enableState fn q s = s := by
  simp [enableState, h]

section

variable {sl : Nat} (hs : s.queueSail q = some sl)

include hs

/-- ENABLE does nothing for a function that does not reach the queue's sail, or whose queue another one has enabled. -/
theorem enableState_stranger (h : s.reaches fn sl = false ∨ ((s.queue q).st ≠ .idle ∧ (s.queue q).fn ≠ some fn)) :
    enableState fn q s = s := by
  simp only [enableState, hs]
  refine if_pos ?_
  simpa using h

variable (hr : s.reaches fn sl = true) (hf : (s.queue q).st = .idle ∨ (s.queue q).fn = some fn)

include hr hf

/-- ENABLE is judged: an error is noted, and without one the queue starts. -/
theorem enableState_judged : enableState fn q s =
    if enableError s fn q sl = 0 then s.setQueue q ((s.queue q).enabled fn)
    else s.setQueue q { s.queue q with error := enableError s fn q sl } := by
  have hturn : ¬ (!s.reaches fn sl || ((s.queue q).st != .idle && (s.queue q).fn != some fn)) = true := by
    simpa [hr, imp_iff_not_or] using hf
  simp only [enableState, hs, if_neg hturn]

theorem enableState_fails {e : BitVec 3} (he : enableError s fn q sl = e) (h0 : e ≠ 0) :
    enableState fn q s = s.setQueue q { s.queue q with error := e } := by
  rw [enableState_judged hs hr hf, he, if_neg h0]

theorem enableState_starts (he : enableError s fn q sl = 0) : enableState fn q s = s.setQueue q ((s.queue q).enabled fn) := by
  rw [enableState_judged hs hr hf, if_pos he]

end

section

variable {sl : Nat}

theorem enableError_busy (h : (s.queue q).st ≠ .idle) : enableError s fn q sl = 3 :=
  if_pos (by simpa using h)

theorem enableError_context (hi : (s.queue q).st = .idle)
    (h : s.ctxSail (s.queue q).ctx ≠ some sl ∨ (s.ctx (s.queue q).ctx).st ≠ .active) : enableError s fn q sl = 1 := by
  have hbad : (s.ctxSail (s.queue q).ctx != some sl || !s.reaches fn sl || (s.ctx (s.queue q).ctx).st != .active) = true := by
    rcases h with h | h <;> simp [h]
  simp [enableError, hi, hbad]

variable (hi : (s.queue q).st = .idle) (hr : s.reaches fn sl = true) (hc : s.ctxSail (s.queue q).ctx = some sl)
  (ha : (s.ctx (s.queue q).ctx).st = .active)

include hi hr hc ha

/-- The ring of an idle queue, with a context of the sail that is ACTIVE, is judged by its size and then by its place. -/
theorem enableError_ring : enableError s fn q sl =
    if (s.queue q).log2 < 4 ∨ 16 < (s.queue q).log2 then 4
    else if 2 ^ 46 < (s.queue q).sqBase + 64 * 2 ^ (s.queue q).log2 ∨ 2 ^ 46 < (s.queue q).cqBase + 32 * 2 ^ (s.queue q).log2
    then 2 else 0 := by
  simp [enableError, hi, hr, hc, ha]

end

end

/-- Settles O42: each register write is taken from the queue's function only, a doorbell is judged by R303, ENABLE by R302. -/
theorem queueRegisters : Obligations.QueueRegisters := by
  intro s fn q
  refine ⟨fun h => ?stranger, fun hq hfn hst => ?owner, fun h => ?unsailed, fun sl hs h => ?refused, fun sl hs hr => ?judged⟩
  case stranger =>
    have ho := fromOwner_eq_false.2 h
    exact ⟨fun t => unitCmd_unchanged (doorbellState_ignored t (.inl ho)), unitCmd_unchanged (overrunClearState_stranger ho),
      fun v => unitCmd_unchanged (cqHeadState_stranger ho v), fun v => unitCmd_unchanged (fenceSignalState_stranger ho v),
      unitCmd_unchanged (disableState_stranger ho)⟩
  case owner =>
    have ho := fromOwner_eq_true.2 ⟨hq, hfn, hst⟩
    refine ⟨fun t h => unitCmd_unchanged (doorbellState_ignored t (.inr h)), fun t ha hv => ⟨fun hne hh ht => ?ahead, fun heq hh => ?same,
      fun hbad => ?overrun⟩, fun ha hv hne hup hbus hroom => ?fetch, unitCmd_setQueue (overrunClearState_owner ho),
      fun v => unitCmd_setQueue (cqHeadState_owner ho v), fun v => unitCmd_setQueue (fenceSignalState_owner ho v)⟩
    case ahead => exact unitCmd_setQueue (doorbellState_ahead ho ha hv hne (tailOk_eq_true.2 ⟨hh, ht⟩))
    case same => exact unitCmd_setQueue (doorbellState_same ho ha hv heq (tailOk_eq_true.2 ⟨hh, by simp [heq]⟩))
    case overrun => exact unitCmd_setQueue (doorbellState_overrun ho ha hv (tailOk_eq_false.2 hbad))
    case fetch =>
      obtain ⟨y, hy, hhead, htail, hover, hcmds⟩ := commandFetchState_takes hq ha hne hup hbus hroom
      exact ⟨y, unitCmd_setQueue hy, hhead, htail, hover.trans hv, hcmds⟩
  case unsailed => exact unitCmd_unchanged (enableState_unsailed h)
  case refused => exact unitCmd_unchanged (enableState_stranger hs h)
  case judged =>
    refine ⟨fun hst hfn => ?busy, fun hi hbad => ?context, fun hi hc ha => ⟨fun hlog => ?size, fun h4 h16 hfar => ?place, fun h4 h16 hsq hcq => ?starts⟩⟩
    case busy => exact unitCmd_setQueue (enableState_fails hs hr (.inr hfn) (enableError_busy hst) (by decide))
    case context => exact unitCmd_setQueue (enableState_fails hs hr (.inl hi) (enableError_context hi hbad) (by decide))
    case size =>
      have he := (enableError_ring hi hr hc ha).trans (if_pos hlog)
      exact unitCmd_setQueue (enableState_fails hs hr (.inl hi) he (by decide))
    case place =>
      have he := (enableError_ring hi hr hc ha).trans ((if_neg (by omega)).trans (if_pos hfar))
      exact unitCmd_setQueue (enableState_fails hs hr (.inl hi) he (by decide))
    case starts =>
      have he := (enableError_ring hi hr hc ha).trans ((if_neg (by omega)).trans (if_neg (by omega)))
      exact ⟨_, unitCmd_setQueue (enableState_starts hs hr (.inl hi) he), rfl, rfl, rfl, rfl, rfl, rfl, rfl, rfl, rfl, rfl, rfl, rfl, rfl, rfl⟩

end Sys2Proof.Machine

/-! ### The reshuffle modes (R320) -/

namespace Sys2Proof.Machine

open Sys2Proof

/-! #### Bits of a span of data -/

/-- Bit `x` of a span of data, from the least significant bit of its first byte upward. -/
def bitOf (m : List Marked) (x : Nat) : Bool := (m.getD (x / 8) (0, 0)).1.getLsbD (x % 8)

/-- The byte that `dmaByte` packs from eight bits, the least significant first. -/
def packByte (f : Nat → Bool) : Byte :=
  BitVec.ofNat 8 (((List.range 8).map f).foldr (fun y a => 2 * a + (if y then 1 else 0)) 0)

theorem testBit_foldr_bits (l : List Bool) (t : Nat) :
    (l.foldr (fun (y : Bool) a => 2 * a + (if y then 1 else 0)) 0).testBit t = l.getD t false := by
  induction l generalizing t with
  | nil => simp
  | cons y l ih =>
    cases t with
    | zero => cases y <;> simp [Nat.testBit_zero]
    | succ t =>
      rw [List.foldr_cons, Nat.testBit_succ, List.getD_cons_succ, ← ih t]
      congr 1
      split <;> omega

theorem getLsbD_packByte (f : Nat → Bool) {t : Nat} (h : t < 8) : (packByte f).getLsbD t = f t := by
  rw [packByte, BitVec.getLsbD_ofNat, testBit_foldr_bits]
  simp [h]

/-! #### A side of planes -/

/-- Each plane of a descriptor's plane side holds `n` bytes. -/
structure PlaneBytes (d : DmaForm) (n : Nat) : Prop where
  planes_pos : 0 < d.planes
  len_eq : d.len = d.planes * n

section

variable {d : DmaForm} {n : Nat} (hp : PlaneBytes d n) (src : List Marked)

include hp

theorem PlaneBytes.div : d.len / d.planes = n := by
  rw [hp.len_eq, Nat.mul_div_cancel_left n hp.planes_pos]

theorem PlaneBytes.div_max : d.len / max 1 d.planes = n := by
  rw [Nat.max_eq_right hp.planes_pos, hp.div]

/-- Byte `b` of plane `f` lies in the data. -/
theorem PlaneBytes.lt_len {f b : Nat} (hf : f < d.planes) (hb : b < n) : n * f + b < d.len :=
  calc n * f + b < n * (f + 1) := by rw [Nat.mul_succ]; omega
    _ ≤ n * d.planes := Nat.mul_le_mul_left n hf
    _ = d.len := by rw [hp.len_eq, Nat.mul_comm]

/-! #### What each mode puts into a byte -/

theorem dmaByte_toPlanes (hm : d.mode = 1) (i : Nat) :
    (dmaByte d src i).1 = packByte (fun t => bitOf src (d.planes * (8 * (i % n) + t) + i / n)) := by
  simp only [dmaByte, hm, hp.div_max]
  rfl

theorem dmaByte_fromPlanes (hm : d.mode = 2) (i : Nat) : (dmaByte d src i).1 = packByte (fun t =>
    (src.getD ((8 * i + t) % d.planes * n + (8 * i + t) / d.planes / 8) (0, 0)).1.getLsbD ((8 * i + t) / d.planes % 8)) := by
  simp only [dmaByte, hm, hp.div_max]
  rfl

theorem dmaByte_interleave (hm : d.mode = 3) (i : Nat) : dmaByte d src i =
    src.getD (i / d.esize % d.planes * n + i / d.esize / d.planes * d.esize + i % d.esize) (0, 0) := by
  simp only [dmaByte, hm, hp.div_max]

theorem dmaByte_deinterleave (hm : d.mode = 4) (i : Nat) : dmaByte d src i =
    src.getD ((i % n / d.esize * d.planes + i / n) * d.esize + i % n % d.esize) (0, 0) := by
  simp only [dmaByte, hm, hp.div_max]

end

/-! #### Bit planes -/

section

variable {d : DmaForm} {src : List Marked}

theorem length_reshuffle : (reshuffle d src).length = d.len := by
  simp [reshuffle]

theorem getElem?_reshuffle {i : Nat} (h : i < d.len) : (reshuffle d src)[i]? = some (dmaByte d src i) := by
  simp [reshuffle, h]

theorem bitOf_reshuffle {x : Nat} (h : x < 8 * d.len) :
    bitOf (reshuffle d src) x = (dmaByte d src (x / 8)).1.getLsbD (x % 8) := by
  rw [bitOf, List.getD_eq_getElem?_getD, getElem?_reshuffle (by omega), Option.getD_some]

theorem mul_add_div_mod {n b : Nat} (f : Nat) (hb : b < n) : (n * f + b) / n = f ∧ (n * f + b) % n = b :=
  (Nat.div_mod_unique (by omega)).2 ⟨Nat.add_comm _ _, hb⟩

/-- Bit `i` of plane `j`, with planes of `n` bytes: its byte and its place there. -/
theorem planeBit_div (n i j : Nat) : (8 * n * j + i) / 8 = n * j + i / 8 := by
  rw [Nat.mul_assoc]; omega

theorem planeBit_mod (n i j : Nat) : (8 * n * j + i) % 8 = i % 8 := by
  rw [Nat.mul_assoc]; omega

variable {n i j : Nat} (hp : PlaneBytes d n) (hi : i < 8 * n) (hj : j < d.planes)

include hp hi hj

/-- TO_PLANES: bit `i` of plane `j` is bit `j` of element `i`. -/
theorem bitOf_toPlanes (hm : d.mode = 1) : bitOf (reshuffle d src) (8 * n * j + i) = bitOf src (d.planes * i + j) := by
  have hb : i / 8 < n := by omega
  have hin := hp.lt_len hj hb
  obtain ⟨hplane, hbyte⟩ := mul_add_div_mod j hb
  rw [bitOf_reshuffle (by rw [Nat.mul_assoc]; omega), planeBit_div, planeBit_mod, dmaByte_toPlanes hp src hm,
    getLsbD_packByte _ (by omega), hplane, hbyte, Nat.div_add_mod]

/-- FROM_PLANES: bit `j` of element `i` is bit `i` of plane `j`. -/
theorem bitOf_fromPlanes (hm : d.mode = 2) : bitOf (reshuffle d src) (d.planes * i + j) = bitOf src (8 * n * j + i) := by
  have hin : d.planes * i + j < 8 * d.len :=
    calc d.planes * i + j < d.planes * (i + 1) := by rw [Nat.mul_succ]; omega
      _ ≤ d.planes * (8 * n) := Nat.mul_le_mul_left _ hi
      _ = 8 * d.len := by rw [hp.len_eq, Nat.mul_left_comm]
  obtain ⟨helem, hbit⟩ := mul_add_div_mod i hj
  rw [bitOf_reshuffle hin, dmaByte_fromPlanes hp src hm, getLsbD_packByte _ (by omega), Nat.div_add_mod, helem, hbit,
    bitOf, planeBit_div, planeBit_mod, Nat.mul_comm n j]

end

/-! #### Elements of fields -/

section

variable {d : DmaForm} {src : List Marked} {n f i b : Nat}

/-- Byte `b` of element `i` of plane `f` among the interleaved elements. -/
def fieldByte (d : DmaForm) (f i b : Nat) : Nat := (i * d.planes + f) * d.esize + b

theorem fieldByte_div_mod (hb : b < d.esize) :
    fieldByte d f i b / d.esize = i * d.planes + f ∧ fieldByte d f i b % d.esize = b := by
  rw [fieldByte, Nat.mul_comm]
  exact mul_add_div_mod _ hb

/-- The interleaved elements lie in the data, when planes hold whole elements. -/
theorem fieldByte_lt_len (hp : PlaneBytes d n) (he : d.esize ∣ n) (hf : f < d.planes) (hb : b < d.esize) (hn : d.esize * i + b < n) :
    fieldByte d f i b < d.len := by
  obtain ⟨c, rfl⟩ := he
  have hi : i < c := Nat.lt_of_mul_lt_mul_left (by omega : d.esize * i < d.esize * c)
  have helem : i * d.planes + f < c * d.planes :=
    calc i * d.planes + f < (i + 1) * d.planes := by rw [Nat.succ_mul]; omega
      _ ≤ c * d.planes := Nat.mul_le_mul_right _ hi
  calc fieldByte d f i b < (i * d.planes + f + 1) * d.esize := by rw [fieldByte, Nat.succ_mul]; omega
    _ ≤ c * d.planes * d.esize := Nat.mul_le_mul_right _ helem
    _ = d.len := by rw [hp.len_eq]; ring

variable (hp : PlaneBytes d n) (he : d.esize ∣ n) (hl : src.length = d.len) (hf : f < d.planes) (hb : b < d.esize)
  (hn : d.esize * i + b < n)

include hp he hl hf hb hn

/-- INTERLEAVE: element `i` of plane `f` is written at `(i F + f) E`. -/
theorem getElem?_interleave (hm : d.mode = 3) :
    (reshuffle d src)[fieldByte d f i b]? = src[f * n + d.esize * i + b]? := by
  obtain ⟨hdiv, hmod⟩ := fieldByte_div_mod (d := d) (f := f) (i := i) hb
  obtain ⟨helem, hfield⟩ := mul_add_div_mod i hf
  have hin : f * n + d.esize * i + b < src.length := by
    rw [hl, Nat.mul_comm f, Nat.add_assoc]
    exact hp.lt_len hf hn
  rw [getElem?_reshuffle (fieldByte_lt_len hp he hf hb hn), dmaByte_interleave hp src hm, hdiv, hmod, Nat.mul_comm i, helem, hfield,
    Nat.mul_comm i, List.getD_eq_getElem _ _ hin, List.getElem?_eq_getElem hin]

/-- DEINTERLEAVE takes it from there. -/
theorem getElem?_deinterleave (hm : d.mode = 4) :
    (reshuffle d src)[f * n + d.esize * i + b]? = src[fieldByte d f i b]? := by
  obtain ⟨hplane, hbyte⟩ := mul_add_div_mod f hn
  obtain ⟨helem, hrest⟩ := mul_add_div_mod i hb
  have hin : fieldByte d f i b < src.length := hl ▸ fieldByte_lt_len hp he hf hb hn
  rw [Nat.mul_comm f, Nat.add_assoc, getElem?_reshuffle (hp.lt_len hf hn), dmaByte_deinterleave hp src hm, hplane, hbyte, helem, hrest,
    ← fieldByte, List.getD_eq_getElem _ _ hin, List.getElem?_eq_getElem hin]

end

/-! #### Where the planes lie (R320, R321) -/

/-- The addresses of the bytes of a list of pieces, in their order. -/
def pieceBytes (m : List (Nat × Nat)) : List Nat := m.flatMap (fun x => (List.range x.2).map (fun o => x.1 + o))

/-- A run without a ring covers its bytes in order; `g` pieces suffice up to page boundary `g` from its first page on. -/
theorem pieceBytes_runPieces (base g : Nat) (a n : Nat) (h : n ≤ 4096 * g - a % 4096) :
    pieceBytes (runPieces 0 base g a n) = (List.range n).map (fun o => a + o) := by
  induction g generalizing a n with
  | zero => simp [runPieces, pieceBytes, show n = 0 by omega]
  | succ g ih =>
    by_cases hn : n = 0
    · simp [runPieces, pieceBytes, hn]
    · have hrest := ih (a + min n (4096 - a % 4096)) (n - min n (4096 - a % 4096)) (by omega)
      have hcut : n = min n (4096 - a % 4096) + (n - min n (4096 - a % 4096)) := by omega
      rw [runPieces, if_neg hn, pieceBytes, List.flatMap_cons, ← pieceBytes, hrest]
      conv_rhs => rw [hcut, List.range_add, List.map_append, List.map_map]
      simp [wrapAddr, Function.comp_def, Nat.add_assoc]

/-- The pieces of planes of `n` bytes, `step` apart from `base` on, on a side without a ring. -/
def planePieces (p n base step : Nat) : List (Nat × Nat) :=
  (List.range p).flatMap (fun j => runPieces 0 base (n / 4096 + 2) (base + j * step) n)

theorem pieceBytes_planePieces (p n base step : Nat) : pieceBytes (planePieces p n base step) =
    (List.range p).flatMap (fun j => (List.range n).map (fun o => base + j * step + o)) := by
  rw [planePieces, pieceBytes, List.flatMap_assoc]
  congr 1
  funext j
  exact pieceBytes_runPieces _ _ _ _ (by omega)

section

variable {d : DmaForm}

theorem sidePieces_toPlanes (hm : d.mode = 1) (hw : d.dstWrap = 0) :
    sidePieces d false = planePieces d.planes (d.len / d.planes) d.dst (d.len / d.planes) := by
  simp [sidePieces, planePieces, hm, hw]

theorem sidePieces_fromPlanes (hm : d.mode = 2) (hw : d.srcWrap = 0) :
    sidePieces d true = planePieces d.planes (d.len / d.planes) d.src (d.len / d.planes) := by
  simp [sidePieces, planePieces, hm, hw]

theorem sidePieces_interleave (hm : d.mode = 3) (hw : d.srcWrap = 0) :
    sidePieces d true = planePieces d.planes (d.len / d.planes) d.src d.pstride := by
  simp [sidePieces, planePieces, hm, hw]

theorem sidePieces_deinterleave (hm : d.mode = 4) (hw : d.dstWrap = 0) :
    sidePieces d false = planePieces d.planes (d.len / d.planes) d.dst d.pstride := by
  simp [sidePieces, planePieces, hm, hw]

end

/-! #### What a legal descriptor shows (R319, R320) -/

theorem esize_dvd (raw : BitVec 512) : (dmaForm raw).esize ∣ 32 := by
  have hfield : fieldOf raw (64 * 2 + 41) (64 * 2 + 40) < 2 ^ 2 := Nat.mod_lt _ (by decide)
  exact pow_dvd_pow 2 (by omega : fieldOf raw (64 * 2 + 41) (64 * 2 + 40) ≤ 5)

/-- A legal descriptor of a mode with planes has a plane, and LEN is a multiple of the planes' units. -/
theorem dmaFormOk_planes {raw : BitVec 512} (h : dmaFormOk raw = true) (hm : (dmaForm raw).mode ∈ [1, 2, 3, 4]) :
    0 < (dmaForm raw).planes ∧ 32 * (dmaForm raw).planes ∣ (dmaForm raw).len := by
  simp only [dmaFormOk, Bool.and_eq_true] at h
  obtain ⟨⟨⟨⟨⟨⟨-, hmode⟩, -⟩, -⟩, -⟩, -⟩, -⟩ := h
  simp only [List.mem_cons, List.not_mem_nil, or_false] at hm
  rw [Nat.dvd_iff_mod_eq_zero]
  rcases hm with hm | hm | hm | hm
  all_goals
    simp only [hm, Bool.and_eq_true, List.contains_eq_mem, List.mem_cons, List.not_mem_nil, or_false, decide_eq_true_eq,
      beq_iff_eq] at hmode
    omega

/-- Its planes hold whole units of 32 bytes. -/
theorem planeBytes_of_dmaFormOk {raw : BitVec 512} (h : dmaFormOk raw = true) (hm : (dmaForm raw).mode ∈ [1, 2, 3, 4]) :
    PlaneBytes (dmaForm raw) ((dmaForm raw).len / (dmaForm raw).planes) ∧ 32 ∣ (dmaForm raw).len / (dmaForm raw).planes := by
  obtain ⟨hpos, hdvd⟩ := dmaFormOk_planes h hm
  have hp := dvd_of_mul_left_dvd hdvd
  exact ⟨⟨hpos, (Nat.mul_div_cancel' hp).symm⟩, (Nat.dvd_div_iff_mul_dvd hp).2 (Nat.mul_comm _ 32 ▸ hdvd)⟩

/-- Settles O46: the source bit or byte of each place is computed from `dmaByte`'s index, and runs without a ring are gapless. -/
theorem reshuffleModes : Obligations.ReshuffleModes := by
  intro raw l hok hl
  have hsrc : (l.map (fun b => ((b, 0) : Marked))).length = (dmaForm raw).len := by rw [List.length_map, hl]
  have hplanes := fun hm => planeBytes_of_dmaFormOk (raw := raw) hok hm
  refine ⟨length_reshuffle, fun hm => ?bits, fun hm => ?toPlanes, fun hm => ?fromPlanes, fun hm => ?fields, fun hm => ?interleave, fun hm => ?deinterleave⟩
  case bits => exact Nat.mod_eq_zero_of_dvd (dmaFormOk_planes hok (by rcases hm with hm | hm <;> simp [hm])).2
  case fields =>
    obtain ⟨hp, h32⟩ := hplanes (by rcases hm with hm | hm <;> simp [hm])
    exact ⟨Nat.mod_eq_zero_of_dvd ⟨_, hp.len_eq⟩, Nat.mod_eq_zero_of_dvd h32⟩
  all_goals obtain ⟨hp, h32⟩ := hplanes (by simp [hm])
  case toPlanes =>
    exact ⟨fun i j hi hj => bitOf_toPlanes hp hi hj hm,
      fun hw => (congrArg pieceBytes (sidePieces_toPlanes hm hw)).trans (pieceBytes_planePieces ..)⟩
  case fromPlanes =>
    exact ⟨fun i j hi hj => bitOf_fromPlanes hp hi hj hm,
      fun hw => (congrArg pieceBytes (sidePieces_fromPlanes hm hw)).trans (pieceBytes_planePieces ..)⟩
  case interleave =>
    exact ⟨fun f i b hf hb hn => getElem?_interleave hp ((esize_dvd raw).trans h32) hsrc hf hb hn hm,
      fun hw => (congrArg pieceBytes (sidePieces_interleave hm hw)).trans (pieceBytes_planePieces ..)⟩
  case deinterleave =>
    exact ⟨fun f i b hf hb hn => getElem?_deinterleave hp ((esize_dvd raw).trans h32) hsrc hf hb hn hm,
      fun hw => (congrArg pieceBytes (sidePieces_deinterleave hm hw)).trans (pieceBytes_planePieces ..)⟩

end Sys2Proof.Machine
